-- ==== Sys2Proof/Word.lean ====
section
/-! DEFINITION. The word types of the machine and their plainest arithmetic (spec/01_notation.md, wrap64, sext,
zext; spec/02_encoding.md R19, R26, R27 for the field widths). -/

namespace Sys2Proof

/-- A 64-bit word: the contents of a general register and of every special register (R71). -/
abbrev Word := BitVec 64

/-- One byte of memory. -/
abbrev Byte := BitVec 8

/-- A 256-bit short-vector register `v` or `y` (R247). -/
abbrev SVec := BitVec 256

/-- A 4,096-bit long-vector register `w` (R247). -/
abbrev LVec := BitVec 4096

/-- A 6-bit register field (R11, R28): 0 to 31 name the private bank, 32 to 63 the shared bank. -/
abbrev Reg := Fin 64

/-- A segment number `g0` to `g7` (R124). -/
abbrev Seg := Fin 8

/-- The word of a natural number, taken modulo 2^64: wrap64. -/
def wrap64 (n : Nat) : Word := BitVec.ofNat 64 n

/-- The word of an integer, taken modulo 2^64: wrap64. -/
def wrapI (i : Int) : Word := BitVec.ofInt 64 i

end Sys2Proof
end

