-- ==== Sys2Proof/Syntax.lean ====
section
/-! DEFINITION. The instructions of the machine: one constructor for each row of spec/opcode_table.json. The rows
with an encoding come first, in the order of the opcode maps (R31 to R40); the rows without one (the machine's
own steps and the inputs it takes) come after them. -/

namespace Sys2Proof

/-- The access sizes of R32: 1, 2, 4 and 8 bytes. -/
inductive Size where
  | b | h | w | d
  deriving DecidableEq, Repr

/-- The scopes of R30, narrowest first. -/
inductive Scope where
  | thr | core | clu | die | pkg | sys
  deriving DecidableEq, Repr

/-- The rounding modes of R57: RNE, RTZ, RDN, RUP, RNA, SR and RNE saturating (`rsat`, code 110). -/
inductive Rm where
  | rne | rtz | rdn | rup | rna | sr | rsat
  deriving DecidableEq, Repr

/-- The integer modifiers of R84: none, `.usat`, `.sat`. -/
inductive IntMod where
  | wrap | usat | sat
  deriving DecidableEq, Repr

/-- The floating-point element types of vector forms (R39). -/
inductive FT where
  | f32 | bf16 | f16
  deriving DecidableEq, Repr

/-- The integer element types of vector forms (R39). -/
inductive IT where
  | i8 | u8 | i16 | i32 | i64
  deriving DecidableEq, Repr

/-- The element types of vector forms (R39). -/
inductive VT where
  | fl (t : FT)
  | int (t : IT)
  deriving DecidableEq, Repr

/-- The floating-point types of the `.S` forms (R40, codes 000 to 011). -/
inductive SF where
  | f32 | bf16 | f16 | f64
  deriving DecidableEq, Repr

/-- The integer types of `VCVT.S` (R40, codes 100 to 111). -/
inductive SI where
  | i32 | i64 | u32 | u64
  deriving DecidableEq, Repr

/-- The types of `VCVT.S` (R40). -/
inductive ST where
  | fl (t : SF)
  | int (t : SI)
  deriving DecidableEq, Repr

/-- The element type of a vector arithmetic form with what its `rm` field then holds (R255): a rounding mode for
a float type, an integer modifier for an integer type. -/
inductive VArith where
  | fl (t : FT) (r : Rm)
  | int (t : IT) (m : IntMod)
  deriving DecidableEq, Repr

/-- The element type of `VABS` and `VNEG` with their `rm` codes (R255): 000 for a float type, 000 or 110 for an
integer type. -/
inductive VAbs where
  | fl (t : FT)
  | int (t : IT) (sat : Bool)
  deriving DecidableEq, Repr

/-- The conditions of `CMP` (R38). -/
inductive Cond where
  | eq | ne | lt | ge | ltu | geu
  deriving DecidableEq, Repr

/-- The conditions of `VCMP` that every type takes (R258, codes 000 to 101). -/
inductive ICond where
  | eq | ne | lt | ge | le | gt
  deriving DecidableEq, Repr

/-- The conditions of `VCMP` on float types (R258). -/
inductive VCond where
  | ord (c : ICond)
  | uno
  deriving DecidableEq, Repr

/-- The element type of `VCMP` with its condition (R255, R258): `.uno` only with a float type. -/
inductive VCmp where
  | fl (t : FT) (c : VCond)
  | int (t : IT) (c : ICond)
  deriving DecidableEq, Repr

/-- The ordering of an atomic (R31, op6 0x30 to 0x32): none, `.acq` or `.rel` with its scope. -/
inductive AOrd where
  | plain
  | acq (sc : Scope)
  | rel (sc : Scope)
  deriving DecidableEq, Repr

/-- The engines that `BENG` names (R31): carter, matrix array, tick array. -/
inductive Eng where
  | cart | mx | tk
  deriving DecidableEq, Repr

/-- The conditions of `BENG` (R31). -/
inductive EngCond where
  | busy | done | faulted
  deriving DecidableEq, Repr

/-- The rendezvous points that the 5-bit `arg` can spell (R33, R34). -/
abbrev Point := Fin 32

/-- The special register numbers that the 6-bit `arg` can spell (R34, R81). -/
abbrev SrNum := Fin 64

/-- What the host does at its link (R346, R347): a load or a store of at most 64 bytes at a host physical address, the
programming of an HDM decoder (base, size and local LPDDR6 offset), or the read of a register of the BAR0 window. -/
inductive HostAccess where
  | load (hpa size : Nat)
  | store (hpa : Nat) (bytes : List Byte)
  | decoder (i : Fin 8) (base size offset : Nat)
  | readReg (off : Nat)
  | mask (v : Fin 3)
  deriving DecidableEq, Repr

/-- What the manifest of a firmware bundle carries (R361), with the outcome of the two signature checks, which
the model takes from outside. -/
structure FirmwareBundle where
  version : Nat
  digest : BitVec 512
  ed25519Ok : Bool
  mldsaOk : Bool
  deriving DecidableEq, Repr

/-- The instructions: a constructor for each row of the opcode table. -/
inductive Instr where
  /-- `NOP`: The control or lone no-operation (R43). -/
  | nop
  /-- `NOP_ARITH`: The arithmetic no-operation, word 0x4000_0000 (R38, R43). -/
  | nopArith
  /-- `YIELD`: R108. -/
  | yield
  /-- `EXIT`: R108, R102. -/
  | exit
  /-- `TRAP`: R108. -/
  | trap (a : Reg)
  /-- `JR`: R106. -/
  | jr (a : Reg)
  /-- `JLR`: R106. -/
  | jlr (a : Reg)
  /-- `RDSR`: R82. -/
  | rdsr (d : Reg) (sr : SrNum)
  /-- `WRSR`: R82. -/
  | wrsr (b : Reg) (sr : SrNum)
  /-- `FENCE`: R219. -/
  | fence (sc : Scope)
  /-- `WIDEN`: R221. -/
  | widen (sc : Scope)
  /-- `VMODE`: R250. -/
  | vmode
  /-- `VMODE_LONG`: R250. -/
  | vmodeLong
  /-- `TSTART`: R99. -/
  | tstart (a : Reg) (b : Reg)
  /-- `TREAP`: R100. -/
  | treap (a : Reg)
  /-- `TSTAT`: R101. -/
  | tstat (d : Reg) (b : Reg)
  /-- `RVINIT`: R111. -/
  | rvinit (a : Reg) (pt : Point)
  /-- `RVARR`: R111. -/
  | rvarr (pt : Point)
  /-- `RVWAIT`: R111. -/
  | rvwait (pt : Point)
  /-- `RVBYTES`: R233. -/
  | rvbytes (a : Reg) (pt : Point)
  /-- `MOVI`: R89. -/
  | movi (d : Reg) (imm : BitVec 18)
  /-- `MOVHI`: R89. -/
  | movhi (d : Reg) (imm : BitVec 18)
  /-- `ADDI`: R89. -/
  | addi (d : Reg) (imm : BitVec 18)
  /-- `ADDI_W`: R89. -/
  | addiW (d : Reg) (imm : BitVec 18)
  /-- `WAIT`: R105. -/
  | wait (mx : Fin 16) (cp : Fin 16) (st : Fin 16) (ld : Fin 16)
  /-- `J`: R106. -/
  | j (off : BitVec 24)
  /-- `JL`: R106. -/
  | jl (off : BitVec 24)
  /-- `SPAWN`: R292. -/
  | spawn (off : BitVec 24)
  /-- `BEQ`: R106. -/
  | beq (a : Reg) (b : Reg) (off : BitVec 12)
  /-- `BNE`: R106. -/
  | bne (a : Reg) (b : Reg) (off : BitVec 12)
  /-- `BLT`: R106. -/
  | blt (a : Reg) (b : Reg) (off : BitVec 12)
  /-- `BGE`: R106. -/
  | bge (a : Reg) (b : Reg) (off : BitVec 12)
  /-- `BLTU`: R106. -/
  | bltu (a : Reg) (b : Reg) (off : BitVec 12)
  /-- `BGEU`: R106. -/
  | bgeu (a : Reg) (b : Reg) (off : BitVec 12)
  /-- `BZ`: R106. -/
  | bz (a : Reg) (off : BitVec 12)
  /-- `BNZ`: R106. -/
  | bnz (a : Reg) (off : BitVec 12)
  /-- `BENG`: R107. -/
  | beng (eng : Eng) (cond : EngCond) (tok : Reg) (off : BitVec 12)
  /-- `LD_B`: R128. -/
  | ldB (d : Reg) (x : Reg) (g : Seg) (imm : BitVec 9)
  /-- `LD_H`: R128. -/
  | ldH (d : Reg) (x : Reg) (g : Seg) (imm : BitVec 9)
  /-- `LD_W`: R128. -/
  | ldW (d : Reg) (x : Reg) (g : Seg) (imm : BitVec 9)
  /-- `LD_D`: R128. -/
  | ldD (d : Reg) (x : Reg) (g : Seg) (imm : BitVec 9)
  /-- `LD_B_SX`: R128. -/
  | ldBSx (d : Reg) (x : Reg) (g : Seg) (imm : BitVec 9)
  /-- `LD_H_SX`: R128. -/
  | ldHSx (d : Reg) (x : Reg) (g : Seg) (imm : BitVec 9)
  /-- `LD_W_SX`: R128. -/
  | ldWSx (d : Reg) (x : Reg) (g : Seg) (imm : BitVec 9)
  /-- `ST_B`: R128. -/
  | stB (d : Reg) (x : Reg) (g : Seg) (imm : BitVec 9)
  /-- `ST_H`: R128. -/
  | stH (d : Reg) (x : Reg) (g : Seg) (imm : BitVec 9)
  /-- `ST_W`: R128. -/
  | stW (d : Reg) (x : Reg) (g : Seg) (imm : BitVec 9)
  /-- `ST_D`: R128. -/
  | stD (d : Reg) (x : Reg) (g : Seg) (imm : BitVec 9)
  /-- `LDS`: R130. -/
  | lds (d : Reg) (x : Reg) (g : Seg) (imm : BitVec 9)
  /-- `LDF`: R130. -/
  | ldf (d : Reg) (x : Reg) (g : Seg) (imm : BitVec 9)
  /-- `STS`: R130. -/
  | sts (d : Reg) (x : Reg) (g : Seg) (imm : BitVec 9)
  /-- `STF`: R130. -/
  | stf (d : Reg) (x : Reg) (g : Seg) (imm : BitVec 9)
  /-- `FESET`: R131. -/
  | feset (x : Reg) (g : Seg)
  /-- `FECLR`: R131. -/
  | feclr (x : Reg) (g : Seg)
  /-- `FEQ`: R131. -/
  | feq (d : Reg) (x : Reg) (g : Seg)
  /-- `LDG_B`: R202. -/
  | ldgB (d : Reg) (x : Reg) (g : Seg) (imm : BitVec 9)
  /-- `LDG_H`: R202. -/
  | ldgH (d : Reg) (x : Reg) (g : Seg) (imm : BitVec 9)
  /-- `LDG_W`: R202. -/
  | ldgW (d : Reg) (x : Reg) (g : Seg) (imm : BitVec 9)
  /-- `LDG_D`: R202. -/
  | ldgD (d : Reg) (x : Reg) (g : Seg) (imm : BitVec 9)
  /-- `LDG_B_SX`: R202. -/
  | ldgBSx (d : Reg) (x : Reg) (g : Seg) (imm : BitVec 9)
  /-- `LDG_H_SX`: R202. -/
  | ldgHSx (d : Reg) (x : Reg) (g : Seg) (imm : BitVec 9)
  /-- `LDG_W_SX`: R202. -/
  | ldgWSx (d : Reg) (x : Reg) (g : Seg) (imm : BitVec 9)
  /-- `STG_B`: R202. -/
  | stgB (d : Reg) (x : Reg) (g : Seg) (imm : BitVec 9)
  /-- `STG_H`: R202. -/
  | stgH (d : Reg) (x : Reg) (g : Seg) (imm : BitVec 9)
  /-- `STG_W`: R202. -/
  | stgW (d : Reg) (x : Reg) (g : Seg) (imm : BitVec 9)
  /-- `STG_D`: R202. -/
  | stgD (d : Reg) (x : Reg) (g : Seg) (imm : BitVec 9)
  /-- `PREF`: R203. -/
  | pref (x : Reg) (g : Seg)
  /-- `CCLEAN`: R203. -/
  | cclean (x : Reg) (g : Seg)
  /-- `CINVAL`: R203. -/
  | cinval (x : Reg) (g : Seg)
  /-- `LD_ACQ`: R217. -/
  | ldAcq (z : Size) (sx : Bool) (sc : Scope) (d : Reg) (x : Reg) (g : Seg)
  /-- `LDG_ACQ`: R217. -/
  | ldgAcq (z : Size) (sx : Bool) (sc : Scope) (d : Reg) (x : Reg) (g : Seg)
  /-- `ST_REL`: R217. -/
  | stRel (z : Size) (sc : Scope) (d : Reg) (x : Reg) (g : Seg)
  /-- `STG_REL`: R217. -/
  | stgRel (z : Size) (sc : Scope) (d : Reg) (x : Reg) (g : Seg)
  /-- `AADD`: R204. -/
  | aadd (o : AOrd) (n : Bool) (dw : Bool) (d : Reg) (x : Reg) (g : Seg)
  /-- `AAND`: R204. -/
  | aand (o : AOrd) (n : Bool) (dw : Bool) (d : Reg) (x : Reg) (g : Seg)
  /-- `AOR`: R204. -/
  | aor (o : AOrd) (n : Bool) (dw : Bool) (d : Reg) (x : Reg) (g : Seg)
  /-- `AXOR`: R204. -/
  | axor (o : AOrd) (n : Bool) (dw : Bool) (d : Reg) (x : Reg) (g : Seg)
  /-- `AMIN`: R204. -/
  | amin (o : AOrd) (n : Bool) (dw : Bool) (d : Reg) (x : Reg) (g : Seg)
  /-- `AMAX`: R204. -/
  | amax (o : AOrd) (n : Bool) (dw : Bool) (d : Reg) (x : Reg) (g : Seg)
  /-- `AMINU`: R204. -/
  | aminu (o : AOrd) (n : Bool) (dw : Bool) (d : Reg) (x : Reg) (g : Seg)
  /-- `AMAXU`: R204. -/
  | amaxu (o : AOrd) (n : Bool) (dw : Bool) (d : Reg) (x : Reg) (g : Seg)
  /-- `AXCHG`: R204. -/
  | axchg (o : AOrd) (n : Bool) (dw : Bool) (d : Reg) (x : Reg) (g : Seg)
  /-- `ACAS`: R204. -/
  | acas (o : AOrd) (n : Bool) (dw : Bool) (d : Reg) (x : Reg) (g : Seg)
  /-- `AFADD`: R205. -/
  | afadd (o : AOrd) (n : Bool) (d : Reg) (x : Reg) (g : Seg)
  /-- `RST`: R179. -/
  | rst (st : Fin 16) (z : Size) (d : Reg) (x : Reg) (g : Seg)
  /-- `MST`: R183. -/
  | mst (d : Reg) (x : Reg) (g : Seg) (imm : BitVec 9)
  /-- `VLD`: R252. -/
  | vld (d : Reg) (x : Reg) (g : Seg) (imm : BitVec 9)
  /-- `VST`: R252. -/
  | vst (d : Reg) (x : Reg) (g : Seg) (imm : BitVec 9)
  /-- `VLDS`: R253. -/
  | vlds (t : Reg) (z : Size) (d : Reg) (x : Reg) (g : Seg)
  /-- `VGATH`: R253. -/
  | vgath (t : Reg) (z : Size) (d : Reg) (x : Reg) (g : Seg)
  /-- `VSCAT`: R253. -/
  | vscat (t : Reg) (z : Size) (d : Reg) (x : Reg) (g : Seg)
  /-- `SEGSET`: R127. -/
  | segset (a : Reg) (b : Reg) (g : Seg)
  /-- `SEGGET`: R127. -/
  | segget (d : Reg) (g : Seg)
  /-- `SEGNARROW`: R127. -/
  | segnarrow (a : Reg) (b : Reg) (g : Seg)
  /-- `BANKFMT`: R122. -/
  | bankfmt (a : Reg) (b : Reg)
  /-- `BANKALLOC`: R117. -/
  | bankalloc (d : Reg) (b : Reg)
  /-- `BANKFREE`: R118. -/
  | bankfree (a : Reg)
  /-- `POOLSET`: R119. -/
  | poolset (a : Reg)
  /-- `HISTRD`: R123. -/
  | histrd (d : Reg) (b : Reg) (bin : Fin 64)
  /-- `HISTCLR`: R123. -/
  | histclr (a : Reg)
  /-- `SWAIT`: R180. -/
  | swait (d : Reg) (st : Fin 16)
  /-- `SSEQ`: R181. -/
  | sseq (d : Reg) (b : Reg) (st : Fin 16)
  /-- `PGREG`: R194. -/
  | pgreg (a : Reg) (b : Reg)
  /-- `PGFILL`: R195. -/
  | pgfill (a : Reg) (b : Reg)
  /-- `CPSTREAM`: R235. -/
  | cpstream (b : Reg) (k : Fin 4)
  /-- `ACCRD`: R245. -/
  | accrd (d : Reg) (b : Reg) (t : Fin 4)
  /-- `MXSAVE`: R244. -/
  | mxsave (a : Reg)
  /-- `MXLOAD`: R244. -/
  | mxload (a : Reg)
  /-- `TKWIN`: R270. -/
  | tkwin (a : Reg)
  /-- `TKLOAD`: R270. -/
  | tkload (a : Reg) (b : Reg)
  /-- `TKLAUNCH`: R270. -/
  | tklaunch (a : Reg)
  /-- `TKLAUNCH_AND`: R270. -/
  | tklaunchAnd (a : Reg)
  /-- `TKCAPT`: R270. -/
  | tkcapt (a : Reg)
  /-- `TKFIRST`: R272. -/
  | tkfirst (d : Reg) (b : Reg)
  /-- `TKRESET`: R270. -/
  | tkreset
  /-- `TKSTAT`: R273. -/
  | tkstat (d : Reg)
  /-- `CHDECL`: R140. -/
  | chdecl (a : Reg) (b : Reg) (out : Bool) (i : Fin 16)
  /-- `CHCLOSE`: R162. -/
  | chclose (out : Bool) (i : Fin 16)
  /-- `HDLSET`: R151. -/
  | hdlset (a : Reg) (i : Fin 16)
  /-- `SEND`: R142. -/
  | send (a : Reg) (i : Fin 16)
  /-- `RECV`: R148. -/
  | recv (d : Reg)
  /-- `EVDONE`: R149. -/
  | evdone
  /-- `PROMISE`: R154. -/
  | promise (a : Reg) (i : Fin 16)
  /-- `FLOOR`: R160. -/
  | floor (d : Reg)
  /-- `EVSTART`: R150. -/
  | evstart (a : Reg)
  /-- `SYNC`: R294. -/
  | sync
  /-- `TASKEND`: R293. -/
  | taskend
  /-- `QCFG`: R296. -/
  | qcfg (a : Reg) (k : Fin 4)
  /-- `LAUNCH`: R288. -/
  | launch (a : Reg) (b : Reg)
  /-- `RWAIT`: R289. -/
  | rwait (a : Reg)
  /-- `TSCORE`: R311. -/
  | tscore (a : Reg)
  /-- `TROUND`: R312. -/
  | tround
  /-- `TGROW`: R313. -/
  | tgrow (d : Reg)
  /-- `TRANK`: R314. -/
  | trank (d : Reg) (b : Reg)
  /-- `FRECRD`: R329. -/
  | frecrd (d : Reg) (b : Reg) (w : Fin 8)
  /-- `QTHAW`: R330. -/
  | qthaw (a : Reg)
  /-- `CTXSAVE`: R337. -/
  | ctxsave (a : Reg)
  /-- `CTXLOAD`: R337. -/
  | ctxload (a : Reg)
  /-- `ERET`: R337. -/
  | eret
  /-- `ADD`: R86. -/
  | add (w : Bool) (m : IntMod) (d : Reg) (a : Reg) (b : Reg)
  /-- `SUB`: R86. -/
  | sub (w : Bool) (m : IntMod) (d : Reg) (a : Reg) (b : Reg)
  /-- `MIN`: R86. -/
  | min (w : Bool) (d : Reg) (a : Reg) (b : Reg)
  /-- `MAX`: R86. -/
  | max (w : Bool) (d : Reg) (a : Reg) (b : Reg)
  /-- `MINU`: R86. -/
  | minu (w : Bool) (d : Reg) (a : Reg) (b : Reg)
  /-- `MAXU`: R86. -/
  | maxu (w : Bool) (d : Reg) (a : Reg) (b : Reg)
  /-- `MOV`: R86. -/
  | mov (w : Bool) (d : Reg) (a : Reg)
  /-- `SEL`: R86. -/
  | sel (w : Bool) (d : Reg) (a : Reg) (b : Reg)
  /-- `MUL`: R87. -/
  | mul (w : Bool) (m : IntMod) (d : Reg) (a : Reg) (b : Reg)
  /-- `MULH`: R87. -/
  | mulh (w : Bool) (d : Reg) (a : Reg) (b : Reg)
  /-- `MULHU`: R87. -/
  | mulhu (w : Bool) (d : Reg) (a : Reg) (b : Reg)
  /-- `DIV`: R87. -/
  | div (w : Bool) (d : Reg) (a : Reg) (b : Reg)
  /-- `DIVU`: R87. -/
  | divu (w : Bool) (d : Reg) (a : Reg) (b : Reg)
  /-- `REM`: R87. -/
  | rem (w : Bool) (d : Reg) (a : Reg) (b : Reg)
  /-- `REMU`: R87. -/
  | remu (w : Bool) (d : Reg) (a : Reg) (b : Reg)
  /-- `AND`: R86. -/
  | and (w : Bool) (d : Reg) (a : Reg) (b : Reg)
  /-- `OR`: R86. -/
  | or (w : Bool) (d : Reg) (a : Reg) (b : Reg)
  /-- `XOR`: R86. -/
  | xor (w : Bool) (d : Reg) (a : Reg) (b : Reg)
  /-- `ANDN`: R86. -/
  | andn (w : Bool) (d : Reg) (a : Reg) (b : Reg)
  /-- `ORN`: R86. -/
  | orn (w : Bool) (d : Reg) (a : Reg) (b : Reg)
  /-- `SHL`: R86. -/
  | shl (w : Bool) (d : Reg) (a : Reg) (b : Reg)
  /-- `SHR`: R86. -/
  | shr (w : Bool) (d : Reg) (a : Reg) (b : Reg)
  /-- `SRA`: R86. -/
  | sra (w : Bool) (d : Reg) (a : Reg) (b : Reg)
  /-- `ROL`: R88. -/
  | rol (w : Bool) (d : Reg) (a : Reg) (b : Reg)
  /-- `CLZ`: R88. -/
  | clz (w : Bool) (d : Reg) (a : Reg)
  /-- `CTZ`: R88. -/
  | ctz (w : Bool) (d : Reg) (a : Reg)
  /-- `POPC`: R88. -/
  | popc (w : Bool) (d : Reg) (a : Reg)
  /-- `BFX`: R88. -/
  | bfx (w : Bool) (d : Reg) (a : Reg) (b : Reg)
  /-- `BFX_SX`: R88. -/
  | bfxSx (w : Bool) (d : Reg) (a : Reg) (b : Reg)
  /-- `BFI`: R88. -/
  | bfi (w : Bool) (d : Reg) (a : Reg) (b : Reg)
  /-- `CMP`: R86. -/
  | cmp (c : Cond) (w : Bool) (d : Reg) (a : Reg) (b : Reg)
  /-- `VADD`: R256. -/
  | vadd (t : VArith) (d : Reg) (a : Reg) (b : Reg)
  /-- `VSUB`: R256. -/
  | vsub (t : VArith) (d : Reg) (a : Reg) (b : Reg)
  /-- `VMUL`: R256. -/
  | vmul (t : VArith) (d : Reg) (a : Reg) (b : Reg)
  /-- `VFMA`: R256. -/
  | vfma (t : VArith) (d : Reg) (a : Reg) (b : Reg)
  /-- `VDIV`: R256. -/
  | vdiv (t : FT) (r : Rm) (d : Reg) (a : Reg) (b : Reg)
  /-- `VSQRT`: R256. -/
  | vsqrt (t : FT) (r : Rm) (d : Reg) (a : Reg)
  /-- `VMIN`: R256. -/
  | vmin (t : VT) (d : Reg) (a : Reg) (b : Reg)
  /-- `VMAX`: R256. -/
  | vmax (t : VT) (d : Reg) (a : Reg) (b : Reg)
  /-- `VABS`: R256. -/
  | vabs (t : VAbs) (d : Reg) (a : Reg)
  /-- `VNEG`: R256. -/
  | vneg (t : VAbs) (d : Reg) (a : Reg)
  /-- `VRCP`: R257. -/
  | vrcp (t : FT) (r : Rm) (d : Reg) (a : Reg)
  /-- `VRSQ`: R257. -/
  | vrsq (t : FT) (r : Rm) (d : Reg) (a : Reg)
  /-- `VEXP`: R257. -/
  | vexp (t : FT) (r : Rm) (d : Reg) (a : Reg)
  /-- `VLOG`: R257. -/
  | vlog (t : FT) (r : Rm) (d : Reg) (a : Reg)
  /-- `VTANH`: R257. -/
  | vtanh (t : FT) (r : Rm) (d : Reg) (a : Reg)
  /-- `VCMP`: R258. -/
  | vcmp (t : VCmp) (d : Reg) (a : Reg) (b : Reg)
  /-- `VSEL`: R258. -/
  | vsel (t : VT) (d : Reg) (a : Reg) (b : Reg)
  /-- `VAND`: R256. -/
  | vand (t : IT) (d : Reg) (a : Reg) (b : Reg)
  /-- `VOR`: R256. -/
  | vor (t : IT) (d : Reg) (a : Reg) (b : Reg)
  /-- `VXOR`: R256. -/
  | vxor (t : IT) (d : Reg) (a : Reg) (b : Reg)
  /-- `VSHL`: R256. -/
  | vshl (t : IT) (d : Reg) (a : Reg) (b : Reg)
  /-- `VSHR`: R256. -/
  | vshr (t : IT) (d : Reg) (a : Reg) (b : Reg)
  /-- `VCVT`: R259. -/
  | vcvt (dst : VT) (src : VT) (r : Rm) (d : Reg) (a : Reg)
  /-- `VDOT`: R260. -/
  | vdot (t : VArith) (d : Reg) (a : Reg) (b : Reg)
  /-- `VRED`: R260. -/
  | vred (t : VArith) (d : Reg) (a : Reg)
  /-- `VPERM`: R261. -/
  | vperm (t : VT) (d : Reg) (a : Reg) (b : Reg)
  /-- `VBCAST`: R261. -/
  | vbcast (t : VT) (d : Reg) (a : Reg)
  /-- `VEXT`: R261. -/
  | vext (t : VT) (d : Reg) (a : Reg) (b : Reg)
  /-- `VINS`: R261. -/
  | vins (t : VT) (d : Reg) (a : Reg) (b : Reg)
  /-- `VCVT_S`: R262. -/
  | vcvtS (dst : ST) (src : ST) (r : Rm) (d : Reg) (a : Reg)
  /-- `VADD_S`: R262. -/
  | vaddS (t : SF) (r : Rm) (d : Reg) (a : Reg) (b : Reg)
  /-- `VSUB_S`: R262. -/
  | vsubS (t : SF) (r : Rm) (d : Reg) (a : Reg) (b : Reg)
  /-- `VMUL_S`: R262. -/
  | vmulS (t : SF) (r : Rm) (d : Reg) (a : Reg) (b : Reg)
  /-- `VFMA_S`: R262. -/
  | vfmaS (t : SF) (r : Rm) (d : Reg) (a : Reg) (b : Reg)
  /-- `VDIV_S`: R262. -/
  | vdivS (t : SF) (r : Rm) (d : Reg) (a : Reg) (b : Reg)
  /-- `VSQRT_S`: R262. -/
  | vsqrtS (t : SF) (r : Rm) (d : Reg) (a : Reg)
  /-- `VMIN_S`: R262. -/
  | vminS (t : SF) (d : Reg) (a : Reg) (b : Reg)
  /-- `VMAX_S`: R262. -/
  | vmaxS (t : SF) (d : Reg) (a : Reg) (b : Reg)
  /-- `VABS_S`: R262. -/
  | vabsS (t : SF) (d : Reg) (a : Reg)
  /-- `VNEG_S`: R262. -/
  | vnegS (t : SF) (d : Reg) (a : Reg)
  /-- `VRCP_S`: R262. -/
  | vrcpS (t : SF) (r : Rm) (d : Reg) (a : Reg)
  /-- `VRSQ_S`: R262. -/
  | vrsqS (t : SF) (r : Rm) (d : Reg) (a : Reg)
  /-- `VEXP_S`: R262. -/
  | vexpS (t : SF) (r : Rm) (d : Reg) (a : Reg)
  /-- `VLOG_S`: R262. -/
  | vlogS (t : SF) (r : Rm) (d : Reg) (a : Reg)
  /-- `VTANH_S`: R262. -/
  | vtanhS (t : SF) (r : Rm) (d : Reg) (a : Reg)
  /-- `VCMP_S`: R262. -/
  | vcmpS (t : SF) (c : VCond) (d : Reg) (a : Reg) (b : Reg)
  /-- `PARKED_BUNDLE_REISSUE`: R97: the condition of a parked thread holds and the thread becomes ready. -/
  | parkedBundleReissue (cid : Nat) (slot : Nat)
  /-- `ALLOWANCE_END`: R285, R304: the next bundle of the thread fails the allowance test. -/
  | allowanceEnd (cid : Nat) (slot : Nat)
  /-- `NOTICE_PUSH`: R328: the first waiting notice of region rid goes to its core or to the host ring. -/
  | noticePush (rid : Nat)
  /-- `LATE_RESULT_WRITEBACK`: R73: the result of request id reaches its register. -/
  | lateResultWriteback (id : Nat)
  /-- `STORE_ACKNOWLEDGE`: R209: the acknowledgement of request id returns. -/
  | storeAcknowledge (id : Nat)
  /-- `STORE_BUFFER_SEND`: R209: the store buffer of core cid sends its oldest unsent entry. -/
  | storeBufferSend (cid : Nat)
  /-- `BANK_REQUEST_ARRIVAL`: R133: a bank serves its parked entries, then the requests that arrive in this cycle in the order of R132. -/
  | bankRequestArrival (bank : Nat) (ids : List Nat)
  /-- `FE_REQUEST_RESEND`: R134. -/
  | feRequestResend (id : Nat)
  /-- `REMOTE_REFUSAL_ARRIVAL`: R126: a refusal by the destination bank returns. -/
  | remoteRefusalArrival (id : Nat)
  /-- `SLICE_ACCESS_PERFORM`: R197: one access of a request is performed at its ordering point. -/
  | sliceAccessPerform (id : Nat) (piece : Nat)
  /-- `LINE_RECALL_COMPLETE`: R201: a granted line has returned to its slice. -/
  | lineRecallComplete (line : Nat)
  /-- `PINNED_ACCESS_RESEND`: R220. -/
  | pinnedAccessResend (id : Nat)
  /-- `PAGE_WALK_END`: R192: the walk for request id ends. -/
  | pageWalkEnd (id : Nat)
  /-- `HELD_UPCALL_PUSH`: R194: a held upcall is pushed. -/
  | heldUpcallPush (rid : Nat) (page : Nat)
  /-- `PGFILL_COMPLETE`: R195: the tinker finishes PGFILL request id. -/
  | pgfillComplete (id : Nat)
  /-- `WAKE_MESSAGE`: R192: the wake message of a dropped thread arrives. -/
  | wakeMessage (cid : Nat) (slot : Nat)
  /-- `STREAM_STORE_ARRIVAL`: R173: a stream store reaches its destination. -/
  | streamStoreArrival (id : Nat)
  /-- `OPEN_STORE_RESEND`: R173. -/
  | openStoreResend (id : Nat)
  /-- `STREAM_CLOSE_FLIT`: R171: the n-th close flit under way reaches its destination. -/
  | streamCloseFlit (n : Nat)
  /-- `RV_ARRIVAL_COUNT`: R112: the n-th waiting arrival is counted. -/
  | rvArrivalCount (n : Nat)
  /-- `CP_LIN`: R226, R230: the copy at the head of the carter queue of cluster cl begins. -/
  | cpLin (cl : Nat)
  /-- `CP_2D`: R226, R230: the copy at the head of the carter queue of cluster cl begins. -/
  | cp2d (cl : Nat)
  /-- `CP_GATH`: R226, R230: the copy at the head of the carter queue of cluster cl begins. -/
  | cpGath (cl : Nat)
  /-- `CP_SCAT`: R226, R230: the copy at the head of the carter queue of cluster cl begins. -/
  | cpScat (cl : Nat)
  /-- `CP_BCST`: R226, R230: the copy at the head of the carter queue of cluster cl begins. -/
  | cpBcst (cl : Nat)
  /-- `COPY_BYTES_LAND`: R226: the copies of cluster cl land the bytes of one cycle. -/
  | copyBytesLand (cl : Nat)
  /-- `REMOTE_LANDING_REPORT`: R234: the n-th report of remote landings arrives. -/
  | remoteLandingReport (n : Nat)
  /-- `FOLLOW_ON_ENTER`: R232: a follow-on matrix command enters the matrix queue. -/
  | followOnEnter (cl : Nat)
  /-- `MX_MMA`: R239: the dense command at the head of the matrix queue begins. -/
  | mxMma (cl : Nat)
  /-- `MX_SPMMA`: R239: the sparse command at the head of the matrix queue begins. -/
  | mxSpmma (cl : Nat)
  /-- `MX_K_STEP`: R239: one K-step of the executing command. -/
  | mxKStep (cl : Nat)
  /-- `MX_DRAIN`: R241. -/
  | mxDrain (cl : Nat)
  /-- `MX_ZERO`: R242. -/
  | mxZero (cl : Nat)
  /-- `MXSAVE_EXECUTE`: R244. -/
  | mxsaveExecute (cl : Nat)
  /-- `MXLOAD_EXECUTE`: R244. -/
  | mxloadExecute (cl : Nat)
  /-- `TICK_NOTE`: R274. -/
  | tickNote (cl : Nat)
  /-- `TICK_ENTRY_EXECUTE`: R268. -/
  | tickEntryExecute (cl : Nat)
  /-- `ENGINE_COMPLETION_POST`: R227: the oldest finished command that waits for room posts its record. -/
  | engineCompletionPost (cid : Nat)
  /-- `MESSAGE_ACCEPT`: R143: the n-th flit under way, a message, reaches its inbound end. -/
  | messageAccept (n : Nat)
  /-- `HUNGER_FLIT_ARRIVAL`: R156. -/
  | hungerFlitArrival (n : Nat)
  /-- `PROMISE_FLIT_ARRIVAL`: R153. -/
  | promiseFlitArrival (n : Nat)
  /-- `JOIN_FLIT_ARRIVAL`: R141. -/
  | joinFlitArrival (n : Nat)
  /-- `CLOSE_FLIT_ARRIVAL`: R162. -/
  | closeFlitArrival (n : Nat)
  /-- `ALLOWANCE_RETURN`: R143. -/
  | allowanceReturn (n : Nat)
  /-- `ARRIVAL_DISPATCH`: R146. -/
  | arrivalDispatch (cid : Nat)
  /-- `DEAD_LETTER_RETURN`: R163. -/
  | deadLetterReturn (n : Nat)
  /-- `SWEEP_DELAY_EXPIRY`: R158. -/
  | sweepDelayExpiry (cid : Nat)
  /-- `FLOOR_SWEEP_START`: R158. -/
  | floorSweepStart (rid : Nat)
  /-- `FLOOR_SWEEP_COMPLETE`: R159. -/
  | floorSweepComplete (rid : Nat)
  /-- `AFADD_ACCEPT`: R320. -/
  | afaddAccept (id : Nat)
  /-- `AFADD_RESEND`: R322. -/
  | afaddResend (id : Nat)
  /-- `STEAL_ATTEMPT`: R295. -/
  | stealAttempt (cid : Nat)
  /-- `LAUNCH_REGISTER_WRITE`: R350. -/
  | launchRegisterWrite (p : Nat) (v : Word)
  /-- `LRES_READ`: R350. -/
  | lresRead (p : Nat)
  /-- `TEAM_PLACEMENT`: R282: the head team is placed on cluster cl. -/
  | teamPlacement (cl : Nat)
  /-- `TEAM_RETIRE`: R287. -/
  | teamRetire (rid : Nat) (team : Nat)
  /-- `REGION_END`: R287. -/
  | regionEnd (rid : Nat)
  /-- `REGION_ALLOWANCE_END`: R286. -/
  | regionAllowanceEnd (rid : Nat)
  /-- `ROUND_BARRIER_COMPLETE`: R305. -/
  | roundBarrierComplete (rid : Nat)
  /-- `REGION_STOP`: R331. -/
  | regionStop (rid : Nat)
  /-- `TEAM_DISPLACE`: R332, R334: the placed, unretired team of highest index is saved. -/
  | teamDisplace (rid : Nat)
  /-- `DISPLACED_REQUEST_ARRIVAL`: R335. -/
  | displacedRequestArrival (id : Nat)
  /-- `DISPLACED_REQUEST_RESEND`: R335. -/
  | displacedRequestResend (id : Nat)
  /-- `TEAM_RESTORE`: R336: the displaced team of lowest index returns. -/
  | teamRestore (rid : Nat)
  /-- `TINKER_SERVICE_DISPATCH`: R337. -/
  | tinkerServiceDispatch (cl : Nat)
  /-- `TINKER_FAULT_RESTART`: R337. -/
  | tinkerFaultRestart (cl : Nat)
  /-- `POOL_SAMPLING_INTERVAL`: R120. -/
  | poolSamplingInterval (cl : Nat)
  /-- `CACHE_BANK_WRITEBACK_END`: R120. -/
  | cacheBankWritebackEnd (bank : Nat)
  /-- `BANK_IDLE`: R118. -/
  | bankIdle (bank : Nat)
  /-- `BANK_CLEAR_END`: R118. -/
  | bankClearEnd (bank : Nat)
  /-- `UNCORRECTABLE_ERROR`: R339, R341: the word of a memory key becomes poisoned; 2^60 + cl is the core state of a
  cluster. -/
  | uncorrectableError (key : Nat)
  /-- `SCRUB_ACCESS`: R341, R363: the word of a memory key is read; with 2^61 added, it held a single-bit error. -/
  | scrubAccess (key : Nat)
  /-- `CLUSTER_RESET`: R339. -/
  | clusterReset (cl : Nat) (cause : Fin 3)
  /-- `DRAIN_TIMEOUT`: R339. -/
  | drainTimeout (cl : Nat)
  /-- `CLUSTER_CLEAR_END`: R339. -/
  | clusterClearEnd (cl : Nat)
  /-- `DIE_LINK_FAILURE`: R340. -/
  | dieLinkFailure (x : Fin 4) (y : Fin 4)
  /-- `PORROK_PORT_DOWN`: R356. -/
  | porrokPortDown (port : Fin 16)
  /-- `MIGRATION_REQUEST`: R353: mig_cmd is written. -/
  | migrationRequest (v : Word)
  /-- `MIGRATION_LINE_COPY`: R196. -/
  | migrationLineCopy
  /-- `MIGRATION_END`: R196. -/
  | migrationEnd
  /-- `RC_STOP`: R352: rc_cmd is written with operation 01. -/
  | rcStop (v : Word)
  /-- `RC_DISPLACE`: R352: rc_cmd is written with operation 10. -/
  | rcDisplace (v : Word)
  /-- `RC_RESUME`: R352: rc_cmd is written with operation 11 (or 00, refused). -/
  | rcResume (v : Word)
  /-- `RC_RES_READ`: R352. -/
  | rcResRead
  /-- `FEAT_ACCEPT_WRITE`: R348. -/
  | featAcceptWrite (v : Word)
  /-- `PKG_ID_WRITE`: R349. -/
  | pkgIdWrite (v : Word)
  /-- `NQ_HEAD_WRITE`: R351. -/
  | nqHeadWrite (v : Word)
  /-- `DROVER_CONFIG_WRITE`: R357. -/
  | droverConfigWrite (die : Fin 4) (dw : Fin 4) (v : Word)
  /-- `DROVER_ENTRY_TAKE`: R358. -/
  | droverEntryTake (die : Fin 4)
  /-- `REGISTER_WRITE`: R347: any other write of the BAR0 window. -/
  | registerWrite (off : Nat) (v : Word)
  /-- `HOST_CXL_ACCESS`: R346. -/
  | hostCxlAccess (acc : HostAccess)
  /-- `HOST_SNOOP`: R346. -/
  | hostSnoop (line : Nat)
  /-- `PLDM_POWER_CAP_SET`: R359: the power cap is set, in milliwatts. -/
  | pldmPowerCapSet (mw : Nat)
  /-- `PLDM_SENSOR_READ`: R359. -/
  | pldmSensorRead (sensor : Nat)
  /-- `MCTP_CONTROL`: R359. -/
  | mctpControl (msg : List Byte)
  /-- `TELEMETRY_SAMPLE`: R359, R363. -/
  | telemetrySample (vals : List Int)
  /-- `THERMAL_RESET`: R359. -/
  | thermalReset
  /-- `FIRMWARE_UPDATE`: R361. -/
  | firmwareUpdate (fw : FirmwareBundle)
  /-- `QUOTE_REQUEST`: R362. -/
  | quoteRequest (nonce : BitVec 256)
  /-- `EVENT_LOG_READ`: R360. -/
  | eventLogRead (n : Nat)
  /-- `LPDDR6_REFRESH`: R363. -/
  | lpddr6Refresh (ch : Nat)
  /-- `LPDDR6_RETRAIN`: R363. -/
  | lpddr6Retrain (ch : Nat)
  /-- `MODULE_RESET`: R364: the module restarts; verified says whether the active bank passed its checks. -/
  | moduleReset (verified : Bool)
  /-- `UNASSIGNED_OPCODE`: R44: a fetched word that encodes no instruction. -/
  | unassignedOpcode (word : BitVec 32)
  /-- `BUNDLE_ADDRESS`: R22: a fetch that is misaligned or outside the code range. -/
  | bundleAddress (addr : Word)
  /-- `DIE_LINK_RETRAIN`: R340. -/
  | dieLinkRetrain (x : Fin 4) (y : Fin 4)
  /-- `PORROK_PORT_RETRAIN`: R356. -/
  | porrokPortRetrain (port : Fin 16)
  /-- `MSIX_VECTOR_UNMASK`: R351. -/
  | msixVectorUnmask (v : Fin 3)
  /-- `POISONED_PACKET_RESEND`: R177. -/
  | poisonedPacketResend (id : Nat)
  deriving DecidableEq, Repr

end Sys2Proof
end

