-- ==== Sys2Proof/WellFormed.lean ====
section
/-! DEFINITION. Which terms of `Instr` stand for words of the machine. The types of the constructors' arguments
already hold most of the encoding's limits; what is left is checked here (R26 to R40). Each check has an ill-formed
term in Sys2Proof/Tests/Slice0.lean. -/

namespace Sys2Proof

/-- The rounding codes `VCVT` takes (R259): every mode where a float type is involved, 000 between integer types
and from a type to itself. -/
def vcvtRmOk (same bothInt : Bool) (r : Rm) : Bool :=
  if same || bothInt then r = .rne else true

/-- `true` for an integer element type. -/
def VT.isInt : VT → Bool
  | .fl _ => false
  | .int _ => true

/-- `true` for an integer type of `VCVT.S`. -/
def ST.isInt : ST → Bool
  | .fl _ => false
  | .int _ => true

/-- A term is well-formed when some word of the machine encodes it, or when it is a step without a word.
* `ADD p0, p0, p0` without modifier in the 64-bit form is the word of the arithmetic `NOP` (R38, R43).
* An ordered load of size `.D` has no `.SX` form (R32).
* `VCVT` and `VCVT.S` take code 000 only where no rounding happens (R259). -/
def Instr.wf : Instr → Bool
  | .add w m d a b => !(w = false && m = .wrap && d = 0 && a = 0 && b = 0)
  | .ldAcq z sx _ _ _ _ => !(z = .d && sx)
  | .ldgAcq z sx _ _ _ _ => !(z = .d && sx)
  | .vcvt dst src r _ _ => vcvtRmOk (dst = src) (dst.isInt && src.isInt) r
  | .vcvtS dst src r _ _ => vcvtRmOk (dst = src) (dst.isInt && src.isInt) r
  | _ => true

end Sys2Proof
end

