-- ==== Sys2Proof/Decode.lean ====
section
/-! DEFINITION. From the bits of a word to its instruction, or to the named reason why there is none (R26 to R44),
and the encoder, written from the same tables. A word is cut into seven fields: bit 31 `lone`, bit 30 `cls`, bits
29:24 `op`, and the four six-bit chunks `x3` [23:18], `x2` [17:12], `x1` [11:6], `x0` [5:0]. Every format of R26
and R27 is a reading of these chunks. -/

namespace Sys2Proof

/-- What decoding a word gives: the instruction, ILLEGAL_OPCODE (R44, step 3 of R46) or RESERVED_RM (R29, step 4).
-/
inductive Dec where
  | ok (i : Instr)
  | illegalOpcode
  | reservedRm
  deriving DecidableEq, Repr

/-- The chunks of a word below bit 31. -/
structure Chunks where
  cls : Bool
  op : Fin 64
  x3 : Fin 64
  x2 : Fin 64
  x1 : Fin 64
  x0 : Fin 64
  deriving DecidableEq, Repr

/-- The chunk of a word at bit `lo`. -/
def chunk (w lo : Nat) : Fin 64 := ⟨w / 2 ^ lo % 64, Nat.mod_lt _ (by decide)⟩

/-- The chunks of a word (R19). -/
def chunksOf (w : Nat) : Chunks :=
  ⟨w / 2 ^ 30 % 2 = 1, chunk w 24, chunk w 18, chunk w 12, chunk w 6, chunk w 0⟩

/-- Bit 31 of a word: `lone` (R19). -/
def loneOf (w : Nat) : Bool := w / 2 ^ 31 % 2 = 1

/-- The word made of its chunks and its `lone` bit. -/
def wordOf (lone : Bool) (c : Chunks) : Nat :=
  lone.toNat * 2 ^ 31 + c.cls.toNat * 2 ^ 30 + c.op.val * 2 ^ 24 + c.x3.val * 2 ^ 18 + c.x2.val * 2 ^ 12
    + c.x1.val * 2 ^ 6 + c.x0.val

/-! ### Fields inside the chunks -/

/-- The segment field [11:9] of formats M and M′. -/
def segOf (x1 : Fin 64) : Seg := ⟨x1.val / 8, by omega⟩

/-- Bits [8:6] of formats M and M′. -/
def midOf (x1 : Fin 64) : Fin 8 := ⟨x1.val % 8, by omega⟩

/-- The chunk made of a segment field and bits [8:6]. -/
def segMid (g : Seg) (m : Fin 8) : Fin 64 := ⟨g.val * 8 + m.val, by omega⟩

/-- Bits [5:3] and [2:0] of the last chunk. -/
def hi3 (x0 : Fin 64) : Fin 8 := ⟨x0.val / 8, by omega⟩
def lo3 (x0 : Fin 64) : Fin 8 := ⟨x0.val % 8, by omega⟩
def hilo (h l : Fin 8) : Fin 64 := ⟨h.val * 8 + l.val, by omega⟩

/-- The signed 9-bit immediate of format M. -/
def imm9Of (x1 x0 : Fin 64) : BitVec 9 := BitVec.ofNat 9 (x1.val % 8 * 64 + x0.val)
def imm9Mid (i : BitVec 9) : Fin 8 := ⟨i.toNat / 64, by have := i.isLt; omega⟩
def imm9Lo (i : BitVec 9) : Fin 64 := ⟨i.toNat % 64, by omega⟩

/-- The 12-bit offset of format B. -/
def off12Of (x1 x0 : Fin 64) : BitVec 12 := BitVec.ofNat 12 (x1.val * 64 + x0.val)
def off12Hi (i : BitVec 12) : Fin 64 := ⟨i.toNat / 64, by have := i.isLt; omega⟩
def off12Lo (i : BitVec 12) : Fin 64 := ⟨i.toNat % 64, by omega⟩

/-- The 18-bit immediate of format I. -/
def imm18Of (x2 x1 x0 : Fin 64) : BitVec 18 := BitVec.ofNat 18 (x2.val * 4096 + x1.val * 64 + x0.val)
def imm18A (i : BitVec 18) : Fin 64 := ⟨i.toNat / 4096, by have := i.isLt; omega⟩
def imm18B (i : BitVec 18) : Fin 64 := ⟨i.toNat / 64 % 64, by omega⟩
def imm18C (i : BitVec 18) : Fin 64 := ⟨i.toNat % 64, by omega⟩

/-- The 24-bit offset of format J. -/
def off24Of (x3 x2 x1 x0 : Fin 64) : BitVec 24 :=
  BitVec.ofNat 24 (x3.val * 262144 + x2.val * 4096 + x1.val * 64 + x0.val)
def off24A (i : BitVec 24) : Fin 64 := ⟨i.toNat / 262144, by have := i.isLt; omega⟩
def off24B (i : BitVec 24) : Fin 64 := ⟨i.toNat / 4096 % 64, by omega⟩
def off24C (i : BitVec 24) : Fin 64 := ⟨i.toNat / 64 % 64, by omega⟩
def off24D (i : BitVec 24) : Fin 64 := ⟨i.toNat % 64, by omega⟩

/-- The four limits of `WAIT` (R31): [15:12] mx, [11:8] cp, [7:4] st, [3:0] ld. -/
def waitMx (x2 : Fin 64) : Fin 16 := ⟨x2.val % 16, by omega⟩
def waitCp (x1 : Fin 64) : Fin 16 := ⟨x1.val / 4, by omega⟩
def waitSt (x1 x0 : Fin 64) : Fin 16 := ⟨x1.val % 4 * 4 + x0.val / 16, by omega⟩
def waitLd (x0 : Fin 64) : Fin 16 := ⟨x0.val % 16, by omega⟩
def waitX2 (mx : Fin 16) : Fin 64 := ⟨mx.val, by omega⟩
def waitX1 (cp st : Fin 16) : Fin 64 := ⟨cp.val * 4 + st.val / 4, by omega⟩
def waitX0 (st ld : Fin 16) : Fin 64 := ⟨st.val % 4 * 16 + ld.val, by omega⟩

/-- The third register field [8:3] of `VLDS`, `VGATH` and `VSCAT` (R32). -/
def thirdOf (x1 x0 : Fin 64) : Reg := ⟨x1.val % 8 * 8 + x0.val / 8, by omega⟩
def thirdMid (t : Reg) : Fin 8 := ⟨t.val / 8, by omega⟩
def thirdLo (t : Reg) (z : Fin 4) : Fin 64 := ⟨t.val % 8 * 8 + z.val * 2, by omega⟩

/-- The stream field [8:5] of `RST` (R32), which is also the operation field of an atomic. -/
def op4Of (x1 x0 : Fin 64) : Fin 16 := ⟨x1.val % 8 * 2 + x0.val / 32, by omega⟩
def op4Mid (s : Fin 16) : Fin 8 := ⟨s.val / 2, by omega⟩
def op4Lo (s : Fin 16) (rest : Fin 32) : Fin 64 := ⟨s.val % 2 * 32 + rest.val, by omega⟩

/-- A small operand in `arg` (R33). -/
def argN (n : Nat) (h : n ≤ 64) (v : Fin n) : Fin 64 := ⟨v.val, by omega⟩

/-! ### Codes -/

def Size.code : Size → Fin 4
  | .b => 0 | .h => 1 | .w => 2 | .d => 3
def Size.ofCode : Fin 4 → Size
  | 0 => .b | 1 => .h | 2 => .w | 3 => .d

def Scope.code : Scope → Fin 8
  | .thr => 0 | .core => 1 | .clu => 2 | .die => 3 | .pkg => 4 | .sys => 5
def Scope.ofCode : Fin 8 → Option Scope
  | 0 => some .thr | 1 => some .core | 2 => some .clu | 3 => some .die | 4 => some .pkg | 5 => some .sys
  | _ => none

def Rm.code : Rm → Fin 8
  | .rne => 0 | .rtz => 1 | .rdn => 2 | .rup => 3 | .rna => 4 | .sr => 5 | .rsat => 6
def Rm.ofCode : Fin 8 → Option Rm
  | 0 => some .rne | 1 => some .rtz | 2 => some .rdn | 3 => some .rup | 4 => some .rna | 5 => some .sr
  | 6 => some .rsat | _ => none

def IntMod.code : IntMod → Fin 8
  | .wrap => 0 | .usat => 1 | .sat => 6
def IntMod.ofCode : Fin 8 → Option IntMod
  | 0 => some .wrap | 1 => some .usat | 6 => some .sat | _ => none

def VT.code : VT → Fin 8
  | .fl .f32 => 0 | .fl .bf16 => 1 | .fl .f16 => 2 | .int .i8 => 3 | .int .u8 => 4 | .int .i16 => 5
  | .int .i32 => 6 | .int .i64 => 7
def VT.ofCode : Fin 8 → VT
  | 0 => .fl .f32 | 1 => .fl .bf16 | 2 => .fl .f16 | 3 => .int .i8 | 4 => .int .u8 | 5 => .int .i16
  | 6 => .int .i32 | 7 => .int .i64

def ST.code : ST → Fin 8
  | .fl .f32 => 0 | .fl .bf16 => 1 | .fl .f16 => 2 | .fl .f64 => 3 | .int .i32 => 4 | .int .i64 => 5
  | .int .u32 => 6 | .int .u64 => 7
def ST.ofCode : Fin 8 → ST
  | 0 => .fl .f32 | 1 => .fl .bf16 | 2 => .fl .f16 | 3 => .fl .f64 | 4 => .int .i32 | 5 => .int .i64
  | 6 => .int .u32 | 7 => .int .u64

def SF.code (t : SF) : Fin 8 := (ST.fl t).code

def ICond.code : ICond → Fin 8
  | .eq => 0 | .ne => 1 | .lt => 2 | .ge => 3 | .le => 4 | .gt => 5
def VCond.code : VCond → Fin 8
  | .ord c => c.code | .uno => 6
def ICond.ofCode : Fin 8 → Option ICond
  | 0 => some .eq | 1 => some .ne | 2 => some .lt | 3 => some .ge | 4 => some .le | 5 => some .gt | _ => none
def VCond.ofCode (n : Fin 8) : Option VCond :=
  if n = 6 then some .uno else (ICond.ofCode n).map .ord

def Cond.code : Cond → Fin 8
  | .eq => 0 | .ne => 1 | .lt => 2 | .ge => 3 | .ltu => 4 | .geu => 5

def AOrd.op : AOrd → Fin 64
  | .plain => 0x30 | .acq _ => 0x31 | .rel _ => 0x32
def AOrd.scopeCode : AOrd → Fin 8
  | .plain => 0 | .acq s => s.code | .rel s => s.code

def Eng.code : Eng → Nat
  | .cart => 0 | .mx => 1 | .tk => 2
def EngCond.code : EngCond → Nat
  | .busy => 0 | .done => 1 | .faulted => 2
def bengX3 (e : Eng) (c : EngCond) : Fin 64 :=
  ⟨e.code * 16 + c.code * 4, by cases e <;> cases c <;> decide⟩

/-! ### The decoder -/

/-- The instruction, if the bits that R26 requires to be zero are. -/
def needZ (zero : Bool) (i : Instr) : Dec := if zero then .ok i else .illegalOpcode

/-- The instruction of a value that a code may not name: ILLEGAL_OPCODE for a reserved code (R44). -/
def needC {α : Type} (o : Option α) (f : α → Dec) : Dec :=
  match o with
  | some x => f x
  | none => .illegalOpcode

/-- The instruction of an `rm` code: RESERVED_RM for a code it does not take (R29). -/
def needR {α : Type} (o : Option α) (f : α → Instr) : Dec :=
  match o with
  | some x => .ok (f x)
  | none => .reservedRm

/-- An instruction that takes no modifier: every nonzero `rm` is RESERVED_RM (R29). -/
def needR0 (rm : Fin 8) (i : Instr) : Dec := if rm = 0 then .ok i else .reservedRm

/-- The system group, op6 0x00 (R34). -/
def decSys (A B fn arg : Fin 64) : Dec :=
  let a0 : Bool := A = 0
  let b0 : Bool := B = 0
  let g0 : Bool := arg = 0
  let pt : Point := ⟨arg.val % 32, by omega⟩
  let ptOk : Bool := arg.val < 32
  match fn.val with
  | 0x00 => needZ (a0 && b0 && g0) .nop
  | 0x01 => needZ (a0 && b0 && g0) .yield
  | 0x02 => needZ (a0 && b0 && g0) .exit
  | 0x03 => needZ (b0 && g0) (.trap A)
  | 0x04 => needZ (b0 && g0) (.jr A)
  | 0x05 => needZ (b0 && g0) (.jlr A)
  | 0x06 => needZ b0 (.rdsr A arg)
  | 0x07 => needZ a0 (.wrsr B arg)
  | 0x08 => if a0 && b0 && arg.val < 8 then needC (Scope.ofCode (lo3 arg)) (fun s => .ok (.fence s))
            else .illegalOpcode
  | 0x09 => if a0 && b0 && arg.val < 8 then needC (Scope.ofCode (lo3 arg)) (fun s => .ok (.widen s))
            else .illegalOpcode
  | 0x0A => if a0 && b0 then (if arg = 0 then .ok .vmode else if arg = 1 then .ok .vmodeLong else .illegalOpcode)
            else .illegalOpcode
  | 0x0B => needZ g0 (.tstart A B)
  | 0x0C => needZ (b0 && g0) (.treap A)
  | 0x0D => needZ g0 (.tstat A B)
  | 0x0E => needZ (b0 && ptOk) (.rvinit A pt)
  | 0x0F => needZ (a0 && b0 && ptOk) (.rvarr pt)
  | 0x10 => needZ (a0 && b0 && ptOk) (.rvwait pt)
  | 0x11 => needZ (b0 && ptOk) (.rvbytes A pt)
  | _ => .illegalOpcode

/-- The resource group, op6 0x3A (R35). -/
def decRes (A B fn arg : Fin 64) : Dec :=
  let a0 : Bool := A = 0
  let b0 : Bool := B = 0
  let g0 : Bool := arg = 0
  let k4 : Fin 4 := ⟨arg.val % 4, by omega⟩
  let k4Ok : Bool := arg.val < 4
  let s16 : Fin 16 := ⟨arg.val % 16, by omega⟩
  let s16Ok : Bool := arg.val < 16
  let seg : Seg := lo3 arg
  let segOk : Bool := arg.val < 8
  match fn.val with
  | 0x00 => needZ segOk (.segset A B seg)
  | 0x01 => needZ (b0 && segOk) (.segget A seg)
  | 0x02 => needZ segOk (.segnarrow A B seg)
  | 0x03 => needZ g0 (.bankfmt A B)
  | 0x04 => needZ g0 (.bankalloc A B)
  | 0x05 => needZ (b0 && g0) (.bankfree A)
  | 0x06 => needZ (b0 && g0) (.poolset A)
  | 0x07 => .ok (.histrd A B arg)
  | 0x08 => needZ (b0 && g0) (.histclr A)
  | 0x09 => needZ (b0 && s16Ok) (.swait A s16)
  | 0x0A => needZ s16Ok (.sseq A B s16)
  | 0x0B => needZ g0 (.pgreg A B)
  | 0x0C => needZ g0 (.pgfill A B)
  | 0x0D => needZ (a0 && k4Ok) (.cpstream B k4)
  | 0x0E => needZ k4Ok (.accrd A B k4)
  | 0x0F => needZ (b0 && g0) (.mxsave A)
  | 0x10 => needZ (b0 && g0) (.mxload A)
  | 0x11 => needZ (b0 && g0) (.tkwin A)
  | 0x12 => needZ g0 (.tkload A B)
  | 0x13 => if b0 then (if arg = 0 then .ok (.tklaunch A) else if arg = 1 then .ok (.tklaunchAnd A)
              else .illegalOpcode) else .illegalOpcode
  | 0x14 => needZ (b0 && g0) (.tkcapt A)
  | 0x15 => needZ g0 (.tkfirst A B)
  | 0x16 => needZ (a0 && b0 && g0) .tkreset
  | 0x17 => needZ (b0 && g0) (.tkstat A)
  | _ => .illegalOpcode

/-- The event and task group, op6 0x3B (R36). -/
def decEvt (A B fn arg : Fin 64) : Dec :=
  let a0 : Bool := A = 0
  let b0 : Bool := B = 0
  let g0 : Bool := arg = 0
  let i16 : Fin 16 := ⟨arg.val % 16, by omega⟩
  let i16Ok : Bool := arg.val < 16
  let dirOk : Bool := arg.val < 32
  let dir : Bool := arg.val / 16 % 2 = 1
  match fn.val with
  | 0x00 => needZ dirOk (.chdecl A B dir i16)
  | 0x01 => needZ (a0 && b0 && dirOk) (.chclose dir i16)
  | 0x02 => needZ (b0 && i16Ok) (.hdlset A i16)
  | 0x03 => needZ (b0 && i16Ok) (.send A i16)
  | 0x04 => needZ (b0 && g0) (.recv A)
  | 0x05 => needZ (a0 && b0 && g0) .evdone
  | 0x06 => needZ (b0 && i16Ok) (.promise A i16)
  | 0x07 => needZ (b0 && g0) (.floor A)
  | 0x08 => needZ (b0 && g0) (.evstart A)
  | 0x09 => needZ (a0 && b0 && g0) .sync
  | 0x0A => needZ (a0 && b0 && g0) .taskend
  | 0x0B => needZ (b0 && arg.val < 4) (.qcfg A ⟨arg.val % 4, by omega⟩)
  | 0x0C => needZ g0 (.launch A B)
  | 0x0D => needZ (b0 && g0) (.rwait A)
  | 0x0E => needZ (b0 && g0) (.tscore A)
  | 0x0F => needZ (a0 && b0 && g0) .tround
  | 0x10 => needZ (b0 && g0) (.tgrow A)
  | 0x11 => needZ g0 (.trank A B)
  | 0x12 => needZ (arg.val < 8) (.frecrd A B (lo3 arg))
  | 0x13 => needZ (b0 && g0) (.qthaw A)
  | 0x14 => needZ (b0 && g0) (.ctxsave A)
  | 0x15 => needZ (b0 && g0) (.ctxload A)
  | 0x16 => needZ (a0 && b0 && g0) .eret
  | _ => .illegalOpcode

/-- `BENG`, op6 0x11 (R31, R107). -/
def decBeng (x3 tok x1 x0 : Fin 64) : Dec :=
  let off := off12Of x1 x0
  match x3.val with
  | 0x00 => .ok (.beng .cart .busy tok off)
  | 0x04 => .ok (.beng .cart .done tok off)
  | 0x08 => .ok (.beng .cart .faulted tok off)
  | 0x10 => .ok (.beng .mx .busy tok off)
  | 0x14 => .ok (.beng .mx .done tok off)
  | 0x18 => .ok (.beng .mx .faulted tok off)
  | 0x20 => .ok (.beng .tk .busy tok off)
  | 0x24 => .ok (.beng .tk .done tok off)
  | 0x28 => .ok (.beng .tk .faulted tok off)
  | _ => .illegalOpcode

/-- The full/empty group, op6 0x21 (R32, R131). -/
def decFe (d x x1 x0 : Fin 64) : Dec :=
  let g := segOf x1
  if x0 ≠ 0 then .illegalOpcode
  else match (midOf x1).val with
    | 0 => needZ (d = 0) (.feset x g)
    | 2 => needZ (d = 0) (.feclr x g)
    | 4 => .ok (.feq d x g)
    | _ => .illegalOpcode

/-- The cache group, op6 0x2D (R32, R203). -/
def decCache (d x x1 x0 : Fin 64) : Dec :=
  let g := segOf x1
  if x0 ≠ 0 || d ≠ 0 then .illegalOpcode
  else match (midOf x1).val with
    | 0 => .ok (.pref x g)
    | 2 => .ok (.cclean x g)
    | 4 => .ok (.cinval x g)
    | _ => .illegalOpcode

/-- Ordered loads, op6 0x2E (R32): [8:7] size, [6] `.SX`, [5:3] scope, [2] `LDG`, [1:0] zero. -/
def decLdAcq (d x x1 x0 : Fin 64) : Dec :=
  let g := segOf x1
  let z := Size.ofCode ⟨(midOf x1).val / 2, by have := (midOf x1).isLt; omega⟩
  let sx : Bool := (midOf x1).val % 2 = 1
  if z = .d && sx then .illegalOpcode
  else needC (Scope.ofCode (hi3 x0)) fun sc =>
    match (lo3 x0).val with
    | 0 => .ok (.ldAcq z sx sc d x g)
    | 4 => .ok (.ldgAcq z sx sc d x g)
    | _ => .illegalOpcode

/-- Ordered stores, op6 0x2F (R32). -/
def decStRel (d x x1 x0 : Fin 64) : Dec :=
  let g := segOf x1
  let z := Size.ofCode ⟨(midOf x1).val / 2, by have := (midOf x1).isLt; omega⟩
  if (midOf x1).val % 2 = 1 then .illegalOpcode
  else needC (Scope.ofCode (hi3 x0)) fun sc =>
    match (lo3 x0).val with
    | 0 => .ok (.stRel z sc d x g)
    | 4 => .ok (.stgRel z sc d x g)
    | _ => .illegalOpcode

/-- The atomics of one operation code (R32). -/
def decAtomicOp (op : Fin 16) (o : AOrd) (n dw : Bool) (d x : Reg) (g : Seg) : Dec :=
  match op.val with
  | 0 => .ok (.aadd o n dw d x g)
  | 1 => .ok (.aand o n dw d x g)
  | 2 => .ok (.aor o n dw d x g)
  | 3 => .ok (.axor o n dw d x g)
  | 4 => .ok (.amin o n dw d x g)
  | 5 => .ok (.amax o n dw d x g)
  | 6 => .ok (.aminu o n dw d x g)
  | 7 => .ok (.amaxu o n dw d x g)
  | 8 => .ok (.axchg o n dw d x g)
  | 9 => .ok (.acas o n dw d x g)
  | 10 => needZ (!dw) (.afadd o n d x g)
  | _ => .illegalOpcode

/-- Atomics, op6 0x30 to 0x32 (R32, R204): the scope of 0x30 is 000. -/
def decAtomic (k : Nat) (d x x1 x0 : Fin 64) : Dec :=
  let g := segOf x1
  let n : Bool := x0.val / 16 % 2 = 1
  let dw : Bool := x0.val / 8 % 2 = 1
  let op := op4Of x1 x0
  match k with
  | 0 => if lo3 x0 = 0 then decAtomicOp op .plain n dw d x g else .illegalOpcode
  | 1 => needC (Scope.ofCode (lo3 x0)) fun sc => decAtomicOp op (.acq sc) n dw d x g
  | _ => needC (Scope.ofCode (lo3 x0)) fun sc => decAtomicOp op (.rel sc) n dw d x g

/-- `RST`, op6 0x33 (R32). -/
def decRst (d x x1 x0 : Fin 64) : Dec :=
  needZ (lo3 x0 = 0) (.rst (op4Of x1 x0) (Size.ofCode ⟨x0.val / 8 % 4, by omega⟩) d x (segOf x1))

/-- `VLDS`, `VGATH` and `VSCAT`, op6 0x37 to 0x39 (R32). -/
def decVidx (k : Nat) (d x x1 x0 : Fin 64) : Dec :=
  let g := segOf x1
  let t := thirdOf x1 x0
  let z := Size.ofCode ⟨x0.val / 2 % 4, by omega⟩
  if x0.val % 2 = 1 then .illegalOpcode
  else match k with
    | 0 => .ok (.vlds t z d x g)
    | 1 => .ok (.vgath t z d x g)
    | _ => .ok (.vscat t z d x g)

/-- Class 0: control and memory words (R31). -/
def decCtl (op x3 x2 x1 x0 : Fin 64) : Dec :=
  let g := segOf x1
  let i9 := imm9Of x1 x0
  let o12 := off12Of x1 x0
  let i18 := imm18Of x2 x1 x0
  let o24 := off24Of x3 x2 x1 x0
  match op.val with
  | 0x00 => decSys x3 x2 x1 x0
  | 0x01 => .ok (.movi x3 i18)
  | 0x02 => .ok (.movhi x3 i18)
  | 0x03 => .ok (.addi x3 i18)
  | 0x04 => .ok (.addiW x3 i18)
  | 0x05 => needZ (x3 = 0 && x2.val < 16) (.wait (waitMx x2) (waitCp x1) (waitSt x1 x0) (waitLd x0))
  | 0x06 => .ok (.j o24)
  | 0x07 => .ok (.jl o24)
  | 0x08 => .ok (.spawn o24)
  | 0x09 => .ok (.beq x3 x2 o12)
  | 0x0A => .ok (.bne x3 x2 o12)
  | 0x0B => .ok (.blt x3 x2 o12)
  | 0x0C => .ok (.bge x3 x2 o12)
  | 0x0D => .ok (.bltu x3 x2 o12)
  | 0x0E => .ok (.bgeu x3 x2 o12)
  | 0x0F => needZ (x2 = 0) (.bz x3 o12)
  | 0x10 => needZ (x2 = 0) (.bnz x3 o12)
  | 0x11 => decBeng x3 x2 x1 x0
  | 0x12 => .ok (.ldB x3 x2 g i9)
  | 0x13 => .ok (.ldH x3 x2 g i9)
  | 0x14 => .ok (.ldW x3 x2 g i9)
  | 0x15 => .ok (.ldD x3 x2 g i9)
  | 0x16 => .ok (.ldBSx x3 x2 g i9)
  | 0x17 => .ok (.ldHSx x3 x2 g i9)
  | 0x18 => .ok (.ldWSx x3 x2 g i9)
  | 0x19 => .ok (.stB x3 x2 g i9)
  | 0x1A => .ok (.stH x3 x2 g i9)
  | 0x1B => .ok (.stW x3 x2 g i9)
  | 0x1C => .ok (.stD x3 x2 g i9)
  | 0x1D => .ok (.lds x3 x2 g i9)
  | 0x1E => .ok (.ldf x3 x2 g i9)
  | 0x1F => .ok (.sts x3 x2 g i9)
  | 0x20 => .ok (.stf x3 x2 g i9)
  | 0x21 => decFe x3 x2 x1 x0
  | 0x22 => .ok (.ldgB x3 x2 g i9)
  | 0x23 => .ok (.ldgH x3 x2 g i9)
  | 0x24 => .ok (.ldgW x3 x2 g i9)
  | 0x25 => .ok (.ldgD x3 x2 g i9)
  | 0x26 => .ok (.ldgBSx x3 x2 g i9)
  | 0x27 => .ok (.ldgHSx x3 x2 g i9)
  | 0x28 => .ok (.ldgWSx x3 x2 g i9)
  | 0x29 => .ok (.stgB x3 x2 g i9)
  | 0x2A => .ok (.stgH x3 x2 g i9)
  | 0x2B => .ok (.stgW x3 x2 g i9)
  | 0x2C => .ok (.stgD x3 x2 g i9)
  | 0x2D => decCache x3 x2 x1 x0
  | 0x2E => decLdAcq x3 x2 x1 x0
  | 0x2F => decStRel x3 x2 x1 x0
  | 0x30 => decAtomic 0 x3 x2 x1 x0
  | 0x31 => decAtomic 1 x3 x2 x1 x0
  | 0x32 => decAtomic 2 x3 x2 x1 x0
  | 0x33 => decRst x3 x2 x1 x0
  | 0x34 => .ok (.mst x3 x2 g i9)
  | 0x35 => .ok (.vld x3 x2 g i9)
  | 0x36 => .ok (.vst x3 x2 g i9)
  | 0x37 => decVidx 0 x3 x2 x1 x0
  | 0x38 => decVidx 1 x3 x2 x1 x0
  | 0x39 => decVidx 2 x3 x2 x1 x0
  | 0x3A => decRes x3 x2 x1 x0
  | 0x3B => decEvt x3 x2 x1 x0
  | _ => .illegalOpcode

/-- The integer groups (R38, R84). `rm` is tested after the operation is known. -/
def decInt (grp : Nat) (w : Bool) (d a b : Reg) (rm sub : Fin 8) : Dec :=
  match grp, sub.val with
  | 0, 0 => if w = false && rm = 0 && d = 0 && a = 0 && b = 0 then .ok .nopArith
            else needR (IntMod.ofCode rm) (fun m => .add w m d a b)
  | 0, 1 => needR (IntMod.ofCode rm) (fun m => .sub w m d a b)
  | 0, 2 => needR0 rm (.min w d a b)
  | 0, 3 => needR0 rm (.max w d a b)
  | 0, 4 => needR0 rm (.minu w d a b)
  | 0, 5 => needR0 rm (.maxu w d a b)
  | 0, 6 => if b = 0 then needR0 rm (.mov w d a) else .illegalOpcode
  | 0, 7 => needR0 rm (.sel w d a b)
  | 1, 0 => needR (IntMod.ofCode rm) (fun m => .mul w m d a b)
  | 1, 1 => needR0 rm (.mulh w d a b)
  | 1, 2 => needR0 rm (.mulhu w d a b)
  | 1, 3 => needR0 rm (.div w d a b)
  | 1, 4 => needR0 rm (.divu w d a b)
  | 1, 5 => needR0 rm (.rem w d a b)
  | 1, 6 => needR0 rm (.remu w d a b)
  | 2, 0 => needR0 rm (.and w d a b)
  | 2, 1 => needR0 rm (.or w d a b)
  | 2, 2 => needR0 rm (.xor w d a b)
  | 2, 3 => needR0 rm (.andn w d a b)
  | 2, 4 => needR0 rm (.orn w d a b)
  | 2, 5 => needR0 rm (.shl w d a b)
  | 2, 6 => needR0 rm (.shr w d a b)
  | 2, 7 => needR0 rm (.sra w d a b)
  | 3, 0 => needR0 rm (.rol w d a b)
  | 3, 1 => if b = 0 then needR0 rm (.clz w d a) else .illegalOpcode
  | 3, 2 => if b = 0 then needR0 rm (.ctz w d a) else .illegalOpcode
  | 3, 3 => if b = 0 then needR0 rm (.popc w d a) else .illegalOpcode
  | 3, 4 => if rm = 0 then .ok (.bfx w d a b) else if rm = 2 then .ok (.bfxSx w d a b) else .reservedRm
  | 3, 5 => needR0 rm (.bfi w d a b)
  | 4, 0 => needR0 rm (.cmp .eq w d a b)
  | 4, 1 => needR0 rm (.cmp .ne w d a b)
  | 4, 2 => needR0 rm (.cmp .lt w d a b)
  | 4, 3 => needR0 rm (.cmp .ge w d a b)
  | 4, 4 => needR0 rm (.cmp .ltu w d a b)
  | 4, 5 => needR0 rm (.cmp .geu w d a b)
  | _, _ => .illegalOpcode

/-- The `rm` field of a vector arithmetic form, by its type (R255). -/
def vArithOf (t : VT) (rm : Fin 8) : Option VArith :=
  match t with
  | .fl f => (Rm.ofCode rm).map (VArith.fl f)
  | .int i => (IntMod.ofCode rm).map (VArith.int i)

/-- The `rm` field of `VABS` and `VNEG` (R255). -/
def vAbsOf (t : VT) (rm : Fin 8) : Option VAbs :=
  match t with
  | .fl f => if rm = 0 then some (.fl f) else none
  | .int i => if rm = 0 then some (.int i false) else if rm = 6 then some (.int i true) else none

/-- The condition of `VCMP` (R255, R258). -/
def vCmpOf (t : VT) (rm : Fin 8) : Option VCmp :=
  match t with
  | .fl f => (VCond.ofCode rm).map (VCmp.fl f)
  | .int i => (ICond.ofCode rm).map (VCmp.int i)

/-- A form that takes float types only (R39). -/
def flOnly (t : VT) (f : FT → Dec) : Dec :=
  match t with
  | .fl x => f x
  | .int _ => .illegalOpcode

/-- A form that takes integer types only (R39). -/
def intOnly (t : VT) (f : IT → Dec) : Dec :=
  match t with
  | .fl _ => .illegalOpcode
  | .int x => f x

/-- The `rm` of a conversion (R259). -/
def cvtRm (same bothInt : Bool) (rm : Fin 8) (f : Rm → Instr) : Dec :=
  match Rm.ofCode rm with
  | some r => if vcvtRmOk same bothInt r then .ok (f r) else .reservedRm
  | none => .reservedRm

/-- Vector words, op6 0x10 to 0x2C (R39, R255 to R261). -/
def decVec (op : Nat) (d a b : Reg) (rm : Fin 8) (t : VT) : Dec :=
  let un (x : Dec) : Dec := if b = 0 then x else .illegalOpcode
  match op with
  | 0x10 => needR (vArithOf t rm) (fun m => .vadd m d a b)
  | 0x11 => needR (vArithOf t rm) (fun m => .vsub m d a b)
  | 0x12 => needR (vArithOf t rm) (fun m => .vmul m d a b)
  | 0x13 => needR (vArithOf t rm) (fun m => .vfma m d a b)
  | 0x14 => flOnly t fun f => needR (Rm.ofCode rm) (fun r => .vdiv f r d a b)
  | 0x15 => un (flOnly t fun f => needR (Rm.ofCode rm) (fun r => .vsqrt f r d a))
  | 0x16 => needR0 rm (.vmin t d a b)
  | 0x17 => needR0 rm (.vmax t d a b)
  | 0x18 => un (needR (vAbsOf t rm) (fun m => .vabs m d a))
  | 0x19 => un (needR (vAbsOf t rm) (fun m => .vneg m d a))
  | 0x1A => un (flOnly t fun f => needR (Rm.ofCode rm) (fun r => .vrcp f r d a))
  | 0x1B => un (flOnly t fun f => needR (Rm.ofCode rm) (fun r => .vrsq f r d a))
  | 0x1C => un (flOnly t fun f => needR (Rm.ofCode rm) (fun r => .vexp f r d a))
  | 0x1D => un (flOnly t fun f => needR (Rm.ofCode rm) (fun r => .vlog f r d a))
  | 0x1E => un (flOnly t fun f => needR (Rm.ofCode rm) (fun r => .vtanh f r d a))
  | 0x1F => needR (vCmpOf t rm) (fun m => .vcmp m d a b)
  | 0x20 => needR0 rm (.vsel t d a b)
  | 0x21 => intOnly t fun i => needR0 rm (.vand i d a b)
  | 0x22 => intOnly t fun i => needR0 rm (.vor i d a b)
  | 0x23 => intOnly t fun i => needR0 rm (.vxor i d a b)
  | 0x24 => intOnly t fun i => needR0 rm (.vshl i d a b)
  | 0x25 => intOnly t fun i => needR0 rm (.vshr i d a b)
  | 0x26 => if b.val < 8 then cvtRm (t = VT.ofCode (lo3 b)) (t.isInt && (VT.ofCode (lo3 b)).isInt) rm
              (fun r => .vcvt t (VT.ofCode (lo3 b)) r d a) else .illegalOpcode
  | 0x27 => needR (vArithOf t rm) (fun m => .vdot m d a b)
  | 0x28 => un (needR (vArithOf t rm) (fun m => .vred m d a))
  | 0x29 => needR0 rm (.vperm t d a b)
  | 0x2A => un (needR0 rm (.vbcast t d a))
  | 0x2B => needR0 rm (.vext t d a b)
  | 0x2C => needR0 rm (.vins t d a b)
  | _ => .illegalOpcode

/-- Scalar `.S` words, op6 0x30 to 0x3F (R40, R262). -/
def decScal (op : Nat) (d a b : Reg) (rm : Fin 8) (t : SF) : Dec :=
  let un (x : Dec) : Dec := if b = 0 then x else .illegalOpcode
  match op with
  | 0x30 => needR (Rm.ofCode rm) (fun r => .vaddS t r d a b)
  | 0x31 => needR (Rm.ofCode rm) (fun r => .vsubS t r d a b)
  | 0x32 => needR (Rm.ofCode rm) (fun r => .vmulS t r d a b)
  | 0x33 => needR (Rm.ofCode rm) (fun r => .vfmaS t r d a b)
  | 0x34 => needR (Rm.ofCode rm) (fun r => .vdivS t r d a b)
  | 0x35 => un (needR (Rm.ofCode rm) (fun r => .vsqrtS t r d a))
  | 0x36 => needR0 rm (.vminS t d a b)
  | 0x37 => needR0 rm (.vmaxS t d a b)
  | 0x38 => un (needR0 rm (.vabsS t d a))
  | 0x39 => un (needR0 rm (.vnegS t d a))
  | 0x3A => un (needR (Rm.ofCode rm) (fun r => .vrcpS t r d a))
  | 0x3B => un (needR (Rm.ofCode rm) (fun r => .vrsqS t r d a))
  | 0x3C => un (needR (Rm.ofCode rm) (fun r => .vexpS t r d a))
  | 0x3D => un (needR (Rm.ofCode rm) (fun r => .vlogS t r d a))
  | 0x3E => un (needR (Rm.ofCode rm) (fun r => .vtanhS t r d a))
  | 0x3F => needR (VCond.ofCode rm) (fun c => .vcmpS t c d a b)
  | _ => .illegalOpcode

/-- Class 1: arithmetic words (R37). -/
def decArith (op d a b : Fin 64) (rm sub : Fin 8) : Dec :=
  match op.val with
  | 0x00 => decInt 0 false d a b rm sub
  | 0x01 => decInt 0 true d a b rm sub
  | 0x02 => decInt 1 false d a b rm sub
  | 0x03 => decInt 1 true d a b rm sub
  | 0x04 => decInt 2 false d a b rm sub
  | 0x05 => decInt 2 true d a b rm sub
  | 0x06 => decInt 3 false d a b rm sub
  | 0x07 => decInt 3 true d a b rm sub
  | 0x08 => decInt 4 false d a b rm sub
  | 0x09 => decInt 4 true d a b rm sub
  | 0x2E => if b.val < 8 then cvtRm (ST.ofCode sub = ST.ofCode (lo3 b))
              ((ST.ofCode sub).isInt && (ST.ofCode (lo3 b)).isInt) rm
              (fun r => .vcvtS (ST.ofCode sub) (ST.ofCode (lo3 b)) r d a) else .illegalOpcode
  | n => if n < 0x30 then decVec n d a b rm (VT.ofCode sub)
         else match ST.ofCode sub with
           | .fl t => decScal n d a b rm t
           | .int _ => .illegalOpcode

/-- The instruction of a word's chunks. -/
def decodeChunks (c : Chunks) : Dec :=
  if c.cls then decArith c.op c.x3 c.x2 c.x1 (hi3 c.x0) (lo3 c.x0) else decCtl c.op c.x3 c.x2 c.x1 c.x0

/-- The instruction of a word (R26 to R44). `lone` does not bear on it. -/
def decodeWord (w : Nat) : Dec := decodeChunks (chunksOf w)

/-- What the last two chunks of a control word may be while its operation stays: its bits that have to be zero, and its codes of
scope and size, cleared (R31 to R36). -/
def ctlTails (c : Chunks) : List (Fin 64 × Fin 64) :=
  let at' (n : Nat) : Fin 64 := ⟨n % 64, Nat.mod_lt _ (by decide)⟩
  let a := c.x0.val
  match c.op.val with
  | 0x00 | 0x3A | 0x3B => [(c.x1, c.x0), (c.x1, 0)]
  | 0x21 | 0x2D => [c.x1, at' (c.x1.val / 2 * 2)].flatMap (fun x => [(x, c.x0), (x, 0)])
  | 0x2E | 0x2F => [c.x1, at' (c.x1.val / 2 * 2)].flatMap (fun x => [(x, c.x0), (x, at' (a / 8 * 8 + a / 4 % 2 * 4)), (x, at' (a / 4 % 2 * 4))])
  | 0x30 | 0x31 | 0x32 => [(c.x1, c.x0), (c.x1, at' (a / 8 * 8)), (c.x1, at' (a / 16 * 16))]
  | 0x33 => [(c.x1, c.x0), (c.x1, at' (a / 8 * 8))]
  | 0x37 | 0x38 | 0x39 => [(c.x1, c.x0), (c.x1, at' (a / 2 * 2))]
  | _ => [(c.x1, c.x0)]

/-- The words that name the same registers as a word whose opcode and sub-opcode are assigned, and differ from it in fields that
name none: bits that have to be zero, `rm`, type, scope and size codes. The word itself comes first. -/
def viewTries (c : Chunks) : List Chunks :=
  if c.cls then
    [c.x1, 0].flatMap (fun b =>
      (lo3 c.x0 :: (if 0x10 ≤ c.op.val then List.finRange 8 else [])).flatMap (fun sub =>
        (hi3 c.x0 :: List.finRange 8).map (fun rm => { c with x1 := b, x0 := hilo rm sub })))
  else
    [(c.x3, c.x2), (c.x3, 0), (0, c.x2), (0, 0)].flatMap (fun h =>
      (ctlTails c).map (fun t => { c with x3 := h.1, x2 := h.2, x1 := t.1, x0 := t.2 }))

/-- The instruction whose register fields a word names, whatever keeps it from being one (R29, R44): what step 2 of R46 looks at.
None for a word whose opcode or sub-opcode is unassigned. -/
def viewWord (w : Nat) : Option Instr :=
  (viewTries (chunksOf w)).findSome? (fun c => match decodeChunks c with
    | .ok i => some i
    | _ => none)

/-- The instruction that the decoder reads from a word numbered as the opcode table numbers it. Every instruction
is one word of 32 bits (R19). -/
def decodeTableWord (nbits w : Nat) : Option Instr :=
  if nbits ≤ 32 then
    match decodeWord (w % 2 ^ 32) with
    | .ok i => some i
    | _ => none
  else none

/-! ### The encoder -/

/-- The `arg` field of `CHDECL` and `CHCLOSE`: [4] the direction, [3:0] the index (R36). -/
def dirIdx (out : Bool) (i : Fin 16) : Fin 64 := ⟨out.toNat * 16 + i.val, by cases out <;> simp <;> omega⟩

/-- Bits [8:6] of an ordered access: the size and `.SX` (R32). -/
def sizeSx (z : Size) (sx : Bool) : Fin 8 :=
  ⟨z.code.val * 2 + sx.toNat, by have := z.code.isLt; cases sx <;> simp <;> omega⟩

/-- Bits [4:0] of an atomic: `.N`, the size and the scope (R32). -/
def atomLo (n dw : Bool) (sc : Fin 8) : Fin 32 :=
  ⟨n.toNat * 16 + dw.toNat * 8 + sc.val, by cases n <;> cases dw <;> simp <;> omega⟩

/-- Bits [4:0] of `RST`: the size (R32). -/
def rstLo (z : Size) : Fin 32 := ⟨z.code.val * 8, by have := z.code.isLt; omega⟩

/-- The opcode of an integer group: the odd value above it is the `.W` form (R83). -/
def wForm (op : Fin 64) (w : Bool) : Fin 64 := if w then op + 1 else op

def VArith.rm : VArith → Fin 8
  | .fl _ r => r.code | .int _ m => m.code
def VArith.vt : VArith → VT
  | .fl t _ => .fl t | .int t _ => .int t
def VAbs.rm : VAbs → Fin 8
  | .fl _ => 0 | .int _ s => if s then 6 else 0
def VAbs.vt : VAbs → VT
  | .fl t => .fl t | .int t _ => .int t
def VCmp.rm : VCmp → Fin 8
  | .fl _ c => c.code | .int _ c => c.code
def VCmp.vt : VCmp → VT
  | .fl t _ => .fl t | .int t _ => .int t

/-- The chunks of an instruction's word (R26 to R40); none for the steps that have no word. -/
def encodeChunks : Instr → Option Chunks
  | .nop => some ⟨false, 0x00, 0, 0, 0x00, 0⟩
  | .nopArith => some ⟨true, 0x00, 0, 0, 0, hilo 0 0⟩
  | .yield => some ⟨false, 0x00, 0, 0, 0x01, 0⟩
  | .exit => some ⟨false, 0x00, 0, 0, 0x02, 0⟩
  | .trap a => some ⟨false, 0x00, a, 0, 0x03, 0⟩
  | .jr a => some ⟨false, 0x00, a, 0, 0x04, 0⟩
  | .jlr a => some ⟨false, 0x00, a, 0, 0x05, 0⟩
  | .rdsr d sr => some ⟨false, 0x00, d, 0, 0x06, sr⟩
  | .wrsr b sr => some ⟨false, 0x00, 0, b, 0x07, sr⟩
  | .fence sc => some ⟨false, 0x00, 0, 0, 0x08, (argN 8 (by decide) sc.code)⟩
  | .widen sc => some ⟨false, 0x00, 0, 0, 0x09, (argN 8 (by decide) sc.code)⟩
  | .vmode => some ⟨false, 0x00, 0, 0, 0x0A, 0⟩
  | .vmodeLong => some ⟨false, 0x00, 0, 0, 0x0A, 1⟩
  | .tstart a b => some ⟨false, 0x00, a, b, 0x0b, 0⟩
  | .treap a => some ⟨false, 0x00, a, 0, 0x0c, 0⟩
  | .tstat d b => some ⟨false, 0x00, d, b, 0x0d, 0⟩
  | .rvinit a pt => some ⟨false, 0x00, a, 0, 0x0e, (argN 32 (by decide) pt)⟩
  | .rvarr pt => some ⟨false, 0x00, 0, 0, 0x0f, (argN 32 (by decide) pt)⟩
  | .rvwait pt => some ⟨false, 0x00, 0, 0, 0x10, (argN 32 (by decide) pt)⟩
  | .rvbytes a pt => some ⟨false, 0x00, a, 0, 0x11, (argN 32 (by decide) pt)⟩
  | .movi d imm => some ⟨false, 0x01, d, imm18A imm, imm18B imm, imm18C imm⟩
  | .movhi d imm => some ⟨false, 0x02, d, imm18A imm, imm18B imm, imm18C imm⟩
  | .addi d imm => some ⟨false, 0x03, d, imm18A imm, imm18B imm, imm18C imm⟩
  | .addiW d imm => some ⟨false, 0x04, d, imm18A imm, imm18B imm, imm18C imm⟩
  | .wait mx cp st ld => some ⟨false, 0x05, 0, waitX2 mx, waitX1 cp st, waitX0 st ld⟩
  | .j off => some ⟨false, 0x06, off24A off, off24B off, off24C off, off24D off⟩
  | .jl off => some ⟨false, 0x07, off24A off, off24B off, off24C off, off24D off⟩
  | .spawn off => some ⟨false, 0x08, off24A off, off24B off, off24C off, off24D off⟩
  | .beq a b off => some ⟨false, 0x09, a, b, off12Hi off, off12Lo off⟩
  | .bne a b off => some ⟨false, 0x0a, a, b, off12Hi off, off12Lo off⟩
  | .blt a b off => some ⟨false, 0x0b, a, b, off12Hi off, off12Lo off⟩
  | .bge a b off => some ⟨false, 0x0c, a, b, off12Hi off, off12Lo off⟩
  | .bltu a b off => some ⟨false, 0x0d, a, b, off12Hi off, off12Lo off⟩
  | .bgeu a b off => some ⟨false, 0x0e, a, b, off12Hi off, off12Lo off⟩
  | .bz a off => some ⟨false, 0x0f, a, 0, off12Hi off, off12Lo off⟩
  | .bnz a off => some ⟨false, 0x10, a, 0, off12Hi off, off12Lo off⟩
  | .beng eng cond tok off => some ⟨false, 0x11, bengX3 eng cond, tok, off12Hi off, off12Lo off⟩
  | .ldB d x g imm => some ⟨false, 0x12, d, x, segMid g (imm9Mid imm), imm9Lo imm⟩
  | .ldH d x g imm => some ⟨false, 0x13, d, x, segMid g (imm9Mid imm), imm9Lo imm⟩
  | .ldW d x g imm => some ⟨false, 0x14, d, x, segMid g (imm9Mid imm), imm9Lo imm⟩
  | .ldD d x g imm => some ⟨false, 0x15, d, x, segMid g (imm9Mid imm), imm9Lo imm⟩
  | .ldBSx d x g imm => some ⟨false, 0x16, d, x, segMid g (imm9Mid imm), imm9Lo imm⟩
  | .ldHSx d x g imm => some ⟨false, 0x17, d, x, segMid g (imm9Mid imm), imm9Lo imm⟩
  | .ldWSx d x g imm => some ⟨false, 0x18, d, x, segMid g (imm9Mid imm), imm9Lo imm⟩
  | .stB d x g imm => some ⟨false, 0x19, d, x, segMid g (imm9Mid imm), imm9Lo imm⟩
  | .stH d x g imm => some ⟨false, 0x1a, d, x, segMid g (imm9Mid imm), imm9Lo imm⟩
  | .stW d x g imm => some ⟨false, 0x1b, d, x, segMid g (imm9Mid imm), imm9Lo imm⟩
  | .stD d x g imm => some ⟨false, 0x1c, d, x, segMid g (imm9Mid imm), imm9Lo imm⟩
  | .lds d x g imm => some ⟨false, 0x1d, d, x, segMid g (imm9Mid imm), imm9Lo imm⟩
  | .ldf d x g imm => some ⟨false, 0x1e, d, x, segMid g (imm9Mid imm), imm9Lo imm⟩
  | .sts d x g imm => some ⟨false, 0x1f, d, x, segMid g (imm9Mid imm), imm9Lo imm⟩
  | .stf d x g imm => some ⟨false, 0x20, d, x, segMid g (imm9Mid imm), imm9Lo imm⟩
  | .feset x g => some ⟨false, 0x21, 0, x, segMid g 0, 0⟩
  | .feclr x g => some ⟨false, 0x21, 0, x, segMid g 2, 0⟩
  | .feq d x g => some ⟨false, 0x21, d, x, segMid g 4, 0⟩
  | .ldgB d x g imm => some ⟨false, 0x22, d, x, segMid g (imm9Mid imm), imm9Lo imm⟩
  | .ldgH d x g imm => some ⟨false, 0x23, d, x, segMid g (imm9Mid imm), imm9Lo imm⟩
  | .ldgW d x g imm => some ⟨false, 0x24, d, x, segMid g (imm9Mid imm), imm9Lo imm⟩
  | .ldgD d x g imm => some ⟨false, 0x25, d, x, segMid g (imm9Mid imm), imm9Lo imm⟩
  | .ldgBSx d x g imm => some ⟨false, 0x26, d, x, segMid g (imm9Mid imm), imm9Lo imm⟩
  | .ldgHSx d x g imm => some ⟨false, 0x27, d, x, segMid g (imm9Mid imm), imm9Lo imm⟩
  | .ldgWSx d x g imm => some ⟨false, 0x28, d, x, segMid g (imm9Mid imm), imm9Lo imm⟩
  | .stgB d x g imm => some ⟨false, 0x29, d, x, segMid g (imm9Mid imm), imm9Lo imm⟩
  | .stgH d x g imm => some ⟨false, 0x2a, d, x, segMid g (imm9Mid imm), imm9Lo imm⟩
  | .stgW d x g imm => some ⟨false, 0x2b, d, x, segMid g (imm9Mid imm), imm9Lo imm⟩
  | .stgD d x g imm => some ⟨false, 0x2c, d, x, segMid g (imm9Mid imm), imm9Lo imm⟩
  | .pref x g => some ⟨false, 0x2D, 0, x, segMid g 0, 0⟩
  | .cclean x g => some ⟨false, 0x2D, 0, x, segMid g 2, 0⟩
  | .cinval x g => some ⟨false, 0x2D, 0, x, segMid g 4, 0⟩
  | .ldAcq z sx sc d x g => some ⟨false, 0x2E, d, x, segMid g (sizeSx z sx), hilo sc.code 0⟩
  | .ldgAcq z sx sc d x g => some ⟨false, 0x2E, d, x, segMid g (sizeSx z sx), hilo sc.code 4⟩
  | .stRel z sc d x g => some ⟨false, 0x2F, d, x, segMid g (sizeSx z false), hilo sc.code 0⟩
  | .stgRel z sc d x g => some ⟨false, 0x2F, d, x, segMid g (sizeSx z false), hilo sc.code 4⟩
  | .aadd o n dw d x g => some ⟨false, o.op, d, x, segMid g (op4Mid 0), op4Lo 0 (atomLo n dw o.scopeCode)⟩
  | .aand o n dw d x g => some ⟨false, o.op, d, x, segMid g (op4Mid 1), op4Lo 1 (atomLo n dw o.scopeCode)⟩
  | .aor o n dw d x g => some ⟨false, o.op, d, x, segMid g (op4Mid 2), op4Lo 2 (atomLo n dw o.scopeCode)⟩
  | .axor o n dw d x g => some ⟨false, o.op, d, x, segMid g (op4Mid 3), op4Lo 3 (atomLo n dw o.scopeCode)⟩
  | .amin o n dw d x g => some ⟨false, o.op, d, x, segMid g (op4Mid 4), op4Lo 4 (atomLo n dw o.scopeCode)⟩
  | .amax o n dw d x g => some ⟨false, o.op, d, x, segMid g (op4Mid 5), op4Lo 5 (atomLo n dw o.scopeCode)⟩
  | .aminu o n dw d x g => some ⟨false, o.op, d, x, segMid g (op4Mid 6), op4Lo 6 (atomLo n dw o.scopeCode)⟩
  | .amaxu o n dw d x g => some ⟨false, o.op, d, x, segMid g (op4Mid 7), op4Lo 7 (atomLo n dw o.scopeCode)⟩
  | .axchg o n dw d x g => some ⟨false, o.op, d, x, segMid g (op4Mid 8), op4Lo 8 (atomLo n dw o.scopeCode)⟩
  | .acas o n dw d x g => some ⟨false, o.op, d, x, segMid g (op4Mid 9), op4Lo 9 (atomLo n dw o.scopeCode)⟩
  | .afadd o n d x g => some ⟨false, o.op, d, x, segMid g (op4Mid 10), op4Lo 10 (atomLo n false o.scopeCode)⟩
  | .rst st z d x g => some ⟨false, 0x33, d, x, segMid g (op4Mid st), op4Lo st (rstLo z)⟩
  | .mst d x g imm => some ⟨false, 0x34, d, x, segMid g (imm9Mid imm), imm9Lo imm⟩
  | .vld d x g imm => some ⟨false, 0x35, d, x, segMid g (imm9Mid imm), imm9Lo imm⟩
  | .vst d x g imm => some ⟨false, 0x36, d, x, segMid g (imm9Mid imm), imm9Lo imm⟩
  | .vlds t z d x g => some ⟨false, 0x37, d, x, segMid g (thirdMid t), thirdLo t z.code⟩
  | .vgath t z d x g => some ⟨false, 0x38, d, x, segMid g (thirdMid t), thirdLo t z.code⟩
  | .vscat t z d x g => some ⟨false, 0x39, d, x, segMid g (thirdMid t), thirdLo t z.code⟩
  | .segset a b g => some ⟨false, 0x3a, a, b, 0x00, (argN 8 (by decide) g)⟩
  | .segget d g => some ⟨false, 0x3a, d, 0, 0x01, (argN 8 (by decide) g)⟩
  | .segnarrow a b g => some ⟨false, 0x3a, a, b, 0x02, (argN 8 (by decide) g)⟩
  | .bankfmt a b => some ⟨false, 0x3a, a, b, 0x03, 0⟩
  | .bankalloc d b => some ⟨false, 0x3a, d, b, 0x04, 0⟩
  | .bankfree a => some ⟨false, 0x3a, a, 0, 0x05, 0⟩
  | .poolset a => some ⟨false, 0x3a, a, 0, 0x06, 0⟩
  | .histrd d b bin => some ⟨false, 0x3a, d, b, 0x07, bin⟩
  | .histclr a => some ⟨false, 0x3a, a, 0, 0x08, 0⟩
  | .swait d st => some ⟨false, 0x3a, d, 0, 0x09, (argN 16 (by decide) st)⟩
  | .sseq d b st => some ⟨false, 0x3a, d, b, 0x0a, (argN 16 (by decide) st)⟩
  | .pgreg a b => some ⟨false, 0x3a, a, b, 0x0b, 0⟩
  | .pgfill a b => some ⟨false, 0x3a, a, b, 0x0c, 0⟩
  | .cpstream b k => some ⟨false, 0x3a, 0, b, 0x0d, (argN 4 (by decide) k)⟩
  | .accrd d b t => some ⟨false, 0x3a, d, b, 0x0e, (argN 4 (by decide) t)⟩
  | .mxsave a => some ⟨false, 0x3a, a, 0, 0x0f, 0⟩
  | .mxload a => some ⟨false, 0x3a, a, 0, 0x10, 0⟩
  | .tkwin a => some ⟨false, 0x3a, a, 0, 0x11, 0⟩
  | .tkload a b => some ⟨false, 0x3a, a, b, 0x12, 0⟩
  | .tklaunch a => some ⟨false, 0x3a, a, 0, 0x13, 0⟩
  | .tklaunchAnd a => some ⟨false, 0x3A, a, 0, 0x13, 1⟩
  | .tkcapt a => some ⟨false, 0x3a, a, 0, 0x14, 0⟩
  | .tkfirst d b => some ⟨false, 0x3a, d, b, 0x15, 0⟩
  | .tkreset => some ⟨false, 0x3a, 0, 0, 0x16, 0⟩
  | .tkstat d => some ⟨false, 0x3a, d, 0, 0x17, 0⟩
  | .chdecl a b out i => some ⟨false, 0x3b, a, b, 0x00, (dirIdx out i)⟩
  | .chclose out i => some ⟨false, 0x3b, 0, 0, 0x01, (dirIdx out i)⟩
  | .hdlset a i => some ⟨false, 0x3b, a, 0, 0x02, (argN 16 (by decide) i)⟩
  | .send a i => some ⟨false, 0x3b, a, 0, 0x03, (argN 16 (by decide) i)⟩
  | .recv d => some ⟨false, 0x3b, d, 0, 0x04, 0⟩
  | .evdone => some ⟨false, 0x3b, 0, 0, 0x05, 0⟩
  | .promise a i => some ⟨false, 0x3b, a, 0, 0x06, (argN 16 (by decide) i)⟩
  | .floor d => some ⟨false, 0x3b, d, 0, 0x07, 0⟩
  | .evstart a => some ⟨false, 0x3b, a, 0, 0x08, 0⟩
  | .sync => some ⟨false, 0x3b, 0, 0, 0x09, 0⟩
  | .taskend => some ⟨false, 0x3b, 0, 0, 0x0a, 0⟩
  | .qcfg a k => some ⟨false, 0x3b, a, 0, 0x0b, (argN 4 (by decide) k)⟩
  | .launch a b => some ⟨false, 0x3b, a, b, 0x0c, 0⟩
  | .rwait a => some ⟨false, 0x3b, a, 0, 0x0d, 0⟩
  | .tscore a => some ⟨false, 0x3b, a, 0, 0x0e, 0⟩
  | .tround => some ⟨false, 0x3b, 0, 0, 0x0f, 0⟩
  | .tgrow d => some ⟨false, 0x3b, d, 0, 0x10, 0⟩
  | .trank d b => some ⟨false, 0x3b, d, b, 0x11, 0⟩
  | .frecrd d b w => some ⟨false, 0x3b, d, b, 0x12, (argN 8 (by decide) w)⟩
  | .qthaw a => some ⟨false, 0x3b, a, 0, 0x13, 0⟩
  | .ctxsave a => some ⟨false, 0x3b, a, 0, 0x14, 0⟩
  | .ctxload a => some ⟨false, 0x3b, a, 0, 0x15, 0⟩
  | .eret => some ⟨false, 0x3b, 0, 0, 0x16, 0⟩
  | .add w m d a b => some ⟨true, (wForm 0x00 w), d, a, b, hilo m.code 0⟩
  | .sub w m d a b => some ⟨true, (wForm 0x00 w), d, a, b, hilo m.code 1⟩
  | .min w d a b => some ⟨true, (wForm 0x00 w), d, a, b, hilo 0 2⟩
  | .max w d a b => some ⟨true, (wForm 0x00 w), d, a, b, hilo 0 3⟩
  | .minu w d a b => some ⟨true, (wForm 0x00 w), d, a, b, hilo 0 4⟩
  | .maxu w d a b => some ⟨true, (wForm 0x00 w), d, a, b, hilo 0 5⟩
  | .mov w d a => some ⟨true, (wForm 0x00 w), d, a, 0, hilo 0 6⟩
  | .sel w d a b => some ⟨true, (wForm 0x00 w), d, a, b, hilo 0 7⟩
  | .mul w m d a b => some ⟨true, (wForm 0x02 w), d, a, b, hilo m.code 0⟩
  | .mulh w d a b => some ⟨true, (wForm 0x02 w), d, a, b, hilo 0 1⟩
  | .mulhu w d a b => some ⟨true, (wForm 0x02 w), d, a, b, hilo 0 2⟩
  | .div w d a b => some ⟨true, (wForm 0x02 w), d, a, b, hilo 0 3⟩
  | .divu w d a b => some ⟨true, (wForm 0x02 w), d, a, b, hilo 0 4⟩
  | .rem w d a b => some ⟨true, (wForm 0x02 w), d, a, b, hilo 0 5⟩
  | .remu w d a b => some ⟨true, (wForm 0x02 w), d, a, b, hilo 0 6⟩
  | .and w d a b => some ⟨true, (wForm 0x04 w), d, a, b, hilo 0 0⟩
  | .or w d a b => some ⟨true, (wForm 0x04 w), d, a, b, hilo 0 1⟩
  | .xor w d a b => some ⟨true, (wForm 0x04 w), d, a, b, hilo 0 2⟩
  | .andn w d a b => some ⟨true, (wForm 0x04 w), d, a, b, hilo 0 3⟩
  | .orn w d a b => some ⟨true, (wForm 0x04 w), d, a, b, hilo 0 4⟩
  | .shl w d a b => some ⟨true, (wForm 0x04 w), d, a, b, hilo 0 5⟩
  | .shr w d a b => some ⟨true, (wForm 0x04 w), d, a, b, hilo 0 6⟩
  | .sra w d a b => some ⟨true, (wForm 0x04 w), d, a, b, hilo 0 7⟩
  | .rol w d a b => some ⟨true, (wForm 0x06 w), d, a, b, hilo 0 0⟩
  | .clz w d a => some ⟨true, (wForm 0x06 w), d, a, 0, hilo 0 1⟩
  | .ctz w d a => some ⟨true, (wForm 0x06 w), d, a, 0, hilo 0 2⟩
  | .popc w d a => some ⟨true, (wForm 0x06 w), d, a, 0, hilo 0 3⟩
  | .bfx w d a b => some ⟨true, (wForm 0x06 w), d, a, b, hilo 0 4⟩
  | .bfxSx w d a b => some ⟨true, (wForm 0x06 w), d, a, b, hilo 2 4⟩
  | .bfi w d a b => some ⟨true, (wForm 0x06 w), d, a, b, hilo 0 5⟩
  | .cmp c w d a b => some ⟨true, (wForm 0x08 w), d, a, b, hilo 0 c.code⟩
  | .vadd t d a b => some ⟨true, 0x10, d, a, b, hilo t.rm t.vt.code⟩
  | .vsub t d a b => some ⟨true, 0x11, d, a, b, hilo t.rm t.vt.code⟩
  | .vmul t d a b => some ⟨true, 0x12, d, a, b, hilo t.rm t.vt.code⟩
  | .vfma t d a b => some ⟨true, 0x13, d, a, b, hilo t.rm t.vt.code⟩
  | .vdiv t r d a b => some ⟨true, 0x14, d, a, b, hilo r.code (VT.fl t).code⟩
  | .vsqrt t r d a => some ⟨true, 0x15, d, a, 0, hilo r.code (VT.fl t).code⟩
  | .vmin t d a b => some ⟨true, 0x16, d, a, b, hilo 0 t.code⟩
  | .vmax t d a b => some ⟨true, 0x17, d, a, b, hilo 0 t.code⟩
  | .vabs t d a => some ⟨true, 0x18, d, a, 0, hilo t.rm t.vt.code⟩
  | .vneg t d a => some ⟨true, 0x19, d, a, 0, hilo t.rm t.vt.code⟩
  | .vrcp t r d a => some ⟨true, 0x1a, d, a, 0, hilo r.code (VT.fl t).code⟩
  | .vrsq t r d a => some ⟨true, 0x1b, d, a, 0, hilo r.code (VT.fl t).code⟩
  | .vexp t r d a => some ⟨true, 0x1c, d, a, 0, hilo r.code (VT.fl t).code⟩
  | .vlog t r d a => some ⟨true, 0x1d, d, a, 0, hilo r.code (VT.fl t).code⟩
  | .vtanh t r d a => some ⟨true, 0x1e, d, a, 0, hilo r.code (VT.fl t).code⟩
  | .vcmp t d a b => some ⟨true, 0x1f, d, a, b, hilo t.rm t.vt.code⟩
  | .vsel t d a b => some ⟨true, 0x20, d, a, b, hilo 0 t.code⟩
  | .vand t d a b => some ⟨true, 0x21, d, a, b, hilo 0 (VT.int t).code⟩
  | .vor t d a b => some ⟨true, 0x22, d, a, b, hilo 0 (VT.int t).code⟩
  | .vxor t d a b => some ⟨true, 0x23, d, a, b, hilo 0 (VT.int t).code⟩
  | .vshl t d a b => some ⟨true, 0x24, d, a, b, hilo 0 (VT.int t).code⟩
  | .vshr t d a b => some ⟨true, 0x25, d, a, b, hilo 0 (VT.int t).code⟩
  | .vcvt dst src r d a => some ⟨true, 0x26, d, a, (argN 8 (by decide) src.code), hilo r.code dst.code⟩
  | .vdot t d a b => some ⟨true, 0x27, d, a, b, hilo t.rm t.vt.code⟩
  | .vred t d a => some ⟨true, 0x28, d, a, 0, hilo t.rm t.vt.code⟩
  | .vperm t d a b => some ⟨true, 0x29, d, a, b, hilo 0 t.code⟩
  | .vbcast t d a => some ⟨true, 0x2a, d, a, 0, hilo 0 t.code⟩
  | .vext t d a b => some ⟨true, 0x2b, d, a, b, hilo 0 t.code⟩
  | .vins t d a b => some ⟨true, 0x2c, d, a, b, hilo 0 t.code⟩
  | .vcvtS dst src r d a => some ⟨true, 0x2E, d, a, (argN 8 (by decide) src.code), hilo r.code dst.code⟩
  | .vaddS t r d a b => some ⟨true, 0x30, d, a, b, hilo r.code t.code⟩
  | .vsubS t r d a b => some ⟨true, 0x31, d, a, b, hilo r.code t.code⟩
  | .vmulS t r d a b => some ⟨true, 0x32, d, a, b, hilo r.code t.code⟩
  | .vfmaS t r d a b => some ⟨true, 0x33, d, a, b, hilo r.code t.code⟩
  | .vdivS t r d a b => some ⟨true, 0x34, d, a, b, hilo r.code t.code⟩
  | .vsqrtS t r d a => some ⟨true, 0x35, d, a, 0, hilo r.code t.code⟩
  | .vminS t d a b => some ⟨true, 0x36, d, a, b, hilo 0 t.code⟩
  | .vmaxS t d a b => some ⟨true, 0x37, d, a, b, hilo 0 t.code⟩
  | .vabsS t d a => some ⟨true, 0x38, d, a, 0, hilo 0 t.code⟩
  | .vnegS t d a => some ⟨true, 0x39, d, a, 0, hilo 0 t.code⟩
  | .vrcpS t r d a => some ⟨true, 0x3a, d, a, 0, hilo r.code t.code⟩
  | .vrsqS t r d a => some ⟨true, 0x3b, d, a, 0, hilo r.code t.code⟩
  | .vexpS t r d a => some ⟨true, 0x3c, d, a, 0, hilo r.code t.code⟩
  | .vlogS t r d a => some ⟨true, 0x3d, d, a, 0, hilo r.code t.code⟩
  | .vtanhS t r d a => some ⟨true, 0x3e, d, a, 0, hilo r.code t.code⟩
  | .vcmpS t c d a b => some ⟨true, 0x3f, d, a, b, hilo c.code t.code⟩
  | .parkedBundleReissue _ _ => none
  | .allowanceEnd _ _ => none
  | .noticePush _ => none
  | .lateResultWriteback _ => none
  | .storeAcknowledge _ => none
  | .storeBufferSend _ => none
  | .bankRequestArrival _ _ => none
  | .feRequestResend _ => none
  | .remoteRefusalArrival _ => none
  | .sliceAccessPerform _ _ => none
  | .lineRecallComplete _ => none
  | .pinnedAccessResend _ => none
  | .pageWalkEnd _ => none
  | .heldUpcallPush _ _ => none
  | .pgfillComplete _ => none
  | .wakeMessage _ _ => none
  | .streamStoreArrival _ => none
  | .openStoreResend _ => none
  | .streamCloseFlit _ => none
  | .rvArrivalCount _ => none
  | .cpLin _ => none
  | .cp2d _ => none
  | .cpGath _ => none
  | .cpScat _ => none
  | .cpBcst _ => none
  | .copyBytesLand _ => none
  | .remoteLandingReport _ => none
  | .followOnEnter _ => none
  | .mxMma _ => none
  | .mxSpmma _ => none
  | .mxKStep _ => none
  | .mxDrain _ => none
  | .mxZero _ => none
  | .mxsaveExecute _ => none
  | .mxloadExecute _ => none
  | .tickNote _ => none
  | .tickEntryExecute _ => none
  | .engineCompletionPost _ => none
  | .messageAccept _ => none
  | .hungerFlitArrival _ => none
  | .promiseFlitArrival _ => none
  | .joinFlitArrival _ => none
  | .closeFlitArrival _ => none
  | .allowanceReturn _ => none
  | .arrivalDispatch _ => none
  | .deadLetterReturn _ => none
  | .sweepDelayExpiry _ => none
  | .floorSweepStart _ => none
  | .floorSweepComplete _ => none
  | .afaddAccept _ => none
  | .afaddResend _ => none
  | .stealAttempt _ => none
  | .launchRegisterWrite _ _ => none
  | .lresRead _ => none
  | .teamPlacement _ => none
  | .teamRetire _ _ => none
  | .regionEnd _ => none
  | .regionAllowanceEnd _ => none
  | .roundBarrierComplete _ => none
  | .regionStop _ => none
  | .teamDisplace _ => none
  | .displacedRequestArrival _ => none
  | .displacedRequestResend _ => none
  | .teamRestore _ => none
  | .tinkerServiceDispatch _ => none
  | .tinkerFaultRestart _ => none
  | .poolSamplingInterval _ => none
  | .cacheBankWritebackEnd _ => none
  | .bankIdle _ => none
  | .bankClearEnd _ => none
  | .uncorrectableError _ => none
  | .scrubAccess _ => none
  | .clusterReset _ _ => none
  | .drainTimeout _ => none
  | .clusterClearEnd _ => none
  | .dieLinkFailure _ _ => none
  | .porrokPortDown _ => none
  | .migrationRequest _ => none
  | .migrationLineCopy => none
  | .migrationEnd => none
  | .rcStop _ => none
  | .rcDisplace _ => none
  | .rcResume _ => none
  | .rcResRead => none
  | .featAcceptWrite _ => none
  | .pkgIdWrite _ => none
  | .nqHeadWrite _ => none
  | .droverConfigWrite _ _ _ => none
  | .droverEntryTake _ => none
  | .registerWrite _ _ => none
  | .hostCxlAccess _ => none
  | .hostSnoop _ => none
  | .pldmPowerCapSet _ => none
  | .pldmSensorRead _ => none
  | .mctpControl _ => none
  | .telemetrySample _ => none
  | .thermalReset => none
  | .firmwareUpdate _ => none
  | .quoteRequest _ => none
  | .eventLogRead _ => none
  | .lpddr6Refresh _ => none
  | .lpddr6Retrain _ => none
  | .moduleReset _ => none
  | .unassignedOpcode _ => none
  | .bundleAddress _ => none
  | .dieLinkRetrain _ _ => none
  | .porrokPortRetrain _ => none
  | .msixVectorUnmask _ => none
  | .poisonedPacketResend _ => none

/-- The word of an instruction, with its `lone` bit: none for the steps that have no word. -/
def encode (lone : Bool) (i : Instr) : Option Nat := (encodeChunks i).map (wordOf lone)

end Sys2Proof
end

