-- ==== Sys2Proof/Config.lean ====
section
/-! DEFINITION. What the spec fixes for the part as numbers, and the values that it leaves open: each of those is a
constant without a body, so that no proof can see what it is. -/

namespace Sys2Proof.Config

/-- Clusters of a die (R4) and of the package. -/
def clustersPerDie : Nat := 144
def clusters : Nat := 576

/-- The region allowance and the thread allowance that mean "unlimited" (R81). -/
def unlimited : Word := 0xFFFFFFFFFFFFFFFF

/-- ENDT, the timestamp that means "never" (R135). -/
def endt : Nat := 0xFFFFFFFFFFFFFFFF

/-- The sampling interval of pool roles (R120), in cycles. -/
def sampleInterval : Nat := 65536

/-- Cycles that clearing a bank takes (R118), and after which a refused request is sent again (R134). -/
def clearCycles : Nat := 1024
def resendCycles : Nat := 64

/-- Cycles after its issue before which the model's schedule brings back no result from outside the cluster: R366 fixes
no figure. DESIGN CHOICE, log entry 31. -/
def farCycles : Nat := 24

/-- Entries of one L2 slice's reorder set (R322). -/
def reorderEntries : Nat := 16384

/-- FREE VALUE. What a read of a write-only register of the BAR0 window gives (R347), by offset. -/
opaque writeOnlyRead : Nat → Word

/-- FREE VALUE. The hash that picks the bank of a line in a fused L1 (R116): the spec names no function. -/
opaque l1Hash : Nat → Nat

/-- FREE VALUE. Word 5 of a fault record whose rule states no detail (R324), by fault code. -/
opaque openWord5 : Nat → Word

/-- FREE VALUE. The signatures of a quote over its covered bytes (R362): the private keys never leave the part. -/
opaque quoteEd25519 : List Nat → BitVec 512
opaque quoteMlDsa : List Nat → List Byte

/-- FREE VALUE. The fuse state and the serial number that a quote covers (R362). -/
opaque fuseState : Nat
opaque serialNumber : Nat

/-- FREE VALUE. What an MCTP control message is answered with (R359): the spec names the message type alone. -/
opaque mctpReply : List Byte → List Byte

/-- FREE VALUE. The digests of the two firmware banks as they leave manufacture (R361). -/
opaque factoryDigest : Nat → BitVec 512

/-- FREE VALUE. The security version of the firmware at manufacture and the fused rollback counter (R361). -/
opaque factoryVersion : Nat
opaque rollbackFuse : Nat

/-- FREE VALUE. The package id that the link partner of a Porrok port presents (R349). -/
opaque partnerId : Nat → Nat

end Sys2Proof.Config
end

