-- ==== Sys2Proof/Machine/Table.lean ====
section
/-! DEFINITION. Sparse tables: lists of (key, entry) pairs, keys strictly rising. Memory, register banks, full/empty
bits and accumulators are tables in which no entry equals the default (`put`), so equal contents are equal lists;
records are kept by `set`. -/

namespace Sys2Proof.Machine

/-- The entry of a key, if the table lists it. -/
def Table.find {α : Type} : List (Nat × α) → Nat → Option α
  | [], _ => none
  | (k, v) :: t, a => if k = a then some v else Table.find t a

/-- The entry of a key, or the default where the table lists none. -/
def Table.get {α : Type} (dflt : α) (t : List (Nat × α)) (a : Nat) : α := (Table.find t a).getD dflt

/-- The table with a key set, keys kept rising. -/
def Table.set {α : Type} (t : List (Nat × α)) (a : Nat) (v : α) : List (Nat × α) :=
  match t with
  | [] => [(a, v)]
  | (k, w) :: t => if a < k then (a, v) :: (k, w) :: t
                   else if a = k then (a, v) :: t
                   else (k, w) :: Table.set t a v

/-- The table without a key. -/
def Table.erase {α : Type} (t : List (Nat × α)) (a : Nat) : List (Nat × α) :=
  match t with
  | [] => []
  | (k, w) :: t => if a < k then (k, w) :: t
                   else if a = k then t
                   else (k, w) :: Table.erase t a

/-- The canonical write: a default value removes the entry. -/
def Table.put {α : Type} [DecidableEq α] (dflt : α) (t : List (Nat × α)) (a : Nat) (v : α) : List (Nat × α) :=
  if v = dflt then Table.erase t a else Table.set t a v

/-- The keys are strictly rising. -/
def Table.sorted {α : Type} : List (Nat × α) → Bool
  | [] => true
  | [_] => true
  | (k, _) :: (l, w) :: t => decide (k < l) && Table.sorted ((l, w) :: t)

/-- The canonical form: keys strictly rising, no entry equal to the default. -/
def Table.canon {α : Type} [DecidableEq α] (dflt : α) (t : List (Nat × α)) : Bool :=
  Table.sorted t && t.all (fun e => decide (e.2 ≠ dflt))

/-- The table without the keys of [lo, lo + n). -/
def Table.clear {α : Type} (t : List (Nat × α)) (lo n : Nat) : List (Nat × α) :=
  t.filter (fun e => decide (e.1 < lo ∨ lo + n ≤ e.1))

/-- The entries of the keys of [lo, lo + n). -/
def Table.slice {α : Type} (t : List (Nat × α)) (lo n : Nat) : List (Nat × α) :=
  t.filter (fun e => decide (lo ≤ e.1 ∧ e.1 < lo + n))

/-- A set of numbers as a rising list: membership, insertion and removal. -/
def NatSet.add (l : List Nat) (a : Nat) : List Nat :=
  match l with
  | [] => [a]
  | k :: t => if a < k then a :: k :: t else if a = k then k :: t else k :: NatSet.add t a

end Sys2Proof.Machine
end

