-- ==== Sys2Proof/Machine/State.lean ====
section
/-! DEFINITION. The state of the machine: plain data that holds every piece of state the spec names. A number that
names an object is a natural number:
* a cluster `cl` is 144 × die + clu (R4), a core `cid` is 32 × cl + core, core 16 being the cluster's tinker;
* a thread is kept under 16 × cid + slot, a bank under 64 × cl + bank, a slice under 32 × die + slice;
* a key of memory is a PA (R186), or 2^56 + 2^23 × cl + sa for the scratch byte sa of cluster cl (R115). -/

namespace Sys2Proof.Machine

/-! ### Threads -/

/-- The four outstanding-operation counters (R103). -/
inductive Cls where
  | ld | st | cp | mx
  deriving DecidableEq, Repr

/-- One counted operation of a thread, in issue order (R104). -/
structure Out where
  id : Nat
  cls : Cls
  done : Bool
  deriving DecidableEq, Repr

/-- A segment register: base and limit-and-rights word (R124). -/
structure SegReg where
  base : Word
  lr : Word
  deriving DecidableEq, Repr

/-- The states of a slot (R96). -/
inductive TState where
  | empty | ready | parked | dropped | exited | stopped
  deriving DecidableEq, Repr

/-- A continuation on a deque or in a frame record (R291, R292): program counter, `p24`–`p31`, F and P. -/
structure DeqEntry where
  pc : Word
  regs : List Word
  frame : Option Nat
  parent : Option Nat
  deriving DecidableEq, Repr

/-- A thread's supplier (R298): the queue it popped last with its freeze bit set, with the value, or the core of
the deque its task came from, with the continuation's pc. -/
inductive Supplier where
  | none
  | queue (k : Nat) (v : Word)
  | deque (core : Nat) (pc : Word)
  deriving DecidableEq, Repr

/-- The control word a dropped thread issues again (R24, R79): its bundle, the address after it, the values its
bundle popped, the `icnt` it observed, and its general and vector sources as they stood before the bundle (R23). -/
structure Reissue where
  addr : Word
  npc : Word
  vals : List (Nat × Word)
  icnt : Nat
  srcs : List (Nat × Word)
  vsrcs : List (Nat × Nat)
  deriving DecidableEq, Repr

/-- A queued arrival at an inbound end (R144): a message or a start event. `released` records that a completed sweep
made it deliverable (R159). -/
structure Arrival where
  ts : Nat
  start : Bool
  seq : Nat
  payload : List Word
  sender : Nat
  senderIdx : Nat
  released : Bool
  deriving DecidableEq, Repr

/-- What the last `RST` of a thread on a stream reported (R180). -/
structure RstLast where
  id : Nat
  tag : Nat
  refused : Bool
  deriving DecidableEq, Repr

/-- A thread slot (R71, R96): the private registers `p1`–`p31` (`p0` is not stored), `v0`–`v31`, the segments, the
special registers kept per thread (R81), the hidden tags F and P (R291), and what the thread waits for. -/
structure Thread where
  state : TState
  handler : Bool
  /-- park reason of R101 -/
  reason : Nat
  /-- the classes that a parked `WAIT` waits for (R134) -/
  waitOn : List Cls
  /-- fault code of a stopped thread (R101) -/
  code : Nat
  pc : Word
  regs : List (Nat × Word)
  vregs : List (Nat × SVec)
  segs : List (Nat × SegReg)
  icnt : Nat
  allow : Word
  now : Nat
  /-- first cycle in which the rotation may pick the thread (R93, R108) -/
  notBefore : Nat
  /-- a page walk of the thread is under way (R192) -/
  walking : Bool
  /-- address of the last bundle issued, all ones before the first (R22) -/
  lastBundle : Word
  /-- per rendezvous point: phase of the last arrival and whether it has arrived (R110) -/
  rv : List (Nat × (Nat × Bool))
  /-- the point and phase an `RVWAIT` without an arrival waits for (R111) -/
  rvWait : Option (Nat × Nat)
  /-- words of partly written commands of `s28` and `s29` (R47) -/
  cart : List Word
  /-- address and observed `icnt` of the bundle that wrote the copy's last word of an unfinished pair (R60, R232) -/
  cartAt : Word × Nat
  matx : List Word
  frame : Option Nat
  parent : Option Nat
  supplier : Supplier
  outs : List Out
  lastRst : List (Nat × RstLast)
  /-- stores that its loads read from the store buffer: its releases wait for them (R217) -/
  readFrom : List Nat
  /-- stores of its siblings that its acquires have made visible to it: its engine commands wait for them (R218) -/
  acquired : List Nat
  reissue : Option Reissue
  /-- VA and needed rights of the page fault of a dropped thread (R193): bit 2 write, 1 fetch, 0 atomic -/
  dropVa : Nat
  dropBits : Nat
  /-- wake recorded while the team was displaced (R336) -/
  woken : Bool
  /-- the arrival that a parked `RECV` was given (R148), with its inbound index -/
  gift : Option (Nat × Arrival)
  /-- parked at the round barrier (R304) -/
  barrier : Bool
  /-- the commuting class of a running handler's inbound end (R147) -/
  evClass : Nat
  /-- `g7` is the entrant segment (R303) -/
  entSeg : Bool
  /-- pending bits that a context image set (R338): `p0`–`p31` below, `v0`–`v31` above -/
  pend : Nat
  /-- the cycle after the last performance of its stores, `STS`, `STF` and `.N` atomics to banks of its own cluster (R112) -/
  stored : Nat
  deriving DecidableEq, Repr

/-- An empty slot; every register zero (R80). -/
def Thread.fresh : Thread :=
  { state := .empty, handler := false, reason := 0, waitOn := [], code := 0, pc := 0, regs := [], vregs := [], segs := [],
    icnt := 0, allow := 0, now := 0, notBefore := 0, walking := false, lastBundle := 0xFFFFFFFFFFFFFFFF,
    rv := [], rvWait := none, cart := [], cartAt := (0, 0), matx := [], frame := none, parent := none, supplier := .none,
    outs := [], lastRst := [], readFrom := [], acquired := [], reissue := none, dropVa := 0, dropBits := 0, woken := false, gift := none,
    barrier := false, evClass := 0, entSeg := false, pend := 0, stored := 0 }

/-! ### Cores -/

/-- A configured queue register `s24`–`s27` (R296, R298). -/
structure QReg where
  depth : Nat
  freeze : Bool
  frozen : Bool
  elems : List Word
  deriving DecidableEq, Repr

/-- An attached stream register `s20`–`s23` (R235): its token, the arming slot, the bound copy, the landed
doublewords, and whether the copy has finished. -/
structure SReg where
  token : Nat
  slot : Nat
  bound : Option Nat
  buf : List Word
  /-- landed doublewords behind lower ones that have not landed, by address -/
  early : List (Nat × Word)
  ended : Bool
  deriving DecidableEq, Repr

/-- Status of an engine command (R107). -/
inductive EStatus where
  | busy | done | faulted
  deriving DecidableEq, Repr

/-- One command in an engine's status list of a core, with its fault record (R107, R329). -/
structure EngStat where
  id : Nat
  token : Nat
  status : EStatus
  record : List Word
  /-- place in the order in which the list's commands finished; 0 while busy -/
  fin : Nat
  deriving DecidableEq, Repr

/-- A finished command or region notice that waits for room in `s31` (R226, R328). -/
structure CompWait where
  id : Nat
  slot : Nat
  engine : Nat
  faulted : Bool
  token : Nat
  record : List Word
  deriving DecidableEq, Repr

/-- An entry of a core's stream table (R171), least recently used first. `dest` is a cluster, or 2^20 + slice;
for another package, its package id + 1 is added in units of 2^24. -/
structure StreamEntry where
  stream : Nat
  dest : Nat
  next : Nat
  outst : Nat
  openWait : Bool
  deriving DecidableEq, Repr

/-- An outbound channel end (R140 to R143). `unret` holds sequence number and timestamp of each message whose
allowance has not returned (R159). -/
structure OutEnd where
  look : Nat
  quantum : Nat
  peer : Nat
  pidx : Nat
  told : Nat
  floorK : Nat
  hunger : Bool
  joined : Bool
  closed : Bool
  allow : Nat
  seq : Nat
  unret : List (Nat × Nat)
  deriving DecidableEq, Repr

/-- What travels between tiles on a channel (R141, R143, R155, R156, R162, R163). -/
inductive FlitKind where
  | msg | promise | hunger | join | close | ret | dead
  deriving DecidableEq, Repr

/-- A flit under way: destination tile and end, source tile and end (coordinate words of R138), and for a message the
sending region, slot, bundle and `icnt`, which a dead letter's record names (R163). -/
structure Flit where
  kind : FlitKind
  rid : Nat
  slot : Nat
  bundle : Word
  icnt : Nat
  dst : Nat
  didx : Nat
  src : Nat
  sidx : Nat
  seq : Nat
  ts : Nat
  payload : List Word
  poisoned : Bool
  /-- cycle in which it left its tile (R339) -/
  sent : Nat
  deriving DecidableEq, Repr

/-- An inbound channel end (R140, R143, R151, R153, R155). -/
structure InEnd where
  peer : Nat
  pidx : Nat
  cls : Nat
  promise : Nat
  joined : Bool
  zero : Bool
  closed : Bool
  handler : Word
  queue : List Arrival
  starts : List Arrival
  expect : Nat
  early : List Flit
  asked : Bool
  /-- A hunger flit that became due before the join, held until it (R165). -/
  due : Bool
  deriving DecidableEq, Repr

/-- A line pinned in a core's L1 by a narrow release (R220): scope code 0 or 1, and each holding slot with the number
of its release; 16 is added to the slot of a thread that has ended and whose pin waits to be widened (R221). -/
structure Pin where
  line : Nat
  scope : Nat
  holders : List (Nat × Nat)
  deriving DecidableEq, Repr

/-- A core: the shared registers, its queues, stream table, channel ends and tile task. Core 16 of a cluster is its
tinker. -/
structure Core where
  /-- the region the core is placed in (R71), its team, and its index in the team -/
  region : Option Nat
  team : Nat
  pos : Nat
  /-- tournament: the owning entrant (R301), and held until `TGROW` (R307) -/
  entrant : Nat
  held : Bool
  /-- its team is being saved: nothing issues, no handler is dispatched (R334) -/
  away : Bool
  regs : List (Nat × Word)
  /-- special register `seed` (R81), set at placement -/
  seed : Word
  yregs : List (Nat × SVec)
  long : Bool
  wregs : List (Nat × LVec)
  /-- the threads parked on a `VMODE` of the core: slot and order number (R250) -/
  vmodeWait : List (Nat × Nat)
  /-- a switching `VMODE` between issue and write-back: its slot (R250) -/
  vmodeBusy : Option Nat
  queues : List (Nat × QReg)
  streams : List (Nat × SReg)
  comp : List Word
  compWait : List CompWait
  hist : List (Nat × List EngStat)
  /-- nearest entry first (R291) -/
  deque : List DeqEntry
  /-- how many of its oldest entries stand in the spill area (R292) -/
  spilled : Nat
  dequeFrozen : Bool
  /-- slots reserved by a `TSTART` (R99), and the slot a parked `TSTART` waits for -/
  reserved : List Nat
  tstartWait : Option Nat
  streamTab : List StreamEntry
  outEnds : List (Nat × OutEnd)
  inEnds : List (Nat × InEnd)
  /-- virtual time of the tile task (R136) -/
  attached : Bool
  tileNow : Nat
  foremanGone : Bool
  tileDone : Bool
  blockedSince : Option Nat
  stealAt : Nat
  pins : List Pin
  /-- the tile task has not started: the data image and the offset at which its writing goes on (R17) -/
  starting : Option (Nat × Nat)
  deriving DecidableEq, Repr

def Core.fresh : Core :=
  { region := none, team := 0, pos := 0, entrant := 0, held := false, away := false, regs := [], seed := 0, yregs := [],
    long := false, wregs := [], vmodeWait := [], vmodeBusy := none, queues := [], streams := [], comp := [],
    compWait := [], hist := [], deque := [], spilled := 0, dequeFrozen := false, reserved := [], tstartWait := none,
    streamTab := [], outEnds := [], inEnds := [], attached := false, tileNow := 0, foremanGone := false,
    tileDone := false, blockedSince := none, stealAt := 0, pins := [], starting := none }

/-! ### Banks and L1 -/

/-- The roles of a pool bank (R116, R118, R120); `home` for banks 0–31. -/
inductive Role where
  | home | free | alloc (rid : Nat) | cache | leaving (rid : Nat) (take : Option Nat) | closing (rid : Nat)
  | clearing (next : Option Nat)
  deriving DecidableEq, Repr

/-- A line in a cache-role bank (R116): exclusive when granted (R201), with the atomics performed in it. -/
structure L1Line where
  line : Nat
  excl : Option Nat
  steps : Nat
  deriving DecidableEq, Repr

/-- A scratchpad bank without its bytes (R114, R121): format register, histogram bins, apply count (R175), park
table (R133), role, L1 lines least recently used first, and the sampling state of R120. -/
structure Bank where
  role : Role
  fmt : Word
  bins : List (Nat × Nat)
  apply : Nat
  park : List Nat
  clearAt : Nat
  closeMark : Nat
  lines : List L1Line
  sampled : Nat
  hits : Nat
  shadowHits : Nat
  deriving DecidableEq, Repr

def Bank.fresh (role : Role) : Bank :=
  { role := role, fmt := 0, bins := [], apply := 0, park := [], clearAt := 0, closeMark := 0, lines := [],
    sampled := 0, hits := 0, shadowHits := 0 }

/-! ### Engines -/

/-- A command of the carter or the matrix queue (R47, R226, R232), with the issuing thread, its bundle's address and
`icnt`, the bank formats sampled at its entry, the words and identity of a follow-on matrix command, and the step of a
stopped matrix command. -/
structure Cmd where
  id : Nat
  cid : Nat
  slot : Nat
  rid : Nat
  bundle : Word
  icnt : Nat
  now : Nat
  words : List Word
  /-- cycle of its entry (R234) -/
  entered : Nat
  fmts : List (Nat × Word)
  follow : List Word
  followId : Nat
  /-- address and observed `icnt` of the bundle that wrote the pair's last word (R60, R232) -/
  followBundle : Word
  followIcnt : Nat
  stream : Option Nat
  step : Nat
  stopped : Bool
  /-- placed by a supervisor's `MXLOAD`: waits until its team resumes (R243) -/
  waits : Bool
  /-- the entry is an `MXSAVE` (false) or `MXLOAD` (true) instruction with this address (R244) -/
  area : Option (Bool × Nat)
  deriving DecidableEq, Repr

/-- A copy in execution (R226): units landed so far, units in all, the index values it places rows by (R230), and
whether it waits for a page (R228). -/
structure CopyRun where
  cmd : Cmd
  pos : Nat
  total : Nat
  idx : List Nat
  waitPage : Option Nat
  /-- order number of its begin (R222) -/
  began : Nat
  deriving DecidableEq, Repr

/-- A matrix queue entry in execution (R240): the next step or row, the cycle in which it is complete. -/
structure MxRun where
  cmd : Cmd
  step : Nat
  nextAt : Nat
  deriving DecidableEq, Repr

/-- The delivery of a command's bytes to its rendezvous point (R234): whether it is excess, its uncounted bytes, the
reports of remote landings that are still under way, and whether its last byte has landed. -/
structure Tally where
  cmd : Cmd
  team : Nat
  excess : Bool
  uncounted : Nat
  /-- bytes that landed in this cycle and are still to be counted -/
  landed : Nat
  coming : Nat
  finished : Bool
  deriving DecidableEq, Repr

/-- The entries of the tick queue (R268, R274). -/
inductive TkOp where
  | win (w : Nat) | load (src first n : Nat) | launch (src : Nat) (andMode : Bool) | capt (dst : Nat) | reset
  | note (token : Nat)
  /-- a launched race: the outputs its inputs gave (R267), which the array shows at its end -/
  | raced (outs : List (Nat × Byte)) (andMode : Bool)
  deriving DecidableEq, Repr

structure TkEntry where
  id : Nat
  /-- order number of its entry (R118) -/
  mark : Nat
  cid : Nat
  slot : Nat
  rid : Nat
  bundle : Word
  icnt : Nat
  now : Nat
  op : TkOp
  deriving DecidableEq, Repr

/-- An entry of a cluster's translation cache (R191), least recently used first. -/
structure TlbEntry where
  rid : Nat
  va : Nat
  bits : Nat
  leaf : Word
  deriving DecidableEq, Repr

/-- Pool limits of a region in a cluster (R119). -/
structure PoolLim where
  rid : Nat
  cacheMin : Nat
  cacheMax : Nat
  scratchMax : Nat
  deriving DecidableEq, Repr

/-- A cluster: engines, arrays, translation cache, pool limits and tinker (R226, R236, R265, R191, R337). -/
structure Cluster where
  copyQ : List Cmd
  /-- copy commands and tick entries of restored teams that wait for a place in their queue (R226, R336) -/
  copyBack : List Cmd
  tkBack : List TkEntry
  copies : List CopyRun
  /-- the begin of the copy that the carter served first in the last cycle (R226) -/
  copyRr : Nat
  /-- follow-on commands whose copy has landed, in order (R232) -/
  ready : List Cmd
  mxHolder : Option Nat
  acc : List (Nat × BitVec 32)
  sf : List Word
  mxQ : List Cmd
  mxRun : Option MxRun
  mxprog : Word
  tkHolder : Option Nat
  cells : List (Nat × Byte)
  win : Nat
  outs : List (Nat × Byte)
  andMode : Bool
  tkQ : List TkEntry
  tkRun : Option (TkEntry × Nat)
  tlb : List TlbEntry
  limits : List PoolLim
  fused : Bool
  /-- shadow directory (R120): region and line of the tags, least recently used first -/
  shadow : List (Nat × Nat)
  /-- long unit: the core granted last and the cycle of that grant (R251) -/
  lastGrant : Nat
  grantCyc : Option Nat
  /-- service requests of the tinker in order (R337), and whether a routine runs -/
  services : List Nat
  serving : Bool
  /-- a containment reset under way: its deadline (R339) -/
  resetAt : Option Nat
  /-- the cycle since which a save or stop of a region keeps the cluster draining (R339) -/
  draining : Option Nat
  deriving DecidableEq, Repr

/-- The values at allotment (R236, R266) with nothing queued. The long unit starts from core 15 (log entry 147). -/
def Cluster.fresh : Cluster :=
  { copyQ := [], copyBack := [], tkBack := [], copies := [], copyRr := 0, ready := [], mxHolder := none, acc := [],
    sf := [0, 0, 0, 0, 0, 0, 0, 0], mxQ := [], mxRun := none, mxprog := 0, tkHolder := none, cells := [], win := 255,
    outs := [], andMode := false, tkQ := [], tkRun := none, tlb := [], limits := [], fused := false, shadow := [],
    lastGrant := 15, grantCyc := none, services := [], serving := false, resetAt := none,
    draining := none }

/-! ### Slices -/

/-- A held `AFADD` of a deterministic region (R319, R320). -/
structure AfEntry where
  /-- the page is not to be cached in any L1 (R190) -/
  nc : Bool
  rid : Nat
  t : Nat
  w : Nat
  n : Nat
  key : Nat
  b : BitVec 32
  bundle : Word
  cid : Nat
  slot : Nat
  icnt : Nat
  now : Nat
  deriving DecidableEq, Repr

/-- An L2 slice: apply count (R175), table of recent atomic lines (line, core, run; R201), reorder set (R322). -/
structure Slice where
  apply : Nat
  recent : List (Nat × Nat × Nat)
  held : List AfEntry
  deriving DecidableEq, Repr

def Slice.fresh : Slice := { apply := 0, recent := [], held := [] }

/-- An entry of a destination's commit table (R173): pair, next expected number, held stores (number, request). -/
structure Commit where
  dest : Nat
  src : Nat
  stream : Nat
  expect : Nat
  held : List (Nat × Nat)
  deriving DecidableEq, Repr

/-! ### Requests of the memory port -/

/-- What a request does where it is performed. -/
inductive MemOp where
  | load (sx : Bool)
  | vload
  | lds | ldf
  | store
  | vstore
  | sts | stf
  | feset | feclr | feq
  | rst (stream : Nat)
  | mst
  /-- operation code of R32, returning or not, 64-bit or not, compare value -/
  | atomic (op : Nat) (ret dw : Bool) (cmp : Word)
  | pref | cclean | cinval
  | fetch
  | launch (teams : Nat)
  | pgfill (src : Nat)
  | swait (stream : Nat)
  | sseq (stream : Nat)
  | frecrd (sel : Word) (w : Nat)
  | accrd (tile row col : Nat)
  | tkfirst (k : Nat)
  | bankalloc (banks : Nat)
  | ctxsave (core : Nat)
  /-- an engine word or a `SEND` that waits behind an acquire of its thread (R217) -/
  | engWord (q : Nat) (v : Word)
  | sendMsg (i : Nat) (ts : Nat) (payload : List Word)
  /-- a tick command, an `MXSAVE` or an `MXLOAD` that waits so (R275) -/
  | tickCmd (op : TkOp) (id : Nat)
  | areaCmd (load : Bool) (va id : Nat)
  deriving DecidableEq, Repr

/-- The spaces an address lies in once checked (R125); a remote segment that names the own cluster is scratch. -/
inductive Space where
  | global | scratch | remote | stack | none
  deriving DecidableEq, Repr

/-- Where a request stands. -/
inductive Stage where
  /-- waits for the end of its page walk (R192) -/
  | walking
  /-- waits in the store buffer to be sent (R209) -/
  | unsent
  /-- on its way to, or waiting before, its ordering point -/
  | sent
  /-- holds an entry of a bank's park table (R133) -/
  | parked
  /-- refused; sent again from cycle `at` on (R134, R173, R220, R322, R335) -/
  | refused (cycle : Nat)
  /-- held by its pair's commit-table entry (R173) -/
  | held
  /-- waits for the recall of a granted line (R201) -/
  | recall
  /-- refused for good with this fault code, detail and address: the refusal is on its way back (R126) -/
  | bounced (code detail : Nat)
  /-- performed: the result or the acknowledgement is on its way back -/
  | served
  /-- the result is written in the write-back cycle that a `WbAct.load` or `vload` holds -/
  | writing
  deriving DecidableEq, Repr

/-- One access of a request: address as issued (ea), key of memory once known, bytes, data, lane. -/
structure Piece where
  addr : Nat
  key : Nat
  size : Nat
  data : Nat
  lane : Nat
  done : Bool
  deriving DecidableEq, Repr

/-- A memory operation of a thread from its issue until its result is written or acknowledged. -/
structure Req where
  id : Nat
  cid : Nat
  slot : Nat
  rid : Nat
  bundle : Word
  icnt : Nat
  now : Nat
  op : MemOp
  ord : AOrd
  space : Space
  /-- cluster of a scratch or remote address -/
  cl : Nat
  seg : Nat
  pieces : List Piece
  /-- element format: lane size of a vector destination -/
  lane : Nat
  dst : Option Nat
  vdst : Option Nat
  long : Bool
  cls : Option Cls
  buffered : Bool
  stage : Stage
  refusals : Nat
  /-- stream number of a numbered store (R170) and its destination -/
  seqn : Option Nat
  dest : Nat
  /-- apply tag or other result, once served -/
  result : Nat
  nulled : Bool
  /-- requests whose performance a release waits for (R217): stores read from the buffer; engine commands that an
  `ACCRD` or `TKFIRST` waits for, which leave as they are performed (R245, R272) -/
  deps : List Nat
  /-- the page is not to be cached in any L1 (R190) -/
  nc : Bool
  /-- tag of an `AFADD` of a deterministic region (R319): w and n -/
  afTag : Option (Nat × Nat)
  dropped : Bool
  /-- cycle of its issue -/
  born : Nat
  /-- place in the core's order: its number, or a new one once an acquire that it waited behind is written (R210, R217) -/
  age : Nat
  /-- the line, and the order number, at which an access reached its home slice and waits for a recall (R201, R222) -/
  reach : Option (Nat × Nat)
  deriving DecidableEq, Repr

/-! ### Write-backs -/

/-- What takes effect in a bundle's write-back cycle (R73). -/
inductive WbAct where
  /-- a general register -/
  | gpr (r : Nat) (v : Word)
  /-- a load result, at issue + 6 or late: its destination, value and operation -/
  | load (r : Nat) (v : Word) (id : Nat)
  | vload (r : Nat) (v : LVec) (long : Bool) (id : Nat)
  | vreg (r : Nat) (v : SVec)
  | wreg (r : Nat) (v : LVec)
  /-- pushes (R78): queue register k, engine queue 28 to 30 -/
  | qpush (k : Nat) (v : Word)
  | epush (q : Nat) (v : Word)
  | wrsr (sr : Nat) (v : Word)
  | tstart (slot : Nat) (pc : Word)
  | treap (slot : Nat)
  | exit
  | trap (v : Word)
  | vmode (long : Bool)
  | segset (g : Nat) (base lr : Word)
  | bankfmt (bank : Nat) (v : Word)
  | bankfree (bank : Nat)
  | poolset (v : Word)
  | histsample (bank bin : Nat) (r : Nat)
  | histclr (bank : Nat)
  | cpstream (k : Nat) (token : Nat)
  | qcfg (k : Nat) (v : Word)
  | rvbytes (pt n : Nat)
  | hdlset (i : Nat) (a : Word)
  | chclose (out : Bool) (i : Nat)
  | recv (i : Nat) (a : Arrival)
  | evdone
  | spawn (pc : Word) (frame : Nat) (parent : Option Nat)
  | sync (pc : Word)
  | tscore (v : Word)
  | tround
  | tgrow (r : Nat)
  | trank (r : Nat) (e : Nat)
  | qthaw (core : Nat) (deque : Bool) (k : Nat)
  | tick (op : TkOp) (id : Nat)
  | mxarea (load : Bool) (va : Nat) (id : Nat)
  deriving DecidableEq, Repr

/-- A pending write-back: its cycle, thread, issue number (later bundles have larger ones), act, the bundle's address
and the `icnt` it observed. -/
structure Wb where
  due : Nat
  cid : Nat
  slot : Nat
  seq : Nat
  bundle : Word
  icnt : Nat
  act : WbAct
  deriving DecidableEq, Repr

/-! ### Regions -/

/-- The kinds of region (R277). -/
inductive Kind where
  | grid | event | forkjoin | tournament
  deriving DecidableEq, Repr

/-- A rendezvous point (R110). -/
structure PointSt where
  expect : Option Nat
  arrivals : Nat
  phase : Nat
  bytes : Nat
  /-- 1 + the cycle in which a phase last completed -/
  phaseAt : Nat
  deriving DecidableEq, Repr

/-- An entry of a team's spill log (R335). -/
inductive LogEntry where
  | msg (f : Flit)
  /-- a message that was queued at a tile's inbound end as its save began (R334) -/
  | queued (cid i : Nat) (a : Arrival)
  /-- `raw`: a tick capture, which no histogram counts (R70, R270) -/
  | write (cl : Nat) (sa size data : Nat) (fe : Nat) (src : Nat) (raw : Bool)
  | withdrawn (r : Req)
  deriving DecidableEq, Repr

/-- The states of a team (R282, R287, R332, R334): `saving` while its save is under way. -/
inductive TeamSt where
  | waiting | placed | saving | displaced | retired
  deriving DecidableEq, Repr

/-- A core of a displaced team as it was saved: core, threads by slot, the two home banks' format, bins and counts. -/
structure SavedCore where
  cid : Nat
  core : Core
  threads : List (Nat × Thread)
  banks : List (Nat × Bank)
  /-- withdrawn requests that its slots hold (R336, R338), and those that its team's log holds (R335) -/
  reqs : List Req
  logged : List Req
  deriving DecidableEq, Repr

/-- What the last team of a region to leave a cluster saves of the arrays (R334). -/
structure SavedArrays where
  mx : Bool
  tk : Bool
  mxQ : List Cmd
  mxprog : Word
  stopped : Option Cmd
  tkQ : List TkEntry
  copyQ : List Cmd
  ready : List Cmd
  deriving DecidableEq, Repr

/-- A team (R109, R282, R334, R335): its cluster and cores once placed, its points, saved cores and spill log. -/
structure Team where
  st : TeamSt
  cl : Nat
  cores : List Nat
  points : List (Nat × PointSt)
  saved : List SavedCore
  arrays : Option SavedArrays
  log : List LogEntry
  /-- the order number of its wait for `w` registers, when nothing else keeps it from returning (R250, R336) -/
  longWait : Option Nat
  deriving DecidableEq, Repr

/-- A registered pager (R194). -/
structure Pager where
  cid : Nat
  slot : Nat
  base : Nat
  pages : Nat
  w : Bool
  x : Bool
  q : Nat
  deriving DecidableEq, Repr

/-- An upcall of a pager (R194): its page, rights bits, and whether it has been pushed. -/
structure Upcall where
  page : Nat
  bits : Nat
  pushed : Bool
  deriving DecidableEq, Repr

/-- A frame record (R291). -/
structure Frame where
  /-- its record in the spill area (R277) -/
  place : Nat
  pending : Nat
  core : Nat
  saved : Option DeqEntry
  deriving DecidableEq, Repr

/-- An entrant of a tournament (R306, R308, R313, R314). -/
structure Entrant where
  live : Bool
  score : Word
  scored : Bool
  rank : Nat
  ranked : Nat
  growths : Nat
  source : Nat
  roundOver : Bool
  deriving DecidableEq, Repr

/-- A record of a stopped thread that waits, as a release, for the writes the thread issued before number `upTo` (R325). -/
structure LateRec where
  cid : Nat
  slot : Nat
  upTo : Nat
  kind : Nat
  words : List Word
  deriving DecidableEq, Repr

/-- A region from its acceptance on (R277 to R290): its effective block fields by given bit, the region's place in
the tree, its teams, mailbox occupancy (R327), and the state of its pagers, frames, sweeps and rounds. -/
structure Region where
  id : Nat
  kind : Kind
  /-- address through which it was launched (R283), PA of the block when launched by the host -/
  block : Nat
  blockPa : Nat
  root : Bool
  parent : Nat
  parentRid : Nat
  fields : List (Nat × Word)
  order : Nat
  prio : Nat
  /-- state of R278 -/
  state : Nat
  retired : Nat
  overflow : Nat
  mail : List Nat
  /-- core and slot that launched it (R328), notices that wait -/
  launcher : Option Nat
  notices : List Word
  /-- records that wait for their threads' writes (R325) -/
  late : List LateRec
  teams : List (Nat × Team)
  records : List (Nat × List Word)
  total : Nat
  totalHit : Option (Nat × Nat)
  pagers : List Pager
  upcalls : List Upcall
  poolNext : Nat
  tableNext : Nat
  frames : List (Nat × Frame)
  /-- deques of released cores that still hold entries: the core's number, and its record of team and deque (R287) -/
  left : List (Nat × Core)
  /-- floor sweeps (R158, R159) -/
  floor : Nat
  sweeping : Bool
  sweepDue : Bool
  finalSweep : Bool
  entrants : List (Nat × Entrant)
  round : Nat
  roundOn : Bool
  /-- a round barrier has completed, and its survivors' threads have still to resume (R305) -/
  wakeDue : Bool
  winner : Nat
  afCount : List (Nat × Nat)
  hold : Option Nat
  /-- other packages in which teams of the region are placed (R356): placement here uses the own package alone -/
  farPkgs : List Nat
  /-- a stop is due (R331), with the kind-4 record's code when it writes one -/
  stopDue : Bool
  deriving DecidableEq, Repr

/-! ### The I/O die and Alavis -/

/-- A migration in progress (R196, R353): region, VA, size, old and new PA, lines copied, leaf rewritten. -/
structure Migration where
  rid : Nat
  va : Nat
  size : Nat
  old : Nat
  new : Nat
  copied : Nat
  deriving DecidableEq, Repr

/-- The registers of the I/O die (R347 to R353) and the message state of MSI-X (R351). -/
structure HostRegs where
  /-- HDM decoders by number (R346): host physical base, size and local LPDDR6 offset -/
  hdm : List (Nat × (Nat × Nat × Nat))
  featAccept : Word
  featWritten : Bool
  pkgId : Nat
  locked : Bool
  lres : List (Nat × Word)
  rcArg : Word
  rcRes : Word
  migBlock : Word
  migVa : Word
  migPa : Word
  migRes : Word
  mig : Option Migration
  nqBase : Word
  nqTail : Nat
  nqHead : Word
  nqLost : Nat
  /-- registers of the drovers under 4 × die + doubleword (R357), routes by package (R355) -/
  drover : List (Nat × Word)
  route : List (Nat × Word)
  /-- vectors masked, pending, sent so far, and whether a vector-0 message is outstanding -/
  masked : List Nat
  pending : List Nat
  sent : List (Nat × Nat)
  vec0Out : Bool
  /-- values returned to the host by reads, newest first: what the read events answer -/
  answers : List Word
  deriving DecidableEq, Repr

/-- An entry of the event log (R360). -/
structure LogRec where
  seq : Nat
  source : Nat
  code : Nat
  micros : Nat
  d2 : Word
  d3 : Word
  deriving DecidableEq, Repr

/-- One of the two firmware banks (R361). -/
structure FwBank where
  version : Nat
  digest : BitVec 512
  deriving DecidableEq, Repr

/-- The Alavis controller (R359 to R362): event log, sensors, power cap in milliwatts, clock in MHz, firmware banks,
failed boots, and the replies it has given. -/
structure Alavis where
  log : List LogRec
  logSeq : Nat
  micros : Nat
  sensors : List Int
  capMw : Nat
  clockMhz : Nat
  banks : List FwBank
  active : Nat
  nextActive : Nat
  failedBoots : Nat
  rollback : Nat
  corrected : Nat
  uncorrected : Nat
  replies : List (List Nat)
  deriving DecidableEq, Repr

/-- A drover (R357, R358): rows of a batch whose count is not yet written, by destination. -/
structure Drover where
  pending : List (Nat × Nat)
  /-- entries taken since the head was written -/
  taken : Nat
  logged : Bool
  deriving DecidableEq, Repr

/-! ### The bundle in progress -/

/-- A fault of the bundle in progress (R324): code, words 2, 4 and 5 of its record. -/
structure Flt where
  code : Nat
  w2 : Word
  w4 : Word
  w5 : Word
  deriving DecidableEq, Repr

/-- What a parking bundle leaves behind: the point and phase an `RVWAIT` waits for (R111), the slot a `TSTART` waits for
(R99), its place among the `VMODE`s of the long unit (R250), the classes that a `WAIT` waits for (R134). -/
inductive ParkNote where
  | none | rv (point phase : Nat) | tstart (slot : Nat) | vmode | wait (cs : List Cls)
  deriving DecidableEq, Repr

/-- How the bundle in progress has ended so far: it goes on, faulted, or parked with a reason of R101. -/
inductive BunOut where
  | ok | fault (f : Flt) | park (reason : Nat) (note : ParkNote)
  /-- a page fault at this VA with these needed rights (R192) -/
  | drop (va bits : Nat)
  deriving DecidableEq, Repr

/-- The bundle that is being issued (R20, R23): the thread, its address, the address after it (or the target of a
taken transfer), the words it counts, its control word, the values popped for it, and whether it is a reissue after a page
fault, with the sources kept for that, and the lines that its control word has read for itself. While `active` is false no bundle is in progress and a meaning issues its instruction as a lone bundle. -/
structure Bun where
  active : Bool
  cid : Nat
  slot : Nat
  addr : Word
  npc : Word
  words : Nat
  word : Nat
  ctl : Option Instr
  vals : List (Nat × Word)
  again : Bool
  srcs : List (Nat × Word)
  vsrcs : List (Nat × Nat)
  out : BunOut
  seen : List Nat
  deriving DecidableEq, Repr

def Bun.none : Bun :=
  { active := false, cid := 0, slot := 0, addr := 0, npc := 0, words := 0, word := 0, ctl := Option.none, vals := [], again := false,
    srcs := [], vsrcs := [], out := .ok, seen := [] }

/-- What the environment has in store for the next steps, in order: an event, the issue of a thread out of turn, or
an instruction of a tinker's firmware. -/
inductive Turn where
  | ev (i : Instr)
  | issue (cid slot : Nat)
  | fw (cl : Nat) (i : Instr)
  deriving DecidableEq, Repr

/-- An arrival of `RVARR` that is not yet counted (R112), with the last earlier store it waits for. -/
structure RvWait where
  cid : Nat
  slot : Nat
  rid : Nat
  team : Nat
  point : Nat
  upTo : Nat
  /-- first cycle in which it may count -/
  earliest : Nat
  deriving DecidableEq, Repr

/-- A write by the part itself that waits for its line (R220, R222): of `size` bytes at a PA, the bits of `keep` stay and those of
`value` are set. -/
structure HomeWrite where
  pa : Nat
  size : Nat
  keep : Nat
  value : Nat
  deriving DecidableEq, Repr

/-- A report of remote landings (R234): the command and its bytes. -/
structure Report where
  cmd : Nat
  bytes : Nat
  deriving DecidableEq, Repr

/-- The machine. -/
structure State where
  /-- cycles since module reset, and each die's offset from it (R81, R92) -/
  cyc : Nat
  skew : List (Nat × Nat)
  /-- next core key to be given its turn of this cycle -/
  turn : Nat
  agenda : List Turn
  bun : Bun
  nextId : Nat
  threads : List (Nat × Thread)
  cores : List (Nat × Core)
  clusters : List (Nat × Cluster)
  banks : List (Nat × Bank)
  slices : List (Nat × Slice)
  regions : List (Nat × Region)
  commits : List Commit
  reqs : List Req
  wbs : List Wb
  flits : List Flit
  arrivals : List RvWait
  reports : List Report
  tallies : List Tally
  /-- close flits of pairs under way (R171): source core, stream, destination -/
  closeFlits : List (Nat × Nat × Nat)
  /-- writes of the part itself that wait for pinned or owned lines, oldest first (R220, R222) -/
  homeQ : List HomeWrite
  /-- bytes of memory, full words and poisoned words by their keys -/
  mem : List Host.Cell
  full : List Nat
  poison : List Nat
  frameTag : Nat
  acceptNo : Nat
  host : HostRegs
  alavis : Alavis
  drovers : List (Nat × Drover)
  linksDown : List Nat
  portsDown : List Nat
  /-- the module has booted (R364); false after a thermal reset until MODULE_RESET -/
  up : Bool
  deriving DecidableEq, Repr

/-- Why a step stops. None of the part's own faults is here: a thread's fault is a next state (R324). -/
inductive Fault where
  /-- Raised by HOST_CXL_ACCESS at a PA that backs nothing (R186). Safe: the spec says no memory is there, and gives
  the access no effect. -/
  | absentMemory
  deriving DecidableEq, Repr

/-- Why an instruction has no meaning here. -/
inductive Refusal where
  /-- Raised by an arm of `exec` whose instruction is not modelled. Safe: nothing can be proved about its effect. -/
  | notModelled (mnemonic : String)
  deriving DecidableEq, Repr

/-- The I/O-die registers after reset (R347): every register 0, nothing accepted; the MSI-X vectors masked. -/
def HostRegs.reset : HostRegs :=
  { hdm := [], featAccept := 0, featWritten := false, pkgId := 0, locked := false, lres := [], rcArg := 0, rcRes := 0,
    migBlock := 0, migVa := 0, migPa := 0, migRes := 0, mig := none, nqBase := 0, nqTail := 0,
    nqHead := 0, nqLost := 0, drover := [], route := [], masked := [0, 1, 2], pending := [], sent := [],
    vec0Out := false, answers := [] }

/-- Alavis after reset (R359, R361): the default power cap and full clock, an empty log, both firmware banks as
manufactured, bank A active. -/
def Alavis.reset : Alavis :=
  { log := [], logSeq := 0, micros := 0, sensors := [], capMw := 2800000, clockMhz := 1500,
    banks := [⟨Config.factoryVersion, Config.factoryDigest 0⟩, ⟨Config.factoryVersion, Config.factoryDigest 1⟩],
    active := 0, nextActive := 0, failedBoots := 0, rollback := Config.rollbackFuse, corrected := 0,
    uncorrected := 0, replies := [] }

/-- The machine right after module reset (R364): no region, every slot empty, all SRAM clear, memory with nothing
listed, no feature accepted. -/
def State.reset : State :=
  { cyc := 0, skew := [], turn := 0, agenda := [], bun := Bun.none, nextId := 1, threads := [], cores := [],
    clusters := [], banks := [], slices := [], regions := [], commits := [], reqs := [], wbs := [], flits := [],
    arrivals := [], reports := [], tallies := [], closeFlits := [], homeQ := [], mem := [], full := [], poison := [], frameTag := 1,
    acceptNo := 0, host := HostRegs.reset, alavis := Alavis.reset, drovers := [], linksDown := [], portsDown := [],
    up := true }

end Sys2Proof.Machine
end

