-- ==== Sys2Proof/Machine/Num.lean ====
section
/-! DEFINITION. Number formats, rounding, NaNs and exact sums (spec/03_numbers.md, R49 to R70). A floating-point
value is decoded to an exact number, the operation is exact, and one rounding ends it. -/

namespace Sys2Proof.Machine

/-! ### Formats and values -/

/-- A binary format: exponent bits and fraction bits (R49). -/
structure Fmt where
  eb : Nat
  fb : Nat
  deriving DecidableEq, Repr

def Fmt.fp32 : Fmt := ⟨8, 23⟩
def Fmt.bf16 : Fmt := ⟨8, 7⟩
def Fmt.fp16 : Fmt := ⟨5, 10⟩
def Fmt.fp64 : Fmt := ⟨11, 52⟩

def Fmt.bias (f : Fmt) : Nat := 2 ^ (f.eb - 1) - 1

/-- The width of a format. -/
def Fmt.bits (f : Fmt) : Nat := f.eb + f.fb + 1

/-- The exponent of the smallest subnormal. -/
def Fmt.qmin (f : Fmt) : Int := 1 - (f.bias : Int) - (f.fb : Int)

/-- The bits of +∞ and of the largest finite number. -/
def Fmt.infBits (f : Fmt) : Nat := (2 ^ f.eb - 1) * 2 ^ f.fb
def Fmt.maxBits (f : Fmt) : Nat := f.infBits - 1

/-- The sign bit of a format as a weight. -/
def Fmt.signBit (f : Fmt) : Nat := 2 ^ (f.eb + f.fb)

/-- A decoded value: a NaN with sign, fraction and fraction width; an infinity; or (−1)^neg × m × 2^e, where m = 0 is
the signed zero. -/
inductive FV where
  | nan (neg : Bool) (frac fb : Nat)
  | inf (neg : Bool)
  | num (neg : Bool) (m : Nat) (e : Int)
  deriving DecidableEq, Repr

/-- The value of a format's bits (R49). -/
def Fmt.decode (f : Fmt) (bits : Nat) : FV :=
  let neg : Bool := bits / f.signBit % 2 = 1
  let e := bits / 2 ^ f.fb % 2 ^ f.eb
  let fr := bits % 2 ^ f.fb
  if e = 2 ^ f.eb - 1 then (if fr = 0 then .inf neg else .nan neg fr f.fb)
  else if e = 0 then .num neg fr f.qmin
  else .num neg (2 ^ f.fb + fr) (f.qmin + (e : Int) - 1)

def FV.isNan : FV → Bool
  | .nan _ _ _ => true
  | _ => false

def FV.isZero : FV → Bool
  | .num _ 0 _ => true
  | _ => false

def FV.neg : FV → Bool
  | .nan s _ _ => s
  | .inf s => s
  | .num s _ _ => s

/-- The value with its sign inverted; a NaN is unchanged. -/
def FV.negate : FV → FV
  | .nan s f w => .nan s f w
  | .inf s => .inf !s
  | .num s m e => .num (!s) m e

/-! ### Rounding -/

/-- The number of low zero bits of a nonzero number, looking at `fuel` bits. -/
def lowZeros : Nat → Nat → Nat
  | 0, _ => 0
  | k + 1, n => if n % 2 = 1 then 0 else 1 + lowZeros k (n / 2)

/-- Which of the neighbours `lo` and `lo + 1` a magnitude rounds to (R57, R61). The magnitude is
lo + (num + ε) / 2^t with 0 ≤ num < 2^t, where ε is 0, or lies strictly between 0 and 1 when `sticky` is set. `r` is
the 32-bit output of SRG. With `sticky` the caller gives t ≥ 32. -/
def roundMag (rm : Rm) (neg : Bool) (lo num t : Nat) (sticky : Bool) (r : Nat) : Nat :=
  if num = 0 && !sticky then lo
  else match rm with
    | .rtz => lo
    | .rdn => if neg then lo + 1 else lo
    | .rup => if neg then lo else lo + 1
    | .rna => if 2 ^ t ≤ 2 * num then lo + 1 else lo
    | .sr =>
      let j := if sticky then 32 else min (t - lowZeros t num) 32
      if 2 ^ j ≤ num * 2 ^ j / 2 ^ t + r / 2 ^ (32 - j) then lo + 1 else lo
    | .rne | .rsat =>
      if 2 ^ t < 2 * num then lo + 1
      else if 2 * num < 2 ^ t then lo
      else if sticky then lo + 1
      else if lo % 2 = 0 then lo else lo + 1

/-- Splits m × 2^e over the quantum 2^q: whole quanta, remainder and its bit count. -/
def splitAt (m : Nat) (e q : Int) : Nat × Nat × Nat :=
  if q ≤ e then (m * 2 ^ (e - q).toNat, 0, 0)
  else
    let t := (q - e).toNat
    (m / 2 ^ t, m % 2 ^ t, t)

/-- The bits of a nonzero magnitude m × 2^e (plus a fraction of 2^e when `sticky`) rounded into a format, with its
sign (R57). Beyond the largest finite number the overflow column applies. -/
def Fmt.round (f : Fmt) (rm : Rm) (r : Nat) (neg : Bool) (m : Nat) (e : Int) (sticky : Bool) : Nat :=
  let top : Int := e + (Nat.log2 m : Int)
  let q : Int := max (top - (f.fb : Int)) f.qmin
  let (lo, num, t) := splitAt m e q
  let mag := roundMag rm neg lo num t sticky r
  let bits := (q - f.qmin).toNat * 2 ^ f.fb + mag
  let bits := if mag = 0 then 0 else bits
  let bits :=
    if bits < f.infBits then bits
    else match rm with
      | .rtz | .rsat => f.maxBits
      | .rdn => if neg then f.infBits else f.maxBits
      | .rup => if neg then f.maxBits else f.infBits
      | _ => f.infBits
  bits + (if neg then f.signBit else 0)

/-- Rounding to an integer format of range [lo, hi] (R59): the exact value is rounded by R57 over the integers and
saturated. -/
def roundInt (rm : Rm) (r : Nat) (lo hi : Int) (v : FV) : Int :=
  match v with
  | .nan _ _ _ => 0
  | .inf s => if s then lo else hi
  | .num s m e =>
    let (q, num, t) := splitAt m e 0
    let mag : Int := roundMag rm s q num t false r
    let x := if s then -mag else mag
    if x < lo then lo else if hi < x then hi else x

/-! ### Stochastic bits -/

/-- The stochastic bit source SRG (R60, (3.5) to (3.8)). -/
def srg (seed counter e : Nat) : Nat :=
  let mask : Nat := 2 ^ 64
  let stir (x : Nat) : Nat :=
    let x := Nat.xor x (x / 2 ^ 29)
    let x := x * 0xBF58476D1CE4E5B9 % mask
    Nat.xor x (x / 2 ^ 32)
  let x := (Nat.xor seed counter + e * 0x9E3779B9) % mask
  stir (stir (stir x)) / 2 ^ 32

/-! ### NaNs -/

/-- The payload of a generated NaN (R62, (3.9)): bundle address and lane. -/
def nanPayload (addr lane : Nat) : Nat :=
  Nat.xor (addr / 2 ^ 3 % 2 ^ 15) (addr / 2 ^ 18 % 2 ^ 15) * 2 ^ 7 + lane % 2 ^ 7

/-- The generated NaN of a format (R62). -/
def Fmt.genNan (f : Fmt) (payload : Nat) : Nat :=
  f.infBits + 2 ^ (f.fb - 1) + payload % 2 ^ (f.fb - 1)

/-- A NaN carried into a format, quieted (R63, R64). -/
def Fmt.quiet (f : Fmt) (neg : Bool) (frac fb : Nat) : Nat :=
  (if neg then f.signBit else 0) + f.infBits + 2 ^ (f.fb - 1) + frac % 2 ^ (fb - 1) % 2 ^ (f.fb - 1)

/-! ### Exact results -/

/-- The exact outcome of an operation before its one rounding: a NaN operand decides (R63), the result is invalid
(R62), or an exact value; `sticky` marks a quotient or root cut short. -/
inductive FRes where
  | nan (neg : Bool) (frac fb : Nat)
  | invalid
  | inf (neg : Bool)
  | num (neg : Bool) (m : Nat) (e : Int) (sticky : Bool)
  deriving DecidableEq, Repr

/-- The rounded bits of an outcome (R57, R62, R63). In mode 110 an infinite result is the largest finite number. -/
def Fmt.finish (f : Fmt) (rm : Rm) (r payload : Nat) : FRes → Nat
  | .nan s fr fb => f.quiet s fr fb
  | .invalid => f.genNan payload
  | .inf s => (if s then f.signBit else 0) + (if rm = .rsat then f.maxBits else f.infBits)
  | .num s m e st => if m = 0 && !st then (if s then f.signBit else 0) else f.round rm r s m e st

/-- The first NaN of a list of operands. -/
def firstNan : List FV → Option FV
  | [] => none
  | .nan s f w :: _ => some (.nan s f w)
  | _ :: t => firstNan t

/-- A product as a term of a sum (R58): none where it is invalid. -/
def FV.mul : FV → FV → Option FV
  | .num a m e, .num b n g => some (.num (a != b) (m * n) (e + g))
  | .inf a, .inf b => some (.inf (a != b))
  | .inf a, .num b n _ => if n = 0 then none else some (.inf (a != b))
  | .num a m _, .inf b => if m = 0 then none else some (.inf (a != b))
  | .nan s f w, _ => some (.nan s f w)
  | _, .nan s f w => some (.nan s f w)

/-- A signed exact number. -/
structure Dy where
  m : Int
  e : Int
  deriving DecidableEq, Repr

/-- The exact sum of two. -/
def Dy.add (x y : Dy) : Dy :=
  if x.e ≤ y.e then ⟨x.m + y.m * (2 : Int) ^ (y.e - x.e).toNat, x.e⟩
  else ⟨x.m * (2 : Int) ^ (x.e - y.e).toNat + y.m, y.e⟩

def FV.toDy : FV → Dy
  | .num s m e => ⟨if s then -(m : Int) else m, e⟩
  | _ => ⟨0, 0⟩

/-- The infinities of a list: whether a positive and a negative one occur. -/
def infSigns : List FV → Bool × Bool
  | [] => (false, false)
  | .inf s :: t => let (p, n) := infSigns t; if s then (p, true) else (true, n)
  | _ :: t => infSigns t

/-- The exact sum of terms without a NaN (R58, R65): opposite infinities are invalid, infinities of one sign are the
result, and an exact zero takes its sign by R58. -/
def exactSum (rm : Rm) (ts : List FV) : FRes :=
  match infSigns ts with
  | (true, true) => .invalid
  | (true, false) => .inf false
  | (false, true) => .inf true
  | (false, false) =>
    let d : Dy := ts.foldl (fun (acc : Dy) t => acc.add t.toDy) ⟨0, 0⟩
    if d.m = 0 then
      let allZero := ts.all FV.isZero
      if allZero && ts.all FV.neg && !ts.isEmpty then .num true 0 0 false
      else if allZero && ts.all (fun t => !t.neg) then .num false 0 0 false
      else .num (rm = .rdn) 0 0 false
    else .num (d.m < 0) d.m.natAbs d.e false

/-- The exact sum of products and an addend, NaN operands deciding in the order given (R63, R65, R67). -/
def exactDot (rm : Rm) (ps : List (FV × FV)) (addend : Option FV) : FRes :=
  match firstNan (ps.flatMap (fun p => [p.1, p.2]) ++ addend.toList) with
  | some (.nan s f w) => .nan s f w
  | _ =>
    if ps.any (fun p => (p.1.mul p.2).isNone) then .invalid
    else exactSum rm (ps.filterMap (fun p => p.1.mul p.2) ++ addend.toList)

def exactAdd (rm : Rm) (x y : FV) : FRes :=
  match firstNan [x, y] with
  | some (.nan s f w) => .nan s f w
  | _ => exactSum rm [x, y]

def exactSub (rm : Rm) (x y : FV) : FRes :=
  match firstNan [x, y] with
  | some (.nan s f w) => .nan s f w
  | _ => exactSum rm [x, y.negate]

def exactMul (x y : FV) : FRes :=
  match firstNan [x, y] with
  | some (.nan s f w) => .nan s f w
  | _ => match x.mul y with
    | some (.num s m e) => .num s m e false
    | some (.inf s) => .inf s
    | _ => .invalid

/-- Bits that quotients and roots keep beyond the format's fraction: enough for every mode of R57 and R61. -/
def guardBits (f : Fmt) : Nat := f.fb + 48

/-- x / y (R256): a finite nonzero number over zero is an infinity of the XOR of the signs. -/
def exactDiv (f : Fmt) (x y : FV) : FRes :=
  match x, y with
  | .nan s g w, _ => .nan s g w
  | _, .nan s g w => .nan s g w
  | .inf _, .inf _ => .invalid
  | .inf a, .num b _ _ => .inf (a != b)
  | .num a _ _, .inf b => .num (a != b) 0 0 false
  | .num a m e, .num b n g =>
    if n = 0 then (if m = 0 then .invalid else .inf (a != b))
    else if m = 0 then .num (a != b) 0 0 false
    else
      let s := guardBits f + Nat.log2 n + 1
      .num (a != b) (m * 2 ^ s / n) (e - g - s) (m * 2 ^ s % n != 0)

/-- The integer square root, `fuel` result bits from the top. -/
def isqrtAux : Nat → Nat → Nat → Nat
  | 0, _, r => r
  | k + 1, n, r =>
    let c := r + 2 ^ k
    if c * c ≤ n then isqrtAux k n c else isqrtAux k n r

def isqrt (n : Nat) : Nat := isqrtAux (Nat.log2 n / 2 + 1) n 0

/-- A magnitude with an even exponent. -/
def evenExp (m : Nat) (e : Int) : Nat × Int := if e % 2 = 0 then (m, e) else (2 * m, e - 1)

/-- √x (R256): √−0 is −0, a negative number is invalid. -/
def exactSqrt (f : Fmt) (x : FV) : FRes :=
  match x with
  | .nan s g w => .nan s g w
  | .inf s => if s then .invalid else .inf false
  | .num s m e =>
    if m = 0 then .num s 0 0 false
    else if s then .invalid
    else
      let (m, e) := evenExp m e
      let g := guardBits f
      let n := m * 2 ^ (2 * g)
      let q := isqrt n
      .num false q (e / 2 - g) (q * q != n)

/-- 1 / √x (R257). -/
def exactRsqrt (f : Fmt) (x : FV) : FRes :=
  match x with
  | .nan s g w => .nan s g w
  | .inf s => if s then .invalid else .num false 0 0 false
  | .num s m e =>
    if m = 0 then .inf s
    else if s then .invalid
    else
      let (m, e) := evenExp m e
      let g := guardBits f + Nat.log2 m + 1
      let q := isqrt (2 ^ (2 * g) / m)
      .num false q (-(e / 2) - g) (q * q * m != 2 ^ (2 * g))

/-- Comparison of two values without a NaN: `lt`, `eq` or `gt`, −0 equal to +0 (R258). -/
def FV.compare (x y : FV) : Ordering :=
  match x, y with
  | .inf a, .inf b => if a = b then .eq else if a then .lt else .gt
  | .inf a, _ => if a then .lt else .gt
  | _, .inf b => if b then .gt else .lt
  | _, _ => let d := (x.toDy.add y.negate.toDy).m
            if d < 0 then .lt else if d = 0 then .eq else .gt

/-! ### Conversions -/

/-- float → float (R57, R64); a zero keeps its sign (R58). -/
def Fmt.fromFV (f : Fmt) (rm : Rm) (r : Nat) (v : FV) : Nat :=
  match v with
  | .nan s fr fb => f.quiet s fr fb
  | .inf s => f.finish rm r 0 (.inf s)
  | .num s m e => f.finish rm r 0 (.num s m e false)

/-- integer → float (R58, R259): 0 gives +0. -/
def Fmt.fromInt (f : Fmt) (rm : Rm) (r : Nat) (i : Int) : Nat :=
  if i = 0 then 0 else f.round rm r (i < 0) i.natAbs 0 false

/-! ### MK8 and block scales -/

/-- Fraction bits and first code of the MK8 magnitudes of exponent E (R51). -/
def mk8Row (E : Int) : Nat × Int :=
  if -3 ≤ E then (4, 0x40 + (E + 3) * 16)
  else if -7 ≤ E then (3, 0x20 + (E + 7) * 8)
  else if -11 ≤ E then (2, 0x10 + (E + 11) * 4)
  else if -15 ≤ E then (1, 0x08 + (E + 15) * 2)
  else if -19 ≤ E then (0, 0x04 + (E + 19))
  else if -21 ≤ E then (0, 0x02 + (E + 21))
  else (0, 0x01)

/-- The magnitude of an MK8 magnitude code 1–127 as m × 2^e (R51). -/
def mk8Mag (c : Nat) : Nat × Int :=
  if 0x40 ≤ c then (16 + c % 16, (c / 16 % 4 : Nat) - 3 - 4)
  else if 0x20 ≤ c then (8 + c % 8, (c / 8 % 4 : Nat) - 7 - 3)
  else if 0x10 ≤ c then (4 + c % 4, (c / 4 % 4 : Nat) - 11 - 2)
  else if 0x08 ≤ c then (2 + c % 2, (c / 2 % 4 : Nat) - 15 - 1)
  else if 0x04 ≤ c then (1, (c % 4 : Nat) - 19)
  else if 0x02 ≤ c then (1, (c % 2 : Nat) - 21)
  else (1, -22)

/-- The canonical quiet NaN of R54, as an operand. -/
def canonNan : FV := .nan false 0x400000 23

/-- The value of an MK8 code under a scale byte (R53, R54). -/
def mk8Value (scale c : Nat) : FV :=
  if scale = 255 ∨ c = 0x80 then canonNan
  else if c % 128 = 0 then .num false 0 0
  else
    let (m, e) := mk8Mag (c % 128)
    .num (128 ≤ c) m (e + (scale : Int) - 127)

/-- Rounding a value to an MK8 code (R52). -/
def mk8Round (rm : Rm) (r : Nat) (v : FV) : Nat :=
  match v with
  | .nan _ _ _ => 0x80
  | .inf s => if s then 0xFF else 0x7F
  | .num s m e =>
    if m = 0 then 0
    else
      let E : Int := e + (Nat.log2 m : Int)
      let mag :=
        if 1 ≤ E then 0x7F
        else if E < -22 then
          let (lo, num, t) := splitAt m e (-22)
          roundMag rm s lo num t false r
        else
          let (fb, base) := mk8Row E
          let (lo, num, t) := splitAt m e (E - fb)
          min 0x7F (roundMag rm s (base.toNat + (lo - 2 ^ fb)) num t false r)
      if mag = 0 then 0 else if s then 128 + mag else mag

/-- The scale byte of a block (R55, (3.1) to (3.3)). -/
def blockScale (xs : List FV) : Nat :=
  if xs.any (fun x => match x with | .num _ _ _ => false | _ => true) then 255
  else
    let tops := xs.filterMap (fun x => match x with
      | .num _ m e => if m = 0 then none else some (e + (Nat.log2 m : Int))
      | _ => none)
    match tops with
    | [] => 127
    | t :: ts => ((max (-127) (ts.foldl max t)) + 127).toNat

/-- The codes of a block under its scale byte (R55, (3.4)); `r i` is SRG for the block's element i. -/
def blockCode (scale : Nat) (rm : Rm) (r : Nat) (x : FV) : Nat :=
  if scale = 255 then 0x80
  else match x with
    | .num s m e => mk8Round rm r (.num s m (e - ((scale : Int) - 127)))
    | _ => 0x80

/-! ### Histograms -/

/-- The bin of an element value of a floating-point bank (R70). -/
def histBin (f : Fmt) (bits : Nat) : Nat :=
  let e := bits / 2 ^ f.fb % 2 ^ f.eb
  if e = 0 then 0
  else if e = 2 ^ f.eb - 1 then 63
  else (min 62 (max 1 ((e : Int) - f.bias + 32))).toNat

end Sys2Proof.Machine
end

