-- ==== Sys2Proof/Machine/Access.lean ====
section
/-! DEFINITION. Reading and writing the parts of the state, the layout of the package (R3 to R6), of scratch (R115) and
of physical memory (R186, R187), and memory by bytes. -/

namespace Sys2Proof.Machine

/-! ### Records of the state -/

def State.thread (s : State) (cid slot : Nat) : Thread := Table.get Thread.fresh s.threads (16 * cid + slot)
def State.setThread (s : State) (cid slot : Nat) (t : Thread) : State :=
  { s with threads := Table.set s.threads (16 * cid + slot) t }
def State.modThread (s : State) (cid slot : Nat) (f : Thread → Thread) : State :=
  s.setThread cid slot (f (s.thread cid slot))

def State.core (s : State) (cid : Nat) : Core := Table.get Core.fresh s.cores cid
def State.setCore (s : State) (cid : Nat) (c : Core) : State := { s with cores := Table.set s.cores cid c }
def State.modCore (s : State) (cid : Nat) (f : Core → Core) : State := s.setCore cid (f (s.core cid))

def State.cluster (s : State) (cl : Nat) : Cluster := Table.get Cluster.fresh s.clusters cl
def State.setCluster (s : State) (cl : Nat) (c : Cluster) : State :=
  { s with clusters := Table.set s.clusters cl c }
def State.modCluster (s : State) (cl : Nat) (f : Cluster → Cluster) : State := s.setCluster cl (f (s.cluster cl))

/-- The bit mask of a list of numbers. -/
def maskOf (l : List Nat) : Nat := l.foldl (fun m j => m + 2 ^ j) 0

/-- A bank nothing has touched: a home bank, or a free pool bank (R114, R116). -/
def bankDflt (key : Nat) : Bank := Bank.fresh (if key % 64 < 32 then .home else .free)

def State.bank (s : State) (key : Nat) : Bank := Table.get (bankDflt key) s.banks key
def State.setBank (s : State) (key : Nat) (b : Bank) : State := { s with banks := Table.set s.banks key b }
def State.modBank (s : State) (key : Nat) (f : Bank → Bank) : State := s.setBank key (f (s.bank key))

def State.slice (s : State) (n : Nat) : Slice := Table.get Slice.fresh s.slices n
def State.setSlice (s : State) (n : Nat) (x : Slice) : State := { s with slices := Table.set s.slices n x }
def State.modSlice (s : State) (n : Nat) (f : Slice → Slice) : State := s.setSlice n (f (s.slice n))

def State.region? (s : State) (rid : Nat) : Option Region := Table.find s.regions rid
def State.setRegion (s : State) (rid : Nat) (r : Region) : State := { s with regions := Table.set s.regions rid r }
def State.modRegion (s : State) (rid : Nat) (f : Region → Region) : State :=
  match s.region? rid with
  | some r => s.setRegion rid (f r)
  | none => s

/-- The effective value of a region's field, by its given bit (R277, R279). -/
def Region.field (r : Region) (bit : Nat) : Nat := (Table.get (0 : Word) r.fields bit).toNat

/-- Fields by name (R277). -/
def Region.det (r : Region) : Bool := r.field 5 = 1
def Region.fdom (r : Region) : Bool := r.field 3 = 1
def Region.lockstep (r : Region) : Bool := r.field 4 = 1
def Region.coresPerTeam (r : Region) : Nat := r.field 15
def Region.nTeams (r : Region) : Nat := if r.kind = .tournament then 2 ^ r.field 29 else r.field 12

/-- A region is live from its acceptance until its state is 4 or 5 (R280). -/
def Region.live (r : Region) : Bool := r.state < 4

/-- The region a core is placed in, if any. -/
def State.regionOf (s : State) (cid : Nat) : Option Region := (s.core cid).region.bind s.region?

/-! ### Coordinates -/

/-- Cluster of a core, core in the cluster, die, cluster in the die. -/
def clOf (cid : Nat) : Nat := cid / 32
def coreOf (cid : Nat) : Nat := cid % 32
def dieOf (cid : Nat) : Nat := cid / 32 / 144
def cluOf (cid : Nat) : Nat := cid / 32 % 144

/-- Supervisor mode: the tinker's thread and no other (R337). -/
def isSup (cid : Nat) : Bool := cid % 32 = 16

/-- The coordinate word of a tile of a package (R138). -/
def coordWord (pkg cid : Nat) : Nat :=
  pkg * 2 ^ 14 + dieOf cid * 2 ^ 12 + cluOf cid / 12 * 2 ^ 8 + cluOf cid % 12 * 2 ^ 4 + coreOf cid

/-- The package of a coordinate word, its tile, and whether its fields are in range (R3). -/
def coordPkg (w : Nat) : Nat := w / 2 ^ 14 % 2 ^ 12
def coordCid (w : Nat) : Nat :=
  (w / 2 ^ 12 % 4 * 144 + w / 2 ^ 8 % 16 * 12 + w / 2 ^ 4 % 16) * 32 + w % 16
def coordOk (w : Nat) : Bool := w / 2 ^ 8 % 16 < 12 && w / 2 ^ 4 % 16 < 12

/-- Package-grid distance of two clusters (R5). -/
def gridPos (cl : Nat) : Nat × Nat :=
  let d := cl / 144
  let c := cl % 144
  (12 * (d / 2) + c / 12, 12 * (d % 2) + c % 12)
def gridDist (a b : Nat) : Nat :=
  let (r, c) := gridPos a
  let (r', c') := gridPos b
  (r - r') + (r' - r) + (c - c') + (c' - c)

/-! ### Keys of memory -/

/-- The key of a scratch byte (R115). -/
def scratchKey (cl sa : Nat) : Nat := 2 ^ 56 + cl * 2 ^ 23 + sa

/-- Bytes of a cluster's scratch space (R115). -/
def scratchBytes : Nat := 0x600000

/-- The bank of a scratch address: sa[22:17] (R115), and its key among all banks. -/
def bankOfSa (sa : Nat) : Nat := sa / 2 ^ 17
def bankKey (cl b : Nat) : Nat := 64 * cl + b

/-- The base of a cluster's stack window in its package (R186, R188). -/
def stackBase (pkg cl : Nat) : Nat := pkg * 2 ^ 43 + 0x10000000000 + 0x4000000 * cl
def stackBytes : Nat := 36 * 2 ^ 20

/-- What backs a PA (R186). -/
inductive Backing where
  | host | dram (die : Nat) | stack (cl off : Nat) | nothing
  deriving DecidableEq, Repr

/-- The backing of a PA (R186). -/
def backing (pa : Nat) : Backing :=
  if 2 ^ 56 ≤ pa then .nothing
  else if pa / 2 ^ 55 = 1 then .host
  else
    let loc := pa % 2 ^ 43
    if loc < 2 ^ 40 then .dram (loc / 2 ^ 38)
    else
      let w := (loc - 2 ^ 40) / 2 ^ 26
      let o := (loc - 2 ^ 40) % 2 ^ 26
      if w < 576 && o < stackBytes then .stack w o else .nothing

/-- The package of a PA (R186): the issuing one for host memory. -/
def paPkg (pkg pa : Nat) : Nat := if pa / 2 ^ 55 = 1 then pkg else pa / 2 ^ 43 % 2 ^ 12

/-- The fold of a line address (R187, (10.1)), over `n` groups of five bits from group i on. -/
def sliceFold : Nat → Nat → Nat → Nat
  | 0, _, _ => 0
  | n + 1, i, pa => Nat.xor (pa / 2 ^ (7 + 5 * i) % 32) (sliceFold n (i + 1) pa)

/-- The home slice of a line in its package (R187), as 32 × die + slice. -/
def homeSlice (pa : Nat) : Nat :=
  let die := match backing pa with
    | .host => pa / 2 ^ 7 % 4
    | .dram d => d
    | .stack cl _ => cl / 144
    | .nothing => 0
  32 * die + sliceFold 10 0 pa

def lineOf (pa : Nat) : Nat := pa / 128

/-- Every byte of a page of 2^bits bytes is backed (R186, R191): only a 1 GiB page can meet a hole between the stack windows. -/
def rangeBacked (pa bits : Nat) : Bool :=
  match backing pa with
  | .nothing => false
  | .stack _ _ => bits ≤ 21
  | .host => true
  | .dram _ => true

/-! ### Bytes -/

/-- What an unlisted byte reads as: 0. Scratch and stack are cleared at bring-up (R114, R364); for LPDDR6 and host
memory it is a DESIGN CHOICE (log entry 1). -/
def memDflt : Byte := 0

def State.byte (s : State) (key : Nat) : Byte := Table.get memDflt s.mem key
def State.setByte (s : State) (key : Nat) (b : Byte) : State := { s with mem := Table.put memDflt s.mem key b }

/-- Memory in its canonical form: keys rising, nothing listed that reads as the default. -/
def Memory.wf (m : List Host.Cell) : Bool := Table.canon memDflt m

/-- `n` bytes from `key` on as a little-endian number. -/
def memRead (m : List Host.Cell) (key : Nat) : Nat → Nat
  | 0 => 0
  | n + 1 => (Table.get memDflt m key).toNat + 256 * memRead m (key + 1) n

/-- `n` bytes of a little-endian number written from `key` on. -/
def memWrite (m : List Host.Cell) (key v : Nat) : Nat → List Host.Cell
  | 0 => m
  | n + 1 => memWrite (Table.put memDflt m key (BitVec.ofNat 8 v)) (key + 1) (v / 256) n

def State.read (s : State) (key n : Nat) : Nat := memRead s.mem key n
def State.write (s : State) (key n v : Nat) : State := { s with mem := memWrite s.mem key v n }

/-- Clears the bytes of [key, key + n): every one reads 0 again. -/
def State.clearMem (s : State) (key n : Nat) : State := { s with mem := Table.clear s.mem key n }

/-- The words of [key, key + n) in the list, by word key. -/
def wordsIn (l : List Nat) (key n : Nat) : List Nat :=
  l.filter (fun w => decide (key / 8 ≤ w ∧ w ≤ (key + n - 1) / 8))

/-- Whether a word of [key, key + n) is poisoned (R341), and the first such word's key. -/
def State.poisoned (s : State) (key n : Nat) : Option Nat :=
  if n = 0 then none else (wordsIn s.poison key n).head?.map (8 * ·)

/-- Poison after a write of [key, key + n): words written whole are clean again (R341). -/
def cleanPoison (l : List Nat) (key n : Nat) : List Nat :=
  l.filter (fun w => !(decide (key ≤ 8 * w ∧ 8 * w + 8 ≤ key + n)))

/-- The full/empty bit of the word of a key (R129). -/
def State.isFull (s : State) (key : Nat) : Bool := s.full.contains (key / 8)
def State.setFull (s : State) (key : Nat) (f : Bool) : State :=
  { s with full := if f then NatSet.add s.full (key / 8) else s.full.filter (fun w => decide (w ≠ key / 8)) }

/-! ### Banks: formats, histograms and apply counts -/

/-- The format codes of R121. -/
def fmtCode (fmt : Word) : Nat := fmt.toNat % 16
def fmtRm (fmt : Word) : Nat := fmt.toNat / 2 ^ 8 % 8
def fmtStrip (fmt : Word) : Nat := fmt.toNat / 2 ^ 32 % 2 ^ 17

/-- The floating-point format of a bank or place format code, where it is one of fp32, bf16, fp16. -/
def flFmt : Nat → Option Fmt
  | 1 => some .fp32
  | 2 => some .bf16
  | 3 => some .fp16
  | _ => none

/-- Bytes of an element of a format code (R121, R229): raw counts as one. -/
def elemBytes : Nat → Nat
  | 1 => 4 | 2 => 2 | 3 => 2 | 4 => 1 | 5 => 1 | 6 => 1 | 7 => 2 | 8 => 4 | 9 => 8 | _ => 1

/-- One step of a histogram bin, saturating (R70). -/
def bumpBin (bins : List (Nat × Nat)) (bin : Nat) : List (Nat × Nat) :=
  Table.put 0 bins bin (min 0xFFFFFFFF (Table.get 0 bins bin + 1))

/-- Counts `n` elements of width `w` from key `k` on. -/
def countElems (s : State) (f : Fmt) (w : Nat) : Nat → Nat → List (Nat × Nat) → List (Nat × Nat)
  | 0, _, bins => bins
  | n + 1, k, bins => countElems s f w n (k + w) (bumpBin bins (histBin f (s.read k w)))

/-- Histogram counting of a scratch write of [sa, sa + n) of cluster cl, made on the state after the write (R70): an
element that is written in part counts once with its whole new value. -/
def State.countHist (s : State) (cl sa n : Nat) : State :=
  let bk := bankKey cl (bankOfSa sa)
  let b := s.bank bk
  match flFmt (fmtCode b.fmt) with
  | none => s
  | some f =>
    let w := elemBytes (fmtCode b.fmt)
    let first := sa / w
    let last := (sa + n - 1) / w
    s.setBank bk { b with bins := countElems s f w (last + 1 - first) (scratchKey cl (first * w)) b.bins }

/-- One step of a bank's or a slice's apply count (R175); the count wraps at 48 bits. -/
def State.stepBank (s : State) (bk : Nat) : State :=
  s.modBank bk (fun b => { b with apply := (b.apply + 1) % 2 ^ 48 })
def State.stepSlice (s : State) (n : Nat) : State :=
  s.modSlice n (fun x => { x with apply := (x.apply + 1) % 2 ^ 48 })

/-- A write of a scratch range: bytes, poison, histogram, one apply step (R70, R175, R341). -/
def State.scratchWrite (s : State) (cl sa n v : Nat) : State :=
  let k := scratchKey cl sa
  let s := s.write k n v
  let s := { s with poison := cleanPoison s.poison k n }
  (s.countHist cl sa n).stepBank (bankKey cl (bankOfSa sa))

/-- The home slice of a line among those of all packages (R187): its number in its package, and 128 × the package's id more. -/
def State.sliceOf (s : State) (pa : Nat) : Nat := homeSlice pa + 128 * paPkg s.host.pkgId pa

/-- A write at a PA: bytes, poison, one apply step of the home slice (R175, R341). -/
def State.paWrite (s : State) (pa n v : Nat) : State :=
  let s := s.write pa n v
  let s := { s with poison := cleanPoison s.poison pa n }
  s.stepSlice (s.sliceOf pa)

/-! ### Copies, grants and pins of lines -/

/-- A line leaves a bank: its atomics step the slice when it was granted (R201). -/
def State.stepBack (s : State) (l : L1Line) : State :=
  if l.excl.isSome then (List.range l.steps).foldl (fun s _ => s.stepSlice (s.sliceOf (l.line * 128))) s else s

/-- The bank and core to which a line is granted (R201). -/
def State.grantOf (s : State) (line : Nat) : Option (Nat × Nat) :=
  s.banks.findSome? (fun (k, b) => (b.lines.find? (fun l => l.line = line)).bind (fun l => l.excl.map (fun c => (k, c))))

/-- A granted line returns to its slice: its atomics step the apply count (R201). -/
def State.returnGrant (s : State) (line : Nat) : State :=
  match s.grantOf line with
  | none => s
  | some (bk, _) =>
    match (s.bank bk).lines.find? (fun l => l.line = line) with
    | none => s
    | some l => (s.stepBack l).modBank bk (fun b => { b with lines := b.lines.map (fun x =>
        if x.line = line then { x with excl := none, steps := 0 } else x) })

/-- Every L1 copy of a line but the one in bank `keep` is invalidated (R197). -/
def State.invalidate (s : State) (line : Nat) (keep : Option Nat) : State :=
  { s with banks := s.banks.map (fun (e : Nat × Bank) =>
      (e.1, if some e.1 = keep then e.2 else { e.2 with lines := e.2.lines.filter (fun l => l.line ≠ line) })) }

/-- The core and pin of a pinned line (R220). -/
def State.pinOf (s : State) (line : Nat) : Option (Nat × Pin) :=
  s.cores.findSome? (fun (k, c) => (c.pins.find? (fun p => p.line = line)).map (fun p => (k, p)))

/-- An access of an agent resets the runs that other cores have at a line (R201). -/
def State.otherAccess (s : State) (line cid : Nat) : State :=
  let other (e : Nat × Nat × Nat) : Bool := e.1 = line && e.2.1 ≠ cid
  if (s.slice (s.sliceOf (line * 128))).recent.any other then
    s.modSlice (s.sliceOf (line * 128)) (fun x => { x with recent := x.recent.map (fun e => if other e then (e.1, e.2.1, 0) else e) })
  else s

/-- The number of an agent that is no core: an engine, a tinker, a drover, the host. -/
def engineCid : Nat := 2 ^ 25 + 31

/-- A read of a line by an agent: a grant of another core returns, and runs of others end (R201, R222). -/
def State.lineSeen (s : State) (line cid : Nat) : State :=
  (match s.grantOf line with
    | some (_, c) => if c = cid then s else s.returnGrant line
    | none => s).otherAccess line cid

/-- A write of a line by an agent that is no core: the grant returns, every copy leaves its L1, and runs end (R197, R201). A line
that a narrow release has pinned stays in its L1. -/
def State.lineTaken (s : State) (line : Nat) : State :=
  let s := (s.returnGrant line).otherAccess line engineCid
  if (s.pinOf line).isSome then s else s.invalidate line none

/-- The lines of the bytes [pa, pa + n). -/
def lineSpan (pa n : Nat) : List Nat :=
  if n = 0 then [] else (List.range (lineOf (pa + n - 1) + 1 - lineOf pa)).map (lineOf pa + ·)

def State.rangeSeen (s : State) (pa n cid : Nat) : State := (lineSpan pa n).foldl (fun s l => s.lineSeen l cid) s
def State.rangeTaken (s : State) (pa n : Nat) : State := (lineSpan pa n).foldl State.lineTaken s

/-- Where a PA is performed while its page migrates (R196): copied lines at their new home. -/
def State.fwd (s : State) (pa : Nat) : Nat :=
  match s.host.mig with
  | some m => if m.old ≤ pa && pa < m.old + m.size && (pa - m.old) / 128 < m.copied then m.new + (pa - m.old) else pa
  | none => pa

/-- Clearing a bank (R114): bytes 0, every word empty, raw format, bins 0. -/
def State.clearBank (s : State) (cl b : Nat) : State :=
  let k := scratchKey cl (b * 2 ^ 17)
  let s := s.clearMem k (2 ^ 17)
  let inBank (w : Nat) : Bool := decide (k / 8 ≤ w ∧ w < (k + 2 ^ 17) / 8)
  let s := { s with full := s.full.filter (fun w => !inBank w), poison := s.poison.filter (fun w => !inBank w) }
  s.modBank (bankKey cl b) (fun x => { x with fmt := 0, bins := [] })

/-- The doubleword at a PA. -/
def State.dw (s : State) (pa : Nat) : Nat := s.read pa 8

/-- The bank is held by the region (R115): a home bank of a core placed in it, or a pool bank allocated to it, on a cluster that is
not being reset (R339). -/
def State.bankHeld (s : State) (rid cl b : Nat) : Bool :=
  (s.cluster cl).resetAt.isNone && if b < 32 then decide ((s.core (32 * cl + b / 2)).region = some rid)
  else decide ((s.bank (bankKey cl b)).role = .alloc rid)

/-- The cycle counter of a die (R81). -/
def State.cycOf (s : State) (die : Nat) : Nat := s.cyc + Table.get 0 s.skew die

/-- A coordinate word of this package. -/
def State.coord (s : State) (cid : Nat) : Nat := coordWord s.host.pkgId cid

/-- Cores of a cluster that are placed in a region. -/
def State.placedCores (s : State) (rid cl : Nat) : List Nat :=
  ((List.range 16).map (32 * cl + ·)).filter (fun c => (s.core c).region = some rid)

/-- A fresh number for an operation, in issue order. -/
def State.fresh (s : State) : Nat × State := (s.nextId, { s with nextId := s.nextId + 1 })

def State.req? (s : State) (id : Nat) : Option Req := s.reqs.find? (fun r => r.id = id)
def State.setReq (s : State) (r : Req) : State :=
  { s with reqs := s.reqs.map (fun x => if x.id = r.id then r else x) }
def State.dropReq (s : State) (id : Nat) : State := { s with reqs := s.reqs.filter (fun x => x.id ≠ id) }

end Sys2Proof.Machine
end

