-- ==== Sys2Proof/Machine/Flags.lean ====
section
/-! DEFINITION. The part keeps no flags (R49, R85): what other machines hold in flags is computed where it is used.
Here stand the saturations of integer results (R84, R85, R255) and the conditions of `CMP`, the branches and `VCMP`
(R86, R106, R258). -/

namespace Sys2Proof

open Machine

/-- The width of an integer form (R85). -/
def wBits (w : Bool) : Nat := if w then 32 else 64

/-- The unsigned and signed views of an operand at width n (R85). -/
def uView (w : Bool) (v : Word) : Nat := v.toNat % 2 ^ wBits w
def sView (w : Bool) (v : Word) : Int := if w then (v.setWidth 32).toInt else v.toInt

/-- The modifiers of R84 on an exact result at width n. -/
def clampMod (m : IntMod) (n : Nat) (x : Int) : Int :=
  match m with
  | .wrap => x
  | .usat => max 0 (min x (2 ^ n - 1))
  | .sat => max (-(2 ^ (n - 1))) (min x (2 ^ (n - 1) - 1))

/-- `fin` of R85: the low n bits of the exact result, sign-extended from bit n − 1. -/
def fin (m : IntMod) (w : Bool) (x : Int) : Word :=
  if w then (BitVec.ofInt 32 (clampMod m 32 x)).signExtend 64 else BitVec.ofInt 64 (clampMod m 64 x)

/-- The conditions of `CMP` (R86). -/
def Cond.holds (c : Cond) (w : Bool) (a b : Word) : Bool :=
  match c with
  | .eq => uView w a = uView w b
  | .ne => uView w a ≠ uView w b
  | .lt => sView w a < sView w b
  | .ge => sView w b ≤ sView w a
  | .ltu => uView w a < uView w b
  | .geu => uView w b ≤ uView w a

/-- A condition of `VCMP` on an ordering (R258). -/
def ICond.ofOrd (c : ICond) (o : Ordering) : Bool :=
  match c with
  | .eq => o = .eq
  | .ne => o ≠ .eq
  | .lt => o = .lt
  | .ge => o ≠ .lt
  | .le => o ≠ .gt
  | .gt => o = .gt

/-- The conditions of `VCMP` on floating-point values: a NaN meets only `.ne` and `.uno` (R258). -/
def VCond.holds (c : VCond) (x y : FV) : Bool :=
  match c with
  | .uno => x.isNan || y.isNan
  | .ord c => if x.isNan || y.isNan then c = .ne else c.ofOrd (x.compare y)

/-- The conditions of `VCMP` on integers (R258). -/
def ICond.holds (c : ICond) (x y : Int) : Bool :=
  c.ofOrd (if x < y then .lt else if x = y then .eq else .gt)

end Sys2Proof
end

