-- ==== Sys2Proof/Machine/Operands.lean ====
section
/-! DEFINITION. The operands of an instruction: which registers it reads, pops, writes and pushes (R71 to R79, R90,
R91), its counter class (R103), feature and privilege (R41, R42, R98), and the check of a memory operand (R124 to
R127). -/

namespace Sys2Proof

open Machine

/-! ### Element types -/

def FT.fmt : FT → Fmt
  | .f32 => .fp32 | .bf16 => .bf16 | .f16 => .fp16
def SF.fmt : SF → Fmt
  | .f32 => .fp32 | .bf16 => .bf16 | .f16 => .fp16 | .f64 => .fp64
def IT.bits : IT → Nat
  | .i8 => 8 | .u8 => 8 | .i16 => 16 | .i32 => 32 | .i64 => 64
def IT.signed : IT → Bool
  | .u8 => false | .i8 | .i16 | .i32 | .i64 => true
def VT.bits : VT → Nat
  | .fl t => Fmt.bits (FT.fmt t) | .int t => IT.bits t
def SI.bits : SI → Nat
  | .i32 => 32 | .u32 => 32 | .i64 => 64 | .u64 => 64
def SI.signed : SI → Bool
  | .i32 => true | .i64 => true | .u32 => false | .u64 => false

/-- Bytes of an access size (R32). -/
def Size.bytes : Size → Nat
  | .b => 1 | .h => 2 | .w => 4 | .d => 8

/-- Lanes of a short register (R248); a long register has 16 times as many. -/
def VT.lanes (t : VT) : Nat := 256 / t.bits

/-- Stochastic rounding needs feature 3 (R41). -/
def Rm.srFeat (r : Rm) : Option Nat := if r = .sr then some 3 else none
def VArith.srFeat : VArith → Option Nat
  | .fl _ r => Rm.srFeat r
  | .int _ _ => none

/-! ### The shape of an instruction -/

/-- What issue needs to know of an instruction. -/
structure Shape where
  /-- class 1 (R19) -/
  arith : Bool := false
  /-- source fields that name general registers and may pop (R23) -/
  gs : List Reg := []
  /-- registers read that may not pop: `d` as a third source (R90) -/
  third : List Reg := []
  /-- registers read besides fields: payload of `SEND`, compare value of `ACAS` -/
  plain : List Nat := []
  /-- the destination field, where it names a general register -/
  gd : Option Reg := none
  /-- the destination follows R45 -/
  late : Bool := false
  /-- registers written besides the destination field -/
  extra : List Nat := []
  /-- vector registers read and written -/
  vs : List Reg := []
  vd : Option Reg := none
  /-- a vector memory operation (R250) -/
  vmem : Bool := false
  cls : Option Cls := none
  feat : Option Nat := none
  sup : Bool := false
  foreman : Bool := false
  deriving Repr

/-- The shape of each instruction, from its description. -/
def Instr.shape : Instr → Shape
  | .nop => {}
  | .nopArith => { arith := true }
  | .yield => {}
  | .exit => {}
  | .trap a => { gs := [a] }
  | .jr a => { gs := [a] }
  | .jlr a => { gs := [a], extra := [31] }
  | .rdsr d _ => { gd := some d }
  | .wrsr b _ => { gs := [b] }
  | .fence _ => {}
  | .widen _ => {}
  | .vmode => {}
  | .vmodeLong => {}
  | .tstart a b => { gs := [a, b], foreman := true }
  | .treap a => { gs := [a], foreman := true }
  | .tstat d b => { gd := some d, gs := [b], foreman := true }
  | .rvinit a _ => { gs := [a] }
  | .rvarr _ => {}
  | .rvwait _ => {}
  | .rvbytes a _ => { gs := [a] }
  | .movi d _ => { gd := some d }
  | .movhi d _ => { gd := some d, third := [d] }
  | .addi d _ => { gd := some d, third := [d] }
  | .addiW d _ => { gd := some d, third := [d] }
  | .wait _ _ _ _ => {}
  | .j _ => {}
  | .jl _ => { extra := [31] }
  | .spawn _ => {}
  | .beq a b _ => { gs := [a, b] }
  | .bne a b _ => { gs := [a, b] }
  | .blt a b _ => { gs := [a, b] }
  | .bge a b _ => { gs := [a, b] }
  | .bltu a b _ => { gs := [a, b] }
  | .bgeu a b _ => { gs := [a, b] }
  | .bz a _ => { gs := [a] }
  | .bnz a _ => { gs := [a] }
  | .beng _ _ tok _ => { gs := [tok] }
  | .ldB d x _ _ => { gd := some d, late := true, gs := [x], cls := some .ld }
  | .ldH d x _ _ => { gd := some d, late := true, gs := [x], cls := some .ld }
  | .ldW d x _ _ => { gd := some d, late := true, gs := [x], cls := some .ld }
  | .ldD d x _ _ => { gd := some d, late := true, gs := [x], cls := some .ld }
  | .ldBSx d x _ _ => { gd := some d, late := true, gs := [x], cls := some .ld }
  | .ldHSx d x _ _ => { gd := some d, late := true, gs := [x], cls := some .ld }
  | .ldWSx d x _ _ => { gd := some d, late := true, gs := [x], cls := some .ld }
  | .stB d x _ _ => { gs := [d, x], cls := some .st }
  | .stH d x _ _ => { gs := [d, x], cls := some .st }
  | .stW d x _ _ => { gs := [d, x], cls := some .st }
  | .stD d x _ _ => { gs := [d, x], cls := some .st }
  | .lds d x _ _ => { gd := some d, late := true, gs := [x], cls := some .ld }
  | .ldf d x _ _ => { gd := some d, late := true, gs := [x], cls := some .ld }
  | .sts d x _ _ => { gs := [d, x], cls := some .st }
  | .stf d x _ _ => { gs := [d, x], cls := some .st }
  | .feset x _ => { gs := [x] }
  | .feclr x _ => { gs := [x] }
  | .feq d x _ => { gd := some d, late := true, gs := [x], cls := some .ld }
  | .ldgB d x _ _ => { gd := some d, late := true, gs := [x], cls := some .ld }
  | .ldgH d x _ _ => { gd := some d, late := true, gs := [x], cls := some .ld }
  | .ldgW d x _ _ => { gd := some d, late := true, gs := [x], cls := some .ld }
  | .ldgD d x _ _ => { gd := some d, late := true, gs := [x], cls := some .ld }
  | .ldgBSx d x _ _ => { gd := some d, late := true, gs := [x], cls := some .ld }
  | .ldgHSx d x _ _ => { gd := some d, late := true, gs := [x], cls := some .ld }
  | .ldgWSx d x _ _ => { gd := some d, late := true, gs := [x], cls := some .ld }
  | .stgB d x _ _ => { gs := [d, x], cls := some .st }
  | .stgH d x _ _ => { gs := [d, x], cls := some .st }
  | .stgW d x _ _ => { gs := [d, x], cls := some .st }
  | .stgD d x _ _ => { gs := [d, x], cls := some .st }
  | .pref x _ => { gs := [x] }
  | .cclean x _ => { gs := [x], cls := some .st }
  | .cinval x _ => { gs := [x], cls := some .st }
  | .ldAcq _ _ _ d x _ => { gd := some d, late := true, gs := [x], cls := some .ld }
  | .ldgAcq _ _ _ d x _ => { gd := some d, late := true, gs := [x], cls := some .ld }
  | .stRel _ _ d x _ => { gs := [d, x], cls := some .st }
  | .stgRel _ _ d x _ => { gs := [d, x], cls := some .st }
  | .aadd _ n _ d x _ => { gs := [d, x], gd := if n then none else some d, late := !n, cls := some (if n then .st else .ld) }
  | .aand _ n _ d x _ => { gs := [d, x], gd := if n then none else some d, late := !n, cls := some (if n then .st else .ld) }
  | .aor _ n _ d x _ => { gs := [d, x], gd := if n then none else some d, late := !n, cls := some (if n then .st else .ld) }
  | .axor _ n _ d x _ => { gs := [d, x], gd := if n then none else some d, late := !n, cls := some (if n then .st else .ld) }
  | .amin _ n _ d x _ => { gs := [d, x], gd := if n then none else some d, late := !n, cls := some (if n then .st else .ld) }
  | .amax _ n _ d x _ => { gs := [d, x], gd := if n then none else some d, late := !n, cls := some (if n then .st else .ld) }
  | .aminu _ n _ d x _ => { gs := [d, x], gd := if n then none else some d, late := !n, cls := some (if n then .st else .ld) }
  | .amaxu _ n _ d x _ => { gs := [d, x], gd := if n then none else some d, late := !n, cls := some (if n then .st else .ld) }
  | .axchg _ n _ d x _ => { gs := [d, x], gd := if n then none else some d, late := !n, cls := some (if n then .st else .ld) }
  | .acas _ n _ d x _ => { gs := [d, x], gd := if n then none else some d, late := !n, cls := some (if n then .st else .ld), plain := [d.val + 1] }
  | .afadd _ n d x _ => { gs := [d, x], gd := if n then none else some d, late := !n, cls := some (if n then .st else .ld) }
  | .rst st _ d x _ => { gs := [d, x], cls := some .st, feat := if st = 0 then none else some 4 }
  | .mst d x _ _ => { gs := [d, x], cls := some .st, feat := some 4 }
  | .vld d x _ _ => { gs := [x], vd := some d, cls := some .ld, vmem := true }
  | .vst d x _ _ => { gs := [x], vs := [d], cls := some .st, vmem := true }
  | .vlds t _ d x _ => { gs := [x, t], vd := some d, cls := some .ld, vmem := true }
  | .vgath t _ d x _ => { gs := [x], vs := [t], vd := some d, cls := some .ld, vmem := true }
  | .vscat t _ d x _ => { gs := [x], vs := [d, t], cls := some .st, vmem := true }
  | .segset a b _ => { gs := [a, b], sup := true }
  -- the last register of a bank has no register d + 1 (R127)
  | .segget d _ => { gd := some d, extra := if d.val % 32 = 31 then [] else [d.val + 1] }
  | .segnarrow a b _ => { gs := [a, b] }
  | .bankfmt a b => { gs := [a, b] }
  | .bankalloc d b => { gd := some d, gs := [b] }
  | .bankfree a => { gs := [a] }
  | .poolset a => { gs := [a] }
  | .histrd d b _ => { gd := some d, gs := [b] }
  | .histclr a => { gs := [a] }
  | .swait d _ => { gd := some d, late := true, cls := some .ld, feat := some 4 }
  | .sseq d b _ => { gd := some d, gs := [b], feat := some 4 }
  | .pgreg a b => { gs := [a, b], feat := some 5 }
  | .pgfill a b => { gs := [a, b], feat := some 5, cls := some .st }
  | .cpstream b _ => { gs := [b] }
  | .accrd d b _ => { gd := some d, late := true, gs := [b] }
  | .mxsave a => { gs := [a], cls := some .mx }
  | .mxload a => { gs := [a], cls := some .mx }
  | .tkwin a => { gs := [a], cls := some .mx, feat := some 2 }
  | .tkload a b => { gs := [a, b], cls := some .mx, feat := some 2 }
  | .tklaunch a => { gs := [a], cls := some .mx, feat := some 2 }
  | .tklaunchAnd a => { gs := [a], cls := some .mx, feat := some 2 }
  | .tkcapt a => { gs := [a], cls := some .mx, feat := some 2 }
  | .tkfirst d b => { feat := some 2, gd := some d, late := true, gs := [b] }
  | .tkreset => { cls := some .mx, feat := some 2 }
  | .tkstat d => { feat := some 2, gd := some d }
  | .chdecl a b _ _ => { gs := [a, b], feat := some 0 }
  | .chclose _ _ => { feat := some 0 }
  | .hdlset a _ => { gs := [a], feat := some 0 }
  | .send a _ => { gs := [a], feat := some 0, plain := [16, 17, 18, 19, 20, 21, 22, 23] }
  | .recv d => { feat := some 0, gd := some d, extra := [16, 17, 18, 19, 20, 21, 22, 23, 24, 25] }
  | .evdone => { feat := some 0 }
  | .promise a _ => { gs := [a], feat := some 0 }
  | .floor d => { feat := some 0, gd := some d }
  | .evstart a => { gs := [a], feat := some 0 }
  | .sync => {}
  -- what it takes from the deque is no operand of the word (log entry 127)
  | .taskend => {}
  | .qcfg a _ => { gs := [a] }
  | .launch a b => { gs := [a, b], cls := some .st }
  | .rwait a => { gs := [a] }
  | .tscore a => { gs := [a], feat := some 1 }
  | .tround => { feat := some 1 }
  | .tgrow d => { feat := some 1, gd := some d }
  | .trank d b => { feat := some 1, gd := some d, gs := [b] }
  | .frecrd d b _ => { gd := some d, late := true, gs := [b], cls := some .ld }
  | .qthaw a => { gs := [a] }
  | .ctxsave a => { gs := [a], sup := true, cls := some .st }
  | .ctxload a => { gs := [a], sup := true }
  | .eret => { sup := true }
  | .add _ _ d a b => { arith := true, gd := some d, gs := [a, b] }
  | .sub _ _ d a b => { arith := true, gd := some d, gs := [a, b] }
  | .min _ d a b => { arith := true, gd := some d, gs := [a, b] }
  | .max _ d a b => { arith := true, gd := some d, gs := [a, b] }
  | .minu _ d a b => { arith := true, gd := some d, gs := [a, b] }
  | .maxu _ d a b => { arith := true, gd := some d, gs := [a, b] }
  | .mov _ d a => { arith := true, gd := some d, gs := [a] }
  | .sel _ d a b => { arith := true, gd := some d, gs := [a, b], third := [d] }
  | .mul _ _ d a b => { arith := true, gd := some d, gs := [a, b] }
  | .mulh _ d a b => { arith := true, gd := some d, gs := [a, b] }
  | .mulhu _ d a b => { arith := true, gd := some d, gs := [a, b] }
  | .div _ d a b => { arith := true, gd := some d, gs := [a, b] }
  | .divu _ d a b => { arith := true, gd := some d, gs := [a, b] }
  | .rem _ d a b => { arith := true, gd := some d, gs := [a, b] }
  | .remu _ d a b => { arith := true, gd := some d, gs := [a, b] }
  | .and _ d a b => { arith := true, gd := some d, gs := [a, b] }
  | .or _ d a b => { arith := true, gd := some d, gs := [a, b] }
  | .xor _ d a b => { arith := true, gd := some d, gs := [a, b] }
  | .andn _ d a b => { arith := true, gd := some d, gs := [a, b] }
  | .orn _ d a b => { arith := true, gd := some d, gs := [a, b] }
  | .shl _ d a b => { arith := true, gd := some d, gs := [a, b] }
  | .shr _ d a b => { arith := true, gd := some d, gs := [a, b] }
  | .sra _ d a b => { arith := true, gd := some d, gs := [a, b] }
  | .rol _ d a b => { arith := true, gd := some d, gs := [a, b] }
  | .clz _ d a => { arith := true, gd := some d, gs := [a] }
  | .ctz _ d a => { arith := true, gd := some d, gs := [a] }
  | .popc _ d a => { arith := true, gd := some d, gs := [a] }
  | .bfx _ d a b => { arith := true, gd := some d, gs := [a, b] }
  | .bfxSx _ d a b => { arith := true, gd := some d, gs := [a, b] }
  | .bfi _ d a b => { arith := true, gd := some d, gs := [a, b], third := [d] }
  | .cmp _ _ d a b => { arith := true, gd := some d, gs := [a, b] }
  | .vadd t d a b => { arith := true, vd := some d, vs := [a, b], feat := t.srFeat }
  | .vsub t d a b => { arith := true, vd := some d, vs := [a, b], feat := t.srFeat }
  | .vmul t d a b => { arith := true, vd := some d, vs := [a, b], feat := t.srFeat }
  | .vfma t d a b => { arith := true, vd := some d, vs := [a, b, d], feat := t.srFeat }
  | .vdiv _ r d a b => { arith := true, vd := some d, vs := [a, b], feat := r.srFeat }
  | .vsqrt _ r d a => { arith := true, vd := some d, vs := [a], feat := r.srFeat }
  | .vmin _ d a b => { arith := true, vd := some d, vs := [a, b] }
  | .vmax _ d a b => { arith := true, vd := some d, vs := [a, b] }
  | .vabs _ d a => { arith := true, vd := some d, vs := [a] }
  | .vneg _ d a => { arith := true, vd := some d, vs := [a] }
  | .vrcp _ r d a => { arith := true, vd := some d, vs := [a], feat := r.srFeat }
  | .vrsq _ r d a => { arith := true, vd := some d, vs := [a], feat := r.srFeat }
  | .vexp _ r d a => { arith := true, vd := some d, vs := [a], feat := r.srFeat }
  | .vlog _ r d a => { arith := true, vd := some d, vs := [a], feat := r.srFeat }
  | .vtanh _ r d a => { arith := true, vd := some d, vs := [a], feat := r.srFeat }
  | .vcmp _ d a b => { arith := true, vd := some d, vs := [a, b] }
  | .vsel _ d a b => { arith := true, vd := some d, vs := [a, b, d] }
  | .vand _ d a b => { arith := true, vd := some d, vs := [a, b] }
  | .vor _ d a b => { arith := true, vd := some d, vs := [a, b] }
  | .vxor _ d a b => { arith := true, vd := some d, vs := [a, b] }
  | .vshl _ d a b => { arith := true, vd := some d, vs := [a, b] }
  | .vshr _ d a b => { arith := true, vd := some d, vs := [a, b] }
  | .vcvt dst src r d a => { arith := true, vd := some d, vs := if dst.lanes ≤ src.lanes then [a] else [a, d], feat := r.srFeat }
  | .vdot t d a b => { arith := true, vd := some d, vs := [a, b, d], feat := t.srFeat }
  | .vred t d a => { arith := true, vd := some d, vs := [a], feat := t.srFeat }
  | .vperm _ d a b => { arith := true, vd := some d, vs := [a, b] }
  | .vbcast _ d a => { arith := true, vd := some d, gs := [a] }
  | .vext _ d a b => { arith := true, vs := [a], gd := some d, gs := [b] }
  | .vins _ d a b => { arith := true, vd := some d, vs := [d], gs := [a, b] }
  | .vcvtS _ _ r d a => { arith := true, gd := some d, gs := [a], feat := r.srFeat }
  | .vaddS _ r d a b => { arith := true, gd := some d, gs := [a, b], feat := r.srFeat }
  | .vsubS _ r d a b => { arith := true, gd := some d, gs := [a, b], feat := r.srFeat }
  | .vmulS _ r d a b => { arith := true, gd := some d, gs := [a, b], feat := r.srFeat }
  | .vfmaS _ r d a b => { arith := true, gd := some d, gs := [a, b, d], feat := r.srFeat }
  | .vdivS _ r d a b => { arith := true, gd := some d, gs := [a, b], feat := r.srFeat }
  | .vsqrtS _ r d a => { arith := true, gd := some d, gs := [a], feat := r.srFeat }
  | .vminS _ d a b => { arith := true, gd := some d, gs := [a, b] }
  | .vmaxS _ d a b => { arith := true, gd := some d, gs := [a, b] }
  | .vabsS _ d a => { arith := true, gd := some d, gs := [a] }
  | .vnegS _ d a => { arith := true, gd := some d, gs := [a] }
  | .vrcpS _ r d a => { arith := true, gd := some d, gs := [a], feat := r.srFeat }
  | .vrsqS _ r d a => { arith := true, gd := some d, gs := [a], feat := r.srFeat }
  | .vexpS _ r d a => { arith := true, gd := some d, gs := [a], feat := r.srFeat }
  | .vlogS _ r d a => { arith := true, gd := some d, gs := [a], feat := r.srFeat }
  | .vtanhS _ r d a => { arith := true, gd := some d, gs := [a], feat := r.srFeat }
  | .vcmpS _ _ d a b => { arith := true, gd := some d, gs := [a, b] }
  | .parkedBundleReissue _ _
  | .allowanceEnd _ _
  | .noticePush _
  | .lateResultWriteback _
  | .storeAcknowledge _
  | .storeBufferSend _
  | .bankRequestArrival _ _
  | .feRequestResend _
  | .remoteRefusalArrival _
  | .sliceAccessPerform _ _
  | .lineRecallComplete _
  | .pinnedAccessResend _
  | .pageWalkEnd _
  | .heldUpcallPush _ _
  | .pgfillComplete _
  | .wakeMessage _ _
  | .streamStoreArrival _
  | .openStoreResend _
  | .streamCloseFlit _
  | .rvArrivalCount _
  | .cpLin _
  | .cp2d _
  | .cpGath _
  | .cpScat _
  | .cpBcst _
  | .copyBytesLand _
  | .remoteLandingReport _
  | .followOnEnter _
  | .mxMma _
  | .mxSpmma _
  | .mxKStep _
  | .mxDrain _
  | .mxZero _
  | .mxsaveExecute _
  | .mxloadExecute _
  | .tickNote _
  | .tickEntryExecute _
  | .engineCompletionPost _
  | .messageAccept _
  | .hungerFlitArrival _
  | .promiseFlitArrival _
  | .joinFlitArrival _
  | .closeFlitArrival _
  | .allowanceReturn _
  | .arrivalDispatch _
  | .deadLetterReturn _
  | .sweepDelayExpiry _
  | .floorSweepStart _
  | .floorSweepComplete _
  | .afaddAccept _
  | .afaddResend _
  | .stealAttempt _
  | .launchRegisterWrite _ _
  | .lresRead _
  | .teamPlacement _
  | .teamRetire _ _
  | .regionEnd _
  | .regionAllowanceEnd _
  | .roundBarrierComplete _
  | .regionStop _
  | .teamDisplace _
  | .displacedRequestArrival _
  | .displacedRequestResend _
  | .teamRestore _
  | .tinkerServiceDispatch _
  | .tinkerFaultRestart _
  | .poolSamplingInterval _
  | .cacheBankWritebackEnd _
  | .bankIdle _
  | .bankClearEnd _
  | .uncorrectableError _
  | .scrubAccess _
  | .clusterReset _ _
  | .drainTimeout _
  | .clusterClearEnd _
  | .dieLinkFailure _ _
  | .porrokPortDown _
  | .migrationRequest _
  | .migrationLineCopy
  | .migrationEnd
  | .rcStop _
  | .rcDisplace _
  | .rcResume _
  | .rcResRead
  | .featAcceptWrite _
  | .pkgIdWrite _
  | .nqHeadWrite _
  | .droverConfigWrite _ _ _
  | .droverEntryTake _
  | .registerWrite _ _
  | .hostCxlAccess _
  | .hostSnoop _
  | .pldmPowerCapSet _
  | .pldmSensorRead _
  | .mctpControl _
  | .telemetrySample _
  | .thermalReset
  | .firmwareUpdate _
  | .quoteRequest _
  | .eventLogRead _
  | .lpddr6Refresh _
  | .lpddr6Retrain _
  | .moduleReset _
  | .unassignedOpcode _
  | .bundleAddress _
  | .dieLinkRetrain _ _
  | .porrokPortRetrain _
  | .msixVectorUnmask _
  | .poisonedPacketResend _ => {}

end Sys2Proof

namespace Sys2Proof.Machine

/-! ### Registers -/

/-- A general register of a thread: `p0` reads as zero (R72); 32 to 63 name the core's shared bank. -/
def State.reg (s : State) (cid slot r : Nat) : Word :=
  if r = 0 then 0
  else if r < 32 then Table.get 0 (s.thread cid slot).regs r
  else Table.get 0 (s.core cid).regs (r - 32)

/-- Writes a general register; a write to `p0` has no effect (R72). -/
def State.setReg (s : State) (cid slot r : Nat) (v : Word) : State :=
  if r = 0 then s
  else if r < 32 then s.modThread cid slot (fun t => { t with regs := Table.put 0 t.regs r v })
  else s.modCore cid (fun c => { c with regs := Table.put 0 c.regs (r - 32) v })

/-- A short-vector register (R247). -/
def State.vreg (s : State) (cid slot r : Nat) : SVec :=
  if r < 32 then Table.get 0 (s.thread cid slot).vregs r else Table.get 0 (s.core cid).yregs (r - 32)
def State.setVreg (s : State) (cid slot r : Nat) (v : SVec) : State :=
  if r < 32 then s.modThread cid slot (fun t => { t with vregs := Table.put 0 t.vregs r v })
  else s.modCore cid (fun c => { c with yregs := Table.put 0 c.yregs (r - 32) v })
def State.wreg (s : State) (cid r : Nat) : LVec := Table.get 0 (s.core cid).wregs r
def State.setWreg (s : State) (cid r : Nat) (v : LVec) : State :=
  s.modCore cid (fun c => { c with wregs := Table.put 0 c.wregs r v })

/-- The queue register `s24` + k, if configured (R296), and the stream register `s20` + k, if attached (R235). -/
def Core.queue? (c : Core) (k : Nat) : Option QReg := Table.find c.queues k
def Core.stream? (c : Core) (k : Nat) : Option SReg := Table.find c.streams k

/-- How a register behaves as a source now (R77): it pops, raises ILLEGAL_OPERAND, or is plain. -/
inductive SrcKind where
  | plain | illegal
  | popStream (k : Nat) | popQueue (k : Nat) | popComp
  deriving DecidableEq, Repr

def Core.srcKind (c : Core) (r : Nat) : SrcKind :=
  if 52 ≤ r ∧ r ≤ 55 then (if (c.stream? (r - 52)).isSome then .popStream (r - 52) else .plain)
  else if 56 ≤ r ∧ r ≤ 59 then (if (c.queue? (r - 56)).isSome then .popQueue (r - 56) else .plain)
  else if 60 ≤ r ∧ r ≤ 62 then .illegal
  else if r = 63 then .popComp
  else .plain

/-- How a register behaves as the destination of a non-memory write (R77). -/
inductive DstKind where
  | plain | illegal
  | pushQueue (k : Nat) | pushEng (q : Nat)
  deriving DecidableEq, Repr

def Core.dstKind (c : Core) (r : Nat) : DstKind :=
  if 52 ≤ r ∧ r ≤ 55 then (if (c.stream? (r - 52)).isSome then .illegal else .plain)
  else if 56 ≤ r ∧ r ≤ 59 then (if (c.queue? (r - 56)).isSome then .pushQueue (r - 56) else .plain)
  else if 60 ≤ r ∧ r ≤ 62 then .pushEng (r - 32)
  else if r = 63 then .illegal
  else .plain

/-- Whether a source pops. -/
def SrcKind.pops : SrcKind → Bool
  | .popStream _ => true
  | .popQueue _ => true
  | .popComp => true
  | .plain => false
  | .illegal => false

/-- The element a popping register would give now; none while it is empty (R23, R48, R77). -/
def Core.peek (c : Core) : SrcKind → Option Word
  | .popStream k => (c.stream? k).bind (fun q => q.buf.head?)
  | .popQueue k => (c.queue? k).bind (fun q => q.elems.head?)
  | .popComp => c.comp.head?
  | .plain => none
  | .illegal => none

/-- A register is pending while an outstanding load-type operation names it (R76), and where an image has set it so (R338). -/
def State.pending (s : State) (cid slot r : Nat) : Bool :=
  if r = 0 then false
  else
    let mine (c sl : Nat) : Bool := c = cid && (32 ≤ r || sl = slot)
    (r < 32 && (s.thread cid slot).pend / 2 ^ r % 2 = 1) ||
    s.reqs.any (fun q => mine q.cid q.slot && q.dst = some r) ||
    s.wbs.any (fun w => mine w.cid w.slot && (match w.act with
      | .load r' _ _ => r' = r
      | _ => false))

/-- A vector register is pending while a vector load names it (R247). In long mode `w` registers are the core's. -/
def State.vpending (s : State) (cid slot r : Nat) : Bool :=
  let long := (s.core cid).long
  let mine (c sl : Nat) : Bool := c = cid && (long || 32 ≤ r || sl = slot)
  (!long && r < 32 && (s.thread cid slot).pend / 2 ^ (32 + r) % 2 = 1) ||
  s.reqs.any (fun q => mine q.cid q.slot && q.vdst = some r && q.long = long) ||
  s.wbs.any (fun w => mine w.cid w.slot && (match w.act with
    | .vload r' _ long' _ => r' = r && long' = long
    | _ => false))

/-- A register as the bundle in progress reads it: the value popped for it, or the register before the bundle; for a
reissued control word the register as it stood before its bundle (R23, R24). -/
def State.srcN (s : State) (r : Nat) : Word :=
  match Table.find s.bun.vals r with
  | some v => v
  | none =>
    if s.bun.again then (Table.find s.bun.srcs r).getD (s.reg s.bun.cid s.bun.slot r) else s.reg s.bun.cid s.bun.slot r
def State.src (s : State) (r : Reg) : Word := s.srcN r.val

/-! ### Segments -/

def SegReg.zero : SegReg := ⟨0, 0⟩

/-- A segment register of a thread (R124). -/
def State.seg (s : State) (cid slot g : Nat) : SegReg := Table.get SegReg.zero (s.thread cid slot).segs g

/-- Rights of a segment, in the order r w x a s from bit 4 down (R124, R126), space code and limit. -/
def SegReg.rights (g : SegReg) : Nat := g.lr.toNat / 2 ^ 59
def SegReg.spaceCode (g : SegReg) : Nat := g.lr.toNat / 2 ^ 56 % 8
def SegReg.limit (g : SegReg) : Nat := g.lr.toNat % 2 ^ 52

def rightR : Nat := 16
def rightW : Nat := 8
def rightA : Nat := 2
def rightS : Nat := 1

/-- The cluster that a remote base names (R125); a cluster of package p ≠ `pkg` is 1,024 × (p + 1) higher. -/
def remoteCl (pkg base : Nat) : Nat :=
  base / 2 ^ 40 % 4 * 144 + base / 2 ^ 36 % 16 * 12 + base / 2 ^ 32 % 16 +
    (if base / 2 ^ 42 % 2 ^ 12 = pkg then 0 else 1024 * (base / 2 ^ 42 % 2 ^ 12 + 1))
def remotePkg (base : Nat) : Nat := base / 2 ^ 42 % 2 ^ 12

/-- The validity of a base-and-limit pair (R125, R127). -/
def SegReg.valid (g : SegReg) : Bool :=
  let base := g.base.toNat
  let lim := g.limit
  let wx : Bool := g.rights / 8 % 2 = 1 && g.rights / 4 % 2 = 1
  let rsv : Bool := g.lr.toNat / 2 ^ 52 % 16 = 0
  rsv && !wx &&
  match g.spaceCode with
  | 0 => base < 2 ^ 57 && base + lim ≤ 2 ^ 57
  | 1 => base < 2 ^ 23 && base + lim ≤ scratchBytes
  | 2 => base / 2 ^ 54 = 0 && base / 2 ^ 23 % 2 ^ 9 = 0 && base / 2 ^ 36 % 16 < 12 && base / 2 ^ 32 % 16 < 12 &&
      base % 2 ^ 23 + lim ≤ scratchBytes
  | 3 => base < 2 ^ 26 && base + lim ≤ stackBytes
  | _ => false

/-- The space of a segment for a thread of core cid: a remote segment that names the own cluster is scratch (R125). -/
def State.space (s : State) (cid : Nat) (g : SegReg) : Space :=
  match g.spaceCode with
  | 0 => .global
  | 1 => .scratch
  | 2 => if remotePkg g.base.toNat = s.host.pkgId && remoteCl s.host.pkgId g.base.toNat = clOf cid then .scratch else .remote
  | 3 => .stack
  | _ => .none

/-- Codes of the faults (R326). -/
def fIllegalOpcode : Nat := 0x01
def fIllegalBundle : Nat := 0x02
def fIllegalOperand : Nat := 0x03
def fReservedRm : Nat := 0x04
def fPrivilege : Nat := 0x05
def fFeatureAbsent : Nat := 0x06
def fPendingRead : Nat := 0x07
def fSegLimit : Nat := 0x08
def fSegRights : Nat := 0x09
def fMisaligned : Nat := 0x0A
def fMisalignedAtomic : Nat := 0x0B
def fPageDenied : Nat := 0x0C
def fFeRetry : Nat := 0x10
def fScopeRetry : Nat := 0x11
def fDetAtomic : Nat := 0x12
def fStageOverflow : Nat := 0x13
def fQueueFrozen : Nat := 0x14
def fLookaheadZero : Nat := 0x15
def fLookaheadViolation : Nat := 0x16
def fChannelClosed : Nat := 0x17
def fSparseMask : Nat := 0x18
def fEngine : Nat := 0x19
def fLinkDown : Nat := 0x1A
def fAllowanceEnd : Nat := 0x1B
def fSoftwareTrap : Nat := 0x1C
def fPoison : Nat := 0x1D
def fBundleAddress : Nat := 0x1E

/-- A fault whose rule states no detail: word 5 is open (R324). -/
def fltAt (code : Nat) (w2 : Word) : Flt := ⟨code, w2, 0, Config.openWord5 code⟩

/-- A fault with a value in word 5. -/
def flt5 (code : Nat) (w5 : Word) : Flt := ⟨code, 0, 0, w5⟩

/-- A refused register value (R98, R139): ILLEGAL_OPERAND with the value in word 5. -/
def refused (v : Word) : Flt := flt5 fIllegalOperand v

/-- ILLEGAL_OPERAND where no value is refused: the rule states no detail. -/
def notHere : Flt := fltAt fIllegalOperand 0

/-- A memory operand once checked: its space, the cluster of a scratch or remote address, and the address: VA, stack
window offset or scratch address. `ea` is what a record shows in word 2. -/
structure Ea where
  space : Space
  cl : Nat
  addr : Nat
  ea : Word
  deriving DecidableEq, Repr

/-- The segment part of word 5 (R126): the segment in [2:0], the rights demanded in [7:3]. -/
def segWord5 (seg rights : Nat) : Word := wrap64 (rights * 8 + seg)

/-- The checks (6.1) to (6.4) of R126, for a given offset. `modulus` is what (6.4) tests and `misCode` its fault. -/
def segCheck (s : State) (cid : Nat) (g : SegReg) (segNo : Nat) (spaces : List Space) (rights : Nat) (off : Word)
    (a modulus misCode : Nat) : Except Flt Ea :=
  let sp := s.space cid g
  let w5 := segWord5 segNo rights
  let remote : Bool := g.spaceCode = 2
  let lo := if remote then g.base.toNat % 2 ^ 23 else g.base.toNat
  let ea : Word := if remote then wrap64 (g.base.toNat / 2 ^ 23 * 2 ^ 23 + (lo + off.toNat) % 2 ^ 23) else g.base + off
  if !(spaces.contains sp) || Nat.land rights g.rights ≠ rights then .error ⟨fSegRights, ea, 0, w5⟩
  else if g.limit ≤ off.toNat || g.limit - off.toNat < a then .error ⟨fSegLimit, off, 0, w5⟩
  else if (lo + off.toNat) % modulus ≠ 0 then .error ⟨misCode, ea, 0, w5⟩
  else .ok ⟨sp, if remote then remoteCl s.host.pkgId g.base.toNat else clOf cid, lo + off.toNat, ea⟩

end Sys2Proof.Machine
end

