-- ==== Sys2Proof/Machine/Walk.lean ====
section
/-! DEFINITION. Address translation by a walk of a region's tables (R190 to R192), and reads through it. -/

namespace Sys2Proof.Machine

/-! ### Translation -/

/-- The levels of a walk from level n on: lowest VA bit and index width (R191). -/
def walkLevels : List (Nat × Nat × Nat) := [(0, 48, 9), (1, 39, 9), (2, 30, 9), (3, 21, 9), (4, 16, 5)]

/-- How a walk ends (R191, R192): a leaf with the number of VA bits its page covers, a missing entry at a level, or a
malformed entry. -/
inductive Walk where
  | leaf (e : Nat) (bits : Nat)
  | missing (level : Nat)
  | malformed
  deriving DecidableEq, Repr

/-- Fields of a page-table entry (R190). -/
def pteV (e : Nat) : Bool := e / 2 ^ 63 % 2 = 1
def pteLeaf (e : Nat) : Bool := e / 2 ^ 62 % 2 = 1
def pteW (e : Nat) : Bool := e / 2 ^ 61 % 2 = 1
def pteX (e : Nat) : Bool := e / 2 ^ 60 % 2 = 1
def pteRep (e : Nat) : Bool := e / 2 ^ 59 % 2 = 1
def pteNc (e : Nat) : Bool := e / 2 ^ 58 % 2 = 1
def ptePa (e : Nat) : Nat := e / 2 ^ 12 % 2 ^ 44 * 2 ^ 12

/-- A valid entry that breaks R191 at its level. -/
def pteMalformed (level bits e : Nat) : Bool :=
  e / 2 ^ 56 % 4 ≠ 0 || e % 2 ^ 12 ≠ 0 || (pteLeaf e && level < 2) || (!pteLeaf e && level = 4) ||
  (pteLeaf e && ptePa e % 2 ^ bits ≠ 0) || backing (ptePa e) = .nothing || (pteW e && pteX e) ||
  (pteLeaf e && !(List.range (if pteRep e then 4 else 1)).all (fun d => rangeBacked (ptePa e + d * 2 ^ bits) bits))

/-- The walk over the remaining levels. -/
def walkFrom (s : State) (va : Nat) : List (Nat × Nat × Nat) → Nat → Walk
  | [], _ => .malformed
  | (level, lo, w) :: rest, table =>
    let e := s.dw (s.fwd (table + 8 * (va / 2 ^ lo % 2 ^ w)))
    if !pteV e then .missing level
    else if pteMalformed level lo e then .malformed
    else if pteLeaf e then .leaf e lo
    else walkFrom s va rest (ptePa e)

/-- The PAs of the entries that a walk reads. -/
def walkReads (s : State) (va : Nat) : List (Nat × Nat × Nat) → Nat → List Nat
  | [], _ => []
  | (level, lo, w) :: rest, table =>
    let pa := s.fwd (table + 8 * (va / 2 ^ lo % 2 ^ w))
    let e := s.dw pa
    pa :: (if !pteV e || pteMalformed level lo e || pteLeaf e then [] else walkReads s va rest (ptePa e))

/-- The walk of a region's tables (R190). -/
def State.walk (s : State) (r : Region) (va : Nat) : Walk := walkFrom s va walkLevels (r.field 11)

/-- The PA of a VA under a leaf; on a replicated page, in the copy of a die (R190). -/
def leafPa (e bits die va : Nat) : Nat :=
  ptePa e + (if pteRep e then die * 2 ^ bits else 0) + va % 2 ^ bits

/-- What an access to a VA meets (R192): a PA, a missing page, or PAGE_DENIED with its detail. -/
inductive Trans where
  | pa (pa : Nat) (leaf : Nat) (bits : Nat)
  | missing
  | denied (detail : Nat)
  deriving DecidableEq, Repr

/-- Translation by a walk. -/
def State.translate (s : State) (r : Region) (die va : Nat) (needW needX : Bool) : Trans :=
  match s.walk r va with
  | .missing _ => .missing
  | .malformed => .denied 6
  | .leaf e bits =>
    if (needW && !pteW e) || (needX && !pteX e) then .denied 4 else .pa (leafPa e bits die va) e bits

/-- The translation-cache entry that covers a VA (R191). -/
def Cluster.tlbHit (c : Cluster) (rid va : Nat) : Option TlbEntry :=
  c.tlb.find? (fun e => e.rid = rid && e.va = va / 2 ^ e.bits)

/-- Installs or refreshes an entry: 512 entries, least recently used first (R191). -/
def Cluster.tlbUse (c : Cluster) (e : TlbEntry) : Cluster :=
  let t := c.tlb.filter (fun x => x ≠ e) ++ [e]
  { c with tlb := t.drop (t.length - 512) }

/-- Removes a region's stale translations of a page from every cluster (R191). -/
def State.tlbDrop (s : State) (rid va bits : Nat) : State :=
  { s with clusters := s.clusters.map (fun (k, c) =>
      (k, { c with tlb := c.tlb.filter (fun e => !(e.rid = rid && e.va * 2 ^ e.bits / 2 ^ bits = va / 2 ^ bits)) })) }

/-- `n` bytes at a VA read through a region's tables as one number; none where a page is missing or malformed. -/
def State.readVa (s : State) (r : Region) (die va : Nat) : Nat → Option Nat
  | 0 => some 0
  | n + 1 =>
    match s.translate r die va false false with
    | .pa pa _ _ => (s.readVa r die (va + 1) n).map (fun hi => (s.byte (s.fwd pa)).toNat + 256 * hi)
    | _ => none

/-- The same where no byte of them is poisoned (R341). -/
def State.cleanVa (s : State) (r : Region) (die va n : Nat) : Option Nat :=
  let bad (k : Nat) : Bool := match s.translate r die (va + k) false false with
    | .pa pa _ _ => s.poison.contains (s.fwd pa / 8)
    | _ => false
  if (List.range n).any bad then none else s.readVa r die va n

/-- A doubleword at an 8-aligned VA is poisoned. -/
def State.dwBad (s : State) (r : Region) (die va : Nat) : Bool :=
  match s.translate r die va false false with
  | .pa pa _ _ => s.poison.contains (s.fwd pa / 8)
  | _ => false

end Sys2Proof.Machine
end

