-- ==== Sys2Proof/Machine/Places.lean ====
section
/-! DEFINITION. Engine commands as words: the header of R47, places (R228) and the geometry of a copy (R230); the lines that an
engine owns (R222), and the writes of agents that are no core and no engine, which wait for such lines and for pinned ones. -/

namespace Sys2Proof.Machine

/-! ### Headers -/

/-- Word i of a command. -/
def Cmd.word (c : Cmd) (i : Nat) : Nat := (c.words.getD i 0).toNat

/-- Header fields (R47). -/
def hdrCode (w : Nat) : Nat := w / 2 ^ 56
def hdrFollow (w : Nat) : Bool := w / 2 ^ 55 % 2 = 1
def hdrSetFull (w : Nat) : Bool := w / 2 ^ 54 % 2 = 1
def hdrPoint (w : Nat) : Nat := w / 2 ^ 42 % 64
def hdrToken (w : Nat) : Nat := w % 2 ^ 32
/-- Reserved header bits, and points that R47 rejects. -/
def hdrBad (w : Nat) : Bool := w / 2 ^ 48 % 64 ≠ 0 || w / 2 ^ 32 % 2 ^ 10 ≠ 0 || (24 ≤ hdrPoint w && hdrPoint w ≤ 62)

def Cmd.code (c : Cmd) : Nat := hdrCode (c.word 0)
def Cmd.token (c : Cmd) : Nat := hdrToken (c.word 0)
def Cmd.setFull (c : Cmd) : Bool := hdrSetFull (c.word 0)
/-- The rendezvous point whose counter the command moves. -/
def Cmd.point (c : Cmd) : Option Nat := if hdrPoint (c.word 0) < 24 then some (hdrPoint (c.word 0)) else none
def Cmd.cl (c : Cmd) : Nat := clOf c.cid

/-! ### Places and geometry of a copy -/

/-- A place (R228). -/
structure Place where
  space : Nat
  fmt : Nat
  addr : Nat
  deriving DecidableEq, Repr

def placeOf (w : Nat) : Place := ⟨w / 2 ^ 62, w / 2 ^ 57 % 16, w % 2 ^ 57⟩

/-- Reserved bits of a place, with its space's (R228). -/
def placeBad (w : Nat) : Bool :=
  let p := placeOf w
  w / 2 ^ 61 % 2 = 1 ||
  (match p.space with
    | 0 => false
    | 1 => p.fmt ≠ 0 || p.addr / 2 ^ 23 ≠ 0
    | 2 => p.fmt ≠ 0 || p.addr / 2 ^ 45 ≠ 0
    | _ => p.addr / 2 ^ 26 ≠ 0)

/-- The cluster of a scratch or remote place, for a command of cluster cl; another package's is 1,024 × (pkg + 1)
higher. -/
def Place.cluster (p : Place) (pkg cl : Nat) : Nat :=
  if p.space = 2 then
    p.addr / 2 ^ 31 % 4 * 144 + p.addr / 2 ^ 27 % 16 * 12 + p.addr / 2 ^ 23 % 16 +
      (if p.addr / 2 ^ 33 % 2 ^ 12 = pkg then 0 else 1024 * (p.addr / 2 ^ 33 % 2 ^ 12 + 1))
  else cl
/-- The cluster fields of a remote place are in range (R3). -/
def Place.rangeOk (p : Place) : Bool := p.space ≠ 2 || (p.addr / 2 ^ 27 % 16 < 12 && p.addr / 2 ^ 23 % 16 < 12)
def Place.sa (p : Place) : Nat := p.addr % 2 ^ 23
def Place.scratchy (p : Place) : Bool := p.space = 1 || p.space = 2

/-- The element geometry of a copy (R230): rows, row length, strides in elements, and the index area with whether it
places the source (gather) or the destination. -/
structure Geom where
  rows : Nat
  len : Nat
  sStride : Nat
  dStride : Nat
  idx : Option (Bool × Nat)
  deriving DecidableEq, Repr

def Cmd.geom (c : Cmd) : Geom :=
  let w := c.word 3
  match c.code with
  | 2 => ⟨w / 2 ^ 52, w / 2 ^ 36 % 2 ^ 16, w / 2 ^ 18 % 2 ^ 18, w % 2 ^ 18, none⟩
  | 3 => ⟨w % 2 ^ 24, w / 2 ^ 25 % 2 ^ 16, w / 2 ^ 25 % 2 ^ 16, w / 2 ^ 25 % 2 ^ 16, some (true, w / 2 ^ 41)⟩
  | 4 => ⟨w % 2 ^ 24, w / 2 ^ 25 % 2 ^ 16, w / 2 ^ 25 % 2 ^ 16, w / 2 ^ 25 % 2 ^ 16, some (false, w / 2 ^ 41)⟩
  | _ => ⟨1, w % 2 ^ 32, 0, 0, none⟩

def Geom.total (g : Geom) : Nat := g.rows * g.len

/-- The first source and destination element of row r, from the indices read at the begin (R230). -/
def Geom.srcRow (g : Geom) (idx : List Nat) (r : Nat) : Nat :=
  match g.idx with
  | some (true, _) => idx.getD r 0 * g.len
  | _ => r * g.sStride
def Geom.dstRow (g : Geom) (idx : List Nat) (r : Nat) : Nat :=
  match g.idx with
  | some (false, _) => idx.getD r 0 * g.len
  | _ => r * g.dStride

/-- The first target of a broadcast: die, row, column, and whether it lies in the issuing package (R230). -/
def Cmd.corner (c : Cmd) (pkg : Nat) : Nat × Nat × Nat × Bool :=
  let d := placeOf (c.word 2)
  if d.space = 2 then (d.addr / 2 ^ 31 % 4, d.addr / 2 ^ 27 % 16, d.addr / 2 ^ 23 % 16, d.addr / 2 ^ 33 % 2 ^ 12 = pkg)
  else (c.cl / 144, c.cl % 144 / 12, c.cl % 12, true)

/-- Rows and columns of a broadcast (R230). -/
def Cmd.spanY (c : Cmd) : Nat := c.word 3 / 2 ^ 44 % 16
def Cmd.spanX (c : Cmd) : Nat := c.word 3 / 2 ^ 40 % 16

/-- The target clusters of a copy: one, or those of a broadcast's rectangle that lie in the package (R230). -/
def Cmd.targets (c : Cmd) (pkg : Nat) : List Nat :=
  if c.code = 5 then
    let (die, row, col, here) := c.corner pkg
    if here then
      (List.range (min c.spanY (12 - row))).flatMap (fun y => (List.range (min c.spanX (12 - col))).map (fun x =>
        144 * die + 12 * (row + y) + (col + x)))
    else []
  else [(placeOf (c.word 2)).cluster pkg c.cl]

/-- The sampled format of a bank of cluster cl (R122). -/
def Cmd.fmtAt (c : Cmd) (cl sa : Nat) : Word := Table.get 0 c.fmts (bankKey cl (bankOfSa sa))

/-- Format code of an end, and the rounding code of the destination (R228, R229). -/
def Cmd.endFmt (c : Cmd) (p : Place) (cl : Nat) : Nat := if p.scratchy then fmtCode (c.fmtAt cl p.sa) else p.fmt
def Cmd.endRm (c : Cmd) (p : Place) (cl : Nat) : Rm :=
  if p.scratchy then (match fmtRm (c.fmtAt cl p.sa) with
    | 1 => .rtz | 2 => .rdn | 3 => .rup | 4 => .rna | 5 => .sr | 6 => .rsat | _ => .rne) else .rne

/-- The bytes move unchanged (R229). -/
def byteCopy (fs fd : Nat) : Bool := (fs = fd && fs ≠ 4) || fs = 0 || fd = 0

/-- Element sizes of the two ends (R229): in a byte copy the source's at both. -/
def sizesOf (fs fd : Nat) : Nat × Nat :=
  if byteCopy fs fd then (elemBytes fs, elemBytes fs) else (elemBytes fs, elemBytes fd)

/-- Banks that a command samples, with their format registers: those its places and matrix addresses name. -/
def sampleFmts (s : State) (c : Cmd) : List (Nat × Word) :=
  let at' (cl sa : Nat) : List (Nat × Word) :=
    if sa < scratchBytes then [(bankKey cl (bankOfSa sa), (s.bank (bankKey cl (bankOfSa sa))).fmt)] else []
  let l :=
    if c.code ≤ 5 then
      let a := placeOf (c.word 1)
      let b := placeOf (c.word 2)
      (if a.scratchy then at' (a.cluster s.host.pkgId c.cl) a.sa else []) ++
      (if b.scratchy then (c.targets s.host.pkgId).flatMap (fun cl => at' cl b.sa) else [])
    else at' c.cl (c.word 2 % 2 ^ 23)
  l.foldl (fun t (k, v) => Table.set t k v) []

/-! ### Ownership of lines (R222) -/

/-- A PA lies in the image of the VA range [va, va + n), page by page. -/
def rangeHits (s : State) (r : Region) (die pa : Nat) : Nat → Nat → Nat → Bool
  | 0, _, _ => false
  | fuel + 1, va, n =>
    if n = 0 then false
    else
      let part := min n (65536 - va % 65536)
      (match s.translate r die va true false with
        | .pa p _ _ => decide (p / 128 ≤ pa / 128 ∧ pa / 128 ≤ (p + part - 1) / 128)
        | _ => false) || rangeHits s r die pa fuel (va + part) (n - part)

/-- The sizes of a copy's elements at its two ends. -/
def Cmd.sizes (c : Cmd) (pkg : Nat) : Nat × Nat :=
  let a := placeOf (c.word 1)
  let b := placeOf (c.word 2)
  sizesOf (c.endFmt a (a.cluster pkg c.cl)) (c.endFmt b (b.cluster pkg c.cl))

/-- Bytes [lo, lo + n) of the destination of the rows of a copy that are still to be written, from element `pos` on, with
elements of `wd` bytes. -/
def CopyRun.restRows (run : CopyRun) (wd pos : Nat) : List (Nat × Nat) :=
  let c := run.cmd
  let g := c.geom
  (List.range g.rows).filterMap (fun r =>
    let skip := min g.len (pos - r * g.len)
    if skip < g.len then some ((placeOf (c.word 2)).addr + (g.dstRow run.idx r + skip) * wd, (g.len - skip) * wd) else none)

/-- The copy has still to write the line of a PA. A line that a narrow release has pinned is its engine's only when the pin ends
(R220). -/
def CopyRun.owns (s : State) (run : CopyRun) (pa : Nat) : Bool :=
  let d := placeOf (run.cmd.word 2)
  !d.scratchy && run.waitPage.isNone && (s.pinOf (lineOf pa)).isNone &&
  match s.region? run.cmd.rid with
  | none => false
  | some r => (run.restRows (run.cmd.sizes s.host.pkgId).2 run.pos).any (fun (lo, n) =>
      if d.space = 0 then rangeHits s r (dieOf run.cmd.cid) pa (n / 65536 + 2) lo n
      else
        let b := stackBase s.host.pkgId run.cmd.cl + lo
        decide (b / 128 ≤ pa / 128 ∧ pa / 128 ≤ (b + n - 1) / 128))

/-- A line that an executing copy has still to write is owned by its engine (R222). -/
def State.engineOwns (s : State) (pa : Nat) : Bool :=
  s.clusters.any (fun (_, c) => c.copies.any (fun run => run.owns s pa))

/-! ### Writes of the part itself (R220, R222) -/

/-- A write at its home slice by an agent that is no core: the bits of `keep` stay, those of `v` are set. -/
def State.homePut (s : State) (pa n keep v : Nat) : State :=
  (s.rangeTaken pa n).paWrite pa n (if keep = 0 then v else Nat.lor (Nat.land (s.read pa n) keep) v)

/-- Some line of a write is pinned, or an engine owns it, or an earlier write waits for it. -/
def State.homeHeld (s : State) (pa n : Nat) : Bool :=
  (lineSpan pa n).any (fun l => (s.pinOf l).isSome || s.engineOwns (128 * l) ||
    s.homeQ.any (fun w => (lineSpan w.pa w.size).contains l))

/-- A write of the part itself: it waits for its lines behind pins, engines and earlier writes (log
entry 148). -/
def State.homeMerge (s : State) (pa n keep v : Nat) : State :=
  if s.homeHeld pa n then { s with homeQ := s.homeQ ++ [⟨pa, n, keep, v⟩] } else s.homePut pa n keep v

/-- The same for whole bytes. -/
def State.homeWrite (s : State) (pa n v : Nat) : State := s.homeMerge pa n 0 v

/-- Writes that wait are tried again, in their order. -/
def State.drainHome (s : State) : State :=
  s.homeQ.foldl (fun s w => s.homeMerge (s.fwd w.pa) w.size w.keep w.value) { s with homeQ := [] }

/-- Memory as the part itself sees it, the writes that wait included. -/
def State.homeView (s : State) : State :=
  s.homeQ.foldl (fun s w => s.write (s.fwd w.pa) w.size
    (if w.keep = 0 then w.value else Nat.lor (Nat.land (s.read (s.fwd w.pa) w.size) w.keep) w.value)) s

/-- A doubleword at an 8-aligned VA, as the part itself sees it. -/
def State.dwVa (s : State) (r : Region) (die va : Nat) : Option Nat :=
  match s.translate r die va false false with
  | .pa pa _ _ => some (s.homeView.dw (s.fwd pa))
  | _ => none

/-- A write at an 8-aligned VA of at most 8 bytes; none where the page cannot be written. -/
def State.writeVa (s : State) (r : Region) (die va n v : Nat) : Option State :=
  match s.translate r die va true false with
  | .pa pa _ _ => some (s.homeWrite (s.fwd pa) n v)
  | _ => none

end Sys2Proof.Machine
end

