-- ==== Sys2Proof/Machine/Ops.lean ====
section
/-! DEFINITION. The operations every meaning shares: fault records, mailboxes and
notices (R324 to R328), ending a thread and TAKING A FAULT (R96, R100, R102, R298), issuing a bundle (R20 to R25,
R46, R285), write-backs (R73) and the counters (R103, R104). -/

namespace Sys2Proof.Machine

/-! ### The region's status doubleword -/

/-- The status doubleword (R278). -/
def Region.status (r : Region) : Nat :=
  r.retired % 2 ^ 16 * 2 ^ 48 + r.overflow % 2 ^ 32 * 2 ^ 16 + r.mail.length * 2 ^ 4 + r.state

/-- Writes a region's status into its block (R278). -/
def State.syncStatus (s : State) (rid : Nat) : State :=
  match s.region? rid with
  | some r => s.homeWrite (s.fwd (r.blockPa + 136)) 8 r.status
  | none => s

/-! ### MSI-X, the notice ring and the event log -/

/-- Raises an MSI-X vector: sent, or pending while masked (R351). -/
def HostRegs.raise (h : HostRegs) (v : Nat) : HostRegs :=
  if h.masked.contains v then { h with pending := NatSet.add h.pending v }
  else { h with sent := Table.put 0 h.sent v (Table.get 0 h.sent v + 1), vec0Out := h.vec0Out || v = 0 }

/-- A notice written to the ring in host memory (R351). -/
def State.ringNotice (s : State) (w : Word) : State :=
  let h := s.host
  if (h.nqTail + 2 ^ 32 - h.nqHead.toNat % 2 ^ 32) % 2 ^ 32 = 512 then
    { s with host := { h with nqLost := h.nqLost + 1 } }
  else
    let s := s.homeWrite (2 ^ 55 + (h.nqBase.toNat / 4096 * 4096) % 2 ^ 55 + 8 * (h.nqTail % 512)) 8 w.toNat
    let h := { h with nqTail := (h.nqTail + 1) % 2 ^ 32 }
    { s with host := if h.vec0Out then h else h.raise 0 }

/-- An event log entry (R360): 8,192 entries, kept circularly. The numbers of sources and codes are the model's
(log entry 6). -/
def State.logEvent (s : State) (source code : Nat) (d2 d3 : Word) : State :=
  let a := s.alavis
  let l := a.log ++ [⟨a.logSeq, source, code, a.micros, d2, d3⟩]
  { s with alavis := { a with log := l.drop (l.length - 8192), logSeq := a.logSeq + 1 }, host := s.host.raise 1 }

/-! ### Fault records -/

/-- `now` as a thread reads it (R81, R136): a handler's timestamp, the tile task's time, 0 outside event regions. -/
def State.nowOf (s : State) (cid slot : Nat) : Nat :=
  match s.regionOf cid with
  | some r => if r.kind = .event then
      (if (s.thread cid slot).handler then (s.thread cid slot).now else (s.core cid).tileNow) else 0
  | none => 0

/-- Word 0 of a record (R324). -/
def recWord0 (code kind slot cid pkg : Nat) : Word :=
  wrap64 (code * 2 ^ 56 + kind * 2 ^ 52 + slot * 2 ^ 48 + coreOf cid % 16 * 2 ^ 44 + cluOf cid * 2 ^ 36 +
    dieOf cid * 2 ^ 34 + pkg * 2 ^ 22)

/-- A record's eight words (R324). -/
def mkRecord (code kind cid slot pkg rid team : Nat) (w1 w2 w4 w5 : Word) (icnt now : Nat) : List Word :=
  [recWord0 code kind slot cid pkg, w1, w2, wrap64 (rid % 2 ^ 16 + team % 2 ^ 32 * 2 ^ 16), w4, w5, wrap64 icnt,
   wrap64 now]

/-- The lowest free mailbox slot (R327). -/
def Region.freeMail (r : Region) : Option Nat := (List.range 16).find? (fun i => !r.mail.contains i)

/-- Writes the words of a record from a PA on. -/
def writeWords (s : State) (pa : Nat) : List Word → State
  | [] => s
  | w :: ws => writeWords (s.homeWrite pa 8 w.toNat) (pa + 8) ws

/-- Delivers a region notice (R328): to the host ring for a root; for a child to the `s31` queue of the launching
core, waiting while it is full, at most 16 waiting; dropped once that core has left the parent region. -/
def State.sendNotice (s : State) (rid : Nat) (w : Word) : State :=
  match s.region? rid with
  | none => s
  | some r =>
    if r.root then s.ringNotice w
    else match r.launcher with
      | none => s
      | some cid =>
        if (s.core cid).region ≠ some r.parentRid then s
        else if (s.core cid).comp.length < 64 && r.notices.isEmpty then
          s.modCore cid (fun c => { c with comp := c.comp ++ [w] })
        else if r.notices.length < 16 then s.modRegion rid (fun r => { r with notices := r.notices ++ [w] })
        else s

/-- The notice of a record (R328). -/
def recNotice (rid code kind : Nat) (slot : Option Nat) : Word :=
  wrap64 (2 * 2 ^ 62 + 3 * 2 ^ 60 + (if slot.isNone then 2 ^ 32 else 0) + rid % 2 ^ 16 * 2 ^ 16 + code * 2 ^ 8 +
    kind * 2 ^ 4 + slot.getD 0)

/-- Stores a record in its region's mailbox, or counts it as overflow (R327), then sends the notice of the kinds that
have one (R328). -/
def State.writeRecord (s : State) (rid kind : Nat) (words : List Word) : State :=
  match s.region? rid with
  | none => s
  | some r =>
    let code := (words.headD 0).toNat / 2 ^ 56
    let place : Option (Nat × Nat) := match r.freeMail with
      | none => none
      | some m => if r.field 24 = 0 then none else
          match s.translate r 0 (r.field 24 + 64 * m) true false with
          | .pa pa _ _ => some (m, s.fwd pa)
          | _ => none
    let s := match place with
      | some (m, pa) =>
        (writeWords s pa words).modRegion rid (fun r => { r with mail := NatSet.add r.mail m })
      | none => s.modRegion rid (fun r => { r with overflow := r.overflow + 1 })
    let s := s.syncStatus rid
    if kind = 1 then s else s.sendNotice rid (recNotice rid code kind (place.map (·.1)))

/-! ### Outstanding operations -/

/-- Removes the completed prefix of one class: a counter falls only when the oldest has completed (R104). -/
def settleOuts (c : Cls) : List Out → List Out
  | [] => []
  | o :: t => if o.cls ≠ c then o :: settleOuts c t else if o.done then settleOuts c t else o :: t

/-- A counter's value (R103, R104). -/
def Thread.count (t : Thread) (c : Cls) : Nat := (t.outs.filter (fun o => o.cls = c)).length

def Thread.addOut (t : Thread) (id : Nat) (c : Cls) : Thread := { t with outs := t.outs ++ [⟨id, c, false⟩] }

/-- An operation completes. -/
def Thread.doneOut (t : Thread) (id : Nat) : Thread :=
  let l := t.outs.map (fun o => if o.id = id then { o with done := true } else o)
  { t with outs := settleOuts .ld (settleOuts .st (settleOuts .cp (settleOuts .mx l))) }

/-- Load-type operations, whose results a thread's end cancels (R76), and requests it withdraws (R100). -/
def MemOp.cancels : MemOp → Bool
  | .load _ | .vload | .lds | .ldf | .sts | .feq | .fetch | .swait _ | .sseq _ | .frecrd _ _ | .accrd _ _ _
  | .tkfirst _ | .bankalloc _ | .engWord _ _ | .tickCmd _ _ | .areaCmd _ _ _ => true
  | .atomic _ ret _ _ => ret
  | .store | .vstore | .stf | .feset | .feclr | .rst _ | .mst | .pref | .cclean | .cinval | .launch _ | .pgfill _
  | .ctxsave _ | .sendMsg _ _ _ => false

/-- A returning atomic that has been sent still performs; its data is discarded (R76, R100). -/
def Req.survives (r : Req) : Bool :=
  !r.op.cancels || (match r.op with | .atomic _ _ _ _ => r.stage ≠ .walking | _ => false)

/-- Writes into the banks of its own cluster that an `RVARR` of the thread waits for (R112). -/
def MemOp.rendezvous : MemOp → Bool
  | .store | .vstore | .sts | .stf | .mst => true
  | .atomic _ ret _ _ => !ret
  | _ => false

/-- Writes that an access to a word of the thread's own home banks waits for (R130). -/
def MemOp.beforeSync : MemOp → Bool
  | .rst _ => true
  | op => op.rendezvous

/-- Stores that a thread has issued and that are not performed yet. -/
def State.unperformed (s : State) (cid slot : Nat) (p : Req → Bool) : Bool :=
  s.reqs.any (fun r => r.cid = cid && r.slot = slot && r.stage ≠ .served && p r)

def MemOp.writes : MemOp → Bool
  | .store | .vstore | .sts | .stf | .feset | .feclr | .rst _ | .mst | .atomic _ _ _ _ => true
  | .load _ | .vload | .lds | .ldf | .feq | .pref | .cclean | .cinval | .fetch | .launch _ | .pgfill _ | .swait _
  | .sseq _ | .frecrd _ _ | .accrd _ _ _ | .tkfirst _ | .bankalloc _ | .ctxsave _ | .engWord _ _ | .tickCmd _ _ | .areaCmd _ _ _
  | .sendMsg _ _ _ => false

def Stage.performed : Stage → Bool
  | .served => true
  | .writing => true
  | .bounced _ _ => true
  | .walking => false
  | .unsent => false
  | .sent => false
  | .parked => false
  | .refused _ => false
  | .held => false
  | .recall => false

/-! ### Pins -/

/-- Unpins the lines whose holders are all gone (R221): the release reaches its home slice. -/
def State.unpin (s : State) (cid : Nat) : State :=
  let c := s.core cid
  let gone := c.pins.filter (fun p => p.holders.isEmpty)
  gone.foldl (fun s p => s.stepSlice (s.sliceOf (p.line * 128)))
    (s.setCore cid { c with pins := c.pins.filter (fun p => !p.holders.isEmpty) })

/-- Drops the holders of ended threads whose earlier stores are performed (R221). -/
def State.settlePins (s : State) (cid : Nat) : State :=
  let c := s.core cid
  if c.pins.all (fun p => p.holders.all (fun h => h.1 < 16)) then s
  else
    let keep (h : Nat × Nat) : Bool :=
      h.1 < 16 || s.unperformed cid (h.1 - 16) (fun r => r.op.writes && r.id < h.2)
    (s.setCore cid { c with pins := c.pins.map (fun p => { p with holders := p.holders.filter keep }) }).unpin cid

/-- The holds of a thread on pins it took before number `upTo` end, as a release of scope `.sys` ends them (R217). -/
def State.widenTo (s : State) (cid slot upTo : Nat) : State :=
  (s.modCore cid (fun c => { c with pins := c.pins.map (fun p =>
    { p with holders := p.holders.filter (fun h => !(h.1 % 16 = slot && h.2 < upTo)) }) })).unpin cid

/-- The widening of a thread's end, at `.sys` (R100, R108, R221). -/
def State.widenDead (s : State) (cid slot : Nat) : State :=
  (s.modCore cid (fun c => { c with pins := c.pins.map (fun p =>
    { p with holders := p.holders.map (fun h => if h.1 = slot then (slot + 16, h.2) else h) }) })).settlePins cid

/-! ### Records as releases (R325) -/

/-- The writes that a thread issued before number `upTo` are performed; a waiting `STS` may yet be withdrawn, and holds
nothing back. -/
def State.recReady (s : State) (cid slot upTo : Nat) : Bool :=
  !s.reqs.any (fun r => r.cid = cid && r.slot = slot && r.id < upTo && r.op.writes && r.op ≠ .sts && !r.stage.performed)

/-- A thread's record is written, its narrower pins having been widened; one of kind 0 stops a region of fault domain 1
(R331). -/
def State.recordNow (s : State) (rid : Nat) (l : LateRec) : State :=
  let s := (s.widenTo l.cid l.slot l.upTo).writeRecord rid l.kind l.words
  s.modRegion rid (fun r => if l.kind = 0 && r.fdom then { r with stopDue := true } else r)

/-- A record of a thread that stops: written at once, or once its thread's writes are performed. -/
def State.postRecord (s : State) (rid cid slot kind : Nat) (words : List Word) : State :=
  match s.region? rid with
  | none => s
  | some r =>
    let l : LateRec := ⟨cid, slot, s.nextId, kind, words⟩
    if s.recReady cid slot l.upTo && !r.late.any (fun x => x.cid = cid && x.slot = slot) then s.recordNow rid l
    else s.setRegion rid { r with late := r.late ++ [l] }

/-- Waiting records that may be written now. -/
def State.flushLate (s : State) (rid : Nat) (ok : LateRec → Bool) : State :=
  match s.region? rid with
  | none => s
  | some r => (r.late.filter ok).foldl (fun s l => s.recordNow rid l)
      (s.setRegion rid { r with late := r.late.filter (fun l => !ok l) })

/-- A stopped thread whose record is not written yet: `TSTAT` does not show it as stopped (R96, R325). -/
def State.recPending (s : State) (cid slot : Nat) : Bool :=
  (s.thread cid slot).state = .stopped &&
  (match s.regionOf cid with | some r => r.late.any (fun l => l.cid = cid && l.slot = slot) | none => false)

/-! ### Pagers -/

/-- The registration that covers a VA (R193). -/
def Region.pagerFor (r : Region) (va : Nat) : Option Pager :=
  r.pagers.find? (fun p => p.base * 65536 ≤ va && va < (p.base + p.pages) * 65536)

/-- A thread of a region that is dropped on a VA range. -/
def State.droppedIn (s : State) (rid lo hi : Nat) : List (Nat × Nat) :=
  (s.threads.filter (fun (k, t) => t.state = .dropped && (s.core (k / 16)).region = some rid &&
    lo ≤ t.dropVa && t.dropVa < hi)).map (fun (k, _) => (k / 16, k % 16))

/-- Changes the dropped threads on a VA range among those saved of displaced teams. -/
def State.modSaved (s : State) (rid lo hi : Nat) (f : Thread → Thread) : State :=
  let one (e : Nat × Thread) : Nat × Thread := (e.1, if e.2.state = .dropped && lo ≤ e.2.dropVa && e.2.dropVa < hi then f e.2 else e.2)
  let core (c : SavedCore) : SavedCore := { c with threads := c.threads.map one }
  let team (e : Nat × Team) : Nat × Team := (e.1, { e.2 with saved := e.2.saved.map core })
  s.modRegion rid (fun r => { r with teams := r.teams.map team })

/-- A saved thread whose page is refused stops with this detail once its team is restored (R194, R195, R336). -/
def Thread.deny (detail : Nat) (t : Thread) : Thread := { t with dropBits := 2 ^ 8 + detail }

/-! ### Ending a thread and taking a fault -/

/-- Write-backs that touch only what belongs to the thread itself, or deliver a load: they end with it (R76, R80). -/
def WbAct.own : WbAct → Bool
  | .gpr r _ => r < 32
  | .load _ _ _ => true
  | .vload _ _ _ _ => true
  | .vreg r _ => r < 32
  | .epush _ _ => true
  | .wrsr sr _ => sr = 7
  | .exit => true
  | .trap _ => true
  | .segset _ _ _ => true
  | .histsample _ _ r => r < 32
  | .recv _ _ => true
  | .evdone => true
  | .sync _ => true
  | .tround => true
  | _ => false

/-- What a thread's end does to its work (R76, R100): load-type operations are cancelled, waiting requests withdrawn,
its partly written commands and held bundle discarded; stores go on. A withdrawal takes effect at
once (log entry 139). -/
def State.cancelWork (s : State) (cid slot : Nat) : State :=
  let mine (r : Req) : Bool := r.cid = cid && r.slot = slot
  let dead := (s.reqs.filter (fun r => mine r && !r.survives)).map (·.id)
  let keepWb (w : Wb) : Bool := !(w.cid = cid && w.slot = slot) || !w.act.own
  let orphan (r : Req) : Req :=
    if mine r then { r with dst := none, vdst := none, cls := none, dropped := true } else r
  let unpark (e : Nat × Bank) : Nat × Bank :=
    (e.1, { e.2 with park := e.2.park.filter (fun id => !dead.contains id) })
  let s := { s with
    reqs := (s.reqs.filter (fun r => !(mine r && !r.survives))).map orphan,
    banks := s.banks.map unpark,
    wbs := s.wbs.filter keepWb }
  s.widenDead cid slot

/-- The state a slot is left in: what a new thread will find there is set when it starts (R80). -/
def emptied : Thread := Thread.fresh

/-- A slot that ends as exited or stopped keeps what `TSTAT` shows (R101); a stopped one keeps its partly written commands
and what it has outstanding until it is reaped (R47, R76). -/
def Thread.resting (t : Thread) (st : TState) (code : Nat) : Thread :=
  let f := { Thread.fresh with state := st, code := code, icnt := t.icnt, lastBundle := t.lastBundle }
  if st = .stopped then { f with cart := t.cart, matx := t.matx, outs := t.outs } else f

/-- A tile that becomes idle, with its tile task finished, no arrival queued and no handler running, triggers a floor
sweep (R158). -/
def State.checkIdle (s : State) (cid : Nat) : State :=
  match s.regionOf cid with
  | some r =>
    let c := s.core cid
    let idle := c.tileDone && c.inEnds.all (fun (_, e) => e.queue.isEmpty && e.starts.isEmpty) &&
      !(List.range 16).any (fun k => (s.thread cid k).state ≠ .empty)
    if r.kind = .event && idle then s.modRegion r.id (fun r => { r with sweepDue := true }) else s
  | none => s

/-- The tile task of a core is finished when slot 0 and every slot its foreman started are empty (R102). -/
def State.checkTileDone (s : State) (cid : Nat) : State :=
  let busy := (List.range 16).any (fun k => (s.thread cid k).state ≠ .empty && !(s.thread cid k).handler)
  if (s.core cid).foremanGone && !busy && (s.core cid).region.isSome then
    (s.modCore cid (fun c => { c with tileDone := true, attached := false })).checkIdle cid
  else s

/-- The automatic reaping of R102 after the foreman has ended: what a stopped thread has outstanding is cancelled with it
(R76). -/
def State.autoReap (s : State) (cid : Nat) : State :=
  let s := (List.range 16).foldl (fun s k =>
    let t := s.thread cid k
    if (t.state = .exited || t.state = .stopped) && !t.handler then (s.cancelWork cid k).setThread cid k emptied else s) s
  s.checkTileDone cid

/-- Uncounted arrivals of an ended thread still count (R111), but leave no tag in the slot: 16 is added to it. -/
def State.orphanArrivals (s : State) (cid slot : Nat) : State :=
  { s with arrivals := s.arrivals.map (fun a => if a.cid = cid && a.slot = slot then { a with slot := slot + 16 } else a) }

/-- A slot's thread ends (R96, R102): a handler's slot empties, slot 0 ends the foreman, any other thread rests in its
end state until it is reaped. -/
def State.endSlot (s : State) (cid slot : Nat) (st : TState) (code : Nat) : State :=
  let t := s.thread cid slot
  let s := (s.modCore cid (fun c => { c with vmodeWait := c.vmodeWait.filter (fun w => w.1 ≠ slot) })).orphanArrivals cid slot
  if t.handler then (s.setThread cid slot emptied).checkTileDone cid
  else
    let s := s.setThread cid slot (t.resting st code)
    if slot = 0 then (s.modCore cid (fun c => { c with foremanGone := true, tstartWait := none })).autoReap cid
    else if (s.core cid).foremanGone then s.autoReap cid
    else s

/-- A deque of a region that is named by its core freezes, or thaws: one that a released core left too (R287, R298, R330). -/
def State.setDequeFrozen (s : State) (rid cid : Nat) (frozen : Bool) : State :=
  if (s.core cid).region = some rid then s.modCore cid (fun c => { c with dequeFrozen := frozen })
  else s.modRegion rid (fun r => { r with left := r.left.map (fun e =>
    (e.1, if e.1 = cid then { e.2 with dequeFrozen := frozen } else e.2)) })

/-- Freezes a stopped thread's supplier and sends its notice (R298); `obs` is the `icnt` the faulting bundle observed. -/
def State.freezeSupplier (s : State) (rid cid slot : Nat) (bundle : Word) (obs : Nat) : State :=
  let t := s.thread cid slot
  let team := (s.core cid).team
  let note (s : State) (entry w5 : Word) : State :=
    s.postRecord rid cid slot 2 (mkRecord fQueueFrozen 2 cid slot s.host.pkgId rid team bundle 0 entry w5 obs
      (s.nowOf cid slot))
  match t.supplier with
  | .none => s
  | .queue k v =>
    let s := s.modCore cid (fun c => { c with queues := c.queues.map (fun (j, q) =>
      (j, if j = k then { q with frozen := true } else q)) })
    note s v (wrap64 (512 + k))
  | .deque c pc => note (s.setDequeFrozen rid c true) pc (wrap64 (512 + 256 + coreOf c))

/-- Ends the registrations of a pager thread (R194). -/
def State.endPager (s : State) (rid cid slot : Nat) : State × List Pager :=
  match s.region? rid with
  | none => (s, [])
  | some r =>
    let mine := r.pagers.filter (fun p => p.cid = cid && p.slot = slot)
    let gone (u : Upcall) : Bool := mine.any (fun p => p.base ≤ u.page && u.page < p.base + p.pages)
    (s.setRegion rid { r with pagers := r.pagers.filter (fun p => !(p.cid = cid && p.slot = slot)),
                              upcalls := r.upcalls.filter (fun u => !gone u) }, mine)

/-- TAKING A FAULT (R96, R298, R324 to R328): the record of kind 0 goes to the region's mailbox with its notice, once the
thread's writes are performed, the
thread stops (a handler's slot empties, the foreman's stop is R102's), its supplier freezes, its registrations as a
pager end (threads dropped on its pages stop in turn, R194: `fuel` bounds that chain, and a region has at most 8
registrations), and with fault domain 1 the region is to be stopped (R331). A fault of a tinker's own thread goes to
the event log and restarts it (R337). `obs` is the `icnt` that the faulting bundle observed. -/
def stopThreadN : Nat → State → Nat → Nat → Flt → Word → Nat → State
  | 0, s, _, _, _, _, _ => s
  | fuel + 1, s, cid, slot, f, bundle, obs =>
    if isSup cid then
      let s := s.logEvent 1 f.code f.w2 f.w5
      (s.setThread cid slot Thread.fresh).modCluster (clOf cid) (fun c => { c with serving := false })
    else match (s.core cid).region with
    | none => s.endSlot cid slot .stopped f.code
    | some rid =>
      let t := s.thread cid slot
      let team := (s.core cid).team
      let s := s.postRecord rid cid slot 0 (mkRecord f.code 0 cid slot s.host.pkgId rid team bundle f.w2 f.w4 f.w5 obs
        (s.nowOf cid slot))
      let s := s.freezeSupplier rid cid slot bundle obs
      let s := if t.handler then s.cancelWork cid slot else s
      let (s, mine) := s.endPager rid cid slot
      let s := s.endSlot cid slot .stopped f.code
      mine.foldl (fun s p =>
        let s := s.modSaved rid (p.base * 65536) ((p.base + p.pages) * 65536) (Thread.deny 5)
        (s.droppedIn rid (p.base * 65536) ((p.base + p.pages) * 65536)).foldl (fun s (c, k) =>
          let t := s.thread c k
          stopThreadN fuel s c k ⟨fPageDenied, wrap64 t.dropVa, 0, 5⟩ ((t.reissue.map (·.addr)).getD t.pc)
            ((t.reissue.map (·.icnt)).getD t.icnt)) s) s

def stopAs (s : State) (cid slot : Nat) (f : Flt) (bundle : Word) (obs : Nat) : State := stopThreadN 10 s cid slot f bundle obs
/-- The `icnt` that the thread's bundle observes: a reissued control word that of its bundle's first issue (R25). -/
def Thread.obs (t : Thread) : Nat := (t.reissue.map (·.icnt)).getD t.icnt
def stopThread (s : State) (cid slot : Nat) (f : Flt) (bundle : Word) : State :=
  stopAs s cid slot f bundle (s.thread cid slot).obs
/-- A dropped thread stops: at the bundle that dropped it. -/
def stopDropped (s : State) (cid slot : Nat) (f : Flt) : State :=
  let t := s.thread cid slot
  stopAs s cid slot f ((t.reissue.map (·.addr)).getD t.pc) ((t.reissue.map (·.icnt)).getD t.icnt)

/-- A thread ends by `EXIT`, `TREAP`, a region's stop or the end of its task (R100, R102, R108): its work is
cancelled as R100 says, its pager registrations end (R194), and its slot is left as `st`. -/
def endThread (s : State) (cid slot : Nat) (st : TState) : State :=
  let t := s.thread cid slot
  let rid := (s.core cid).region
  let s := s.cancelWork cid slot
  let (s, mine) := match rid with
    | some rid => s.endPager rid cid slot
    | none => (s, [])
  let s := if st = .empty then
             (((s.modCore cid (fun c => { c with vmodeWait := c.vmodeWait.filter (fun w => w.1 ≠ slot) })).orphanArrivals cid
               slot).setThread cid slot emptied).checkTileDone cid
           else if t.handler then (s.setThread cid slot emptied).checkTileDone cid
           else s.endSlot cid slot st 0
  mine.foldl (fun s p =>
    let s := s.modSaved (rid.getD 0) (p.base * 65536) ((p.base + p.pages) * 65536) (Thread.deny 5)
    (s.droppedIn (rid.getD 0) (p.base * 65536) ((p.base + p.pages) * 65536)).foldl (fun s (c, k) =>
      stopDropped s c k ⟨fPageDenied, wrap64 (s.thread c k).dropVa, 0, 5⟩) s) s

/-! ### Write-backs -/

/-- Registers an act for the write-back cycle of the bundle in progress (R73). -/
def State.wb (s : State) (act : WbAct) (delay : Nat := 4) : State :=
  let t := s.thread s.bun.cid s.bun.slot
  { s with
    nextId := s.nextId + 1
    wbs := s.wbs ++ [⟨s.cyc + delay, s.bun.cid, s.bun.slot, s.nextId, s.bun.addr, t.icnt, act⟩] }

/-- The destination of a non-memory write (R77, R78, R91): a register, or a push. -/
def State.writeD (s : State) (r : Nat) (v : Word) : State :=
  match (s.core s.bun.cid).dstKind r with
  | .pushQueue k => s.wb (.qpush k v)
  | .pushEng q => s.wb (.epush q v)
  | .plain => if r = 0 then s else s.wb (.gpr r v)
  | .illegal => s

/-- A vector destination in the core's mode (R247). -/
def State.writeV (s : State) (r : Nat) (v : Nat) : State :=
  if (s.core s.bun.cid).long then s.wb (.wreg r (BitVec.ofNat 4096 v)) else s.wb (.vreg r (BitVec.ofNat 256 v))

/-- A vector register in the core's mode, as a number. -/
def State.vval (s : State) (cid slot r : Nat) : Nat :=
  if (s.core cid).long then (s.wreg cid r).toNat else (s.vreg cid slot r).toNat

/-- A vector source of the bundle in progress: for a reissued control word the register as it stood before its bundle (R23,
R24). -/
def State.vsrc (s : State) (r : Nat) : Nat :=
  if s.bun.again then (Table.find s.bun.vsrcs r).getD (s.vval s.bun.cid s.bun.slot r) else s.vval s.bun.cid s.bun.slot r

/-- The bundle in progress is, or was before its reissue, one word alone: none of R23's rules for a pair holds for it. -/
def Bun.loneWord (b : Bun) : Bool := b.npc = b.addr + 4

/-- The sources of the control word of a pair in progress, kept for its reissue (R23, R24); a word that issued alone reads its
registers anew, but for what it popped (R79, R192). -/
def State.keptSrcs (s : State) : List (Nat × Word) :=
  match if s.bun.loneWord then none else s.bun.ctl with
  | some i => (i.shape.gs.map (·.val) ++ i.shape.plain).map (fun r => (r, s.srcN r))
  | none => []
def State.keptVsrcs (s : State) : List (Nat × Nat) :=
  match if s.bun.loneWord then none else s.bun.ctl with
  | some i => i.shape.vs.map (fun r => (r.val, s.vsrc r.val))
  | none => []

/-- What the reissue of the control word of the bundle in progress needs (R24, R25, R79); `obs` is the `icnt` it observes. -/
def State.reissueOf (s : State) (obs : Nat) : Reissue :=
  ⟨s.bun.addr, s.bun.npc, s.bun.vals, obs, s.keptSrcs, s.keptVsrcs⟩

/-- Pushes on their way into a queue register, and its free space once the bundle's own pops of it are served (R78, R297). -/
def State.queueRoom (s : State) (cid k : Nat) (pops : Nat := 0) : Bool :=
  match (s.core cid).queue? k with
  | none => true
  | some q =>
    let coming := (s.wbs.filter (fun w => w.cid = cid && (match w.act with
      | .qpush j _ => j = k
      | .histsample _ _ r => r = 56 + k
      | .tgrow r => r = 56 + k
      | .trank r _ => r = 56 + k
      | _ => false))).length
    q.elems.length + coming < q.depth + pops

/-! ### Engine words at issue -/

/-- Words of the command that a word starts or continues in `s28` (R47): 7 with follow_on, else 4, whatever
its code (log entry 125). -/
def cartLen (ws : List Word) : Nat := if (ws.headD 0).toNat / 2 ^ 55 % 2 = 1 then 7 else 4

/-- Whether a push of `v` completes a command, and which counters it raises (R47, R103, R232). -/
def Thread.completes (t : Thread) (q : Nat) (v : Word) : Bool × List Cls :=
  if q = 28 then
    let ws := t.cart ++ [v]
    if ws.length = cartLen ws then (true, if cartLen ws = 7 then [.cp, .mx] else [.cp]) else (false, [])
  else if q = 29 then
    if t.matx.length = 2 then (true, [.mx]) else (false, [])
  else (true, [.mx])

/-- Engine words of a thread that wait behind an acquire in its port (R217), oldest first. -/
def State.heldWords (s : State) (cid slot q : Nat) : List Word :=
  s.reqs.filterMap (fun r => match r.op with
    | .engWord k v => if r.cid = cid && r.slot = slot && k = q then some v else none
    | _ => none)

/-- A thread's partly written commands once a word has reached its queue, with the number of commands completed. -/
def takeWord (q : Nat) (st : Thread × Nat) (v : Word) : Thread × Nat :=
  let t := st.1
  if (t.completes q v).1 then ({ t with cart := if q = 28 then [] else t.cart, matx := if q = 29 then [] else t.matx }, st.2 + 1)
  else ({ t with cart := if q = 28 then t.cart ++ [v] else t.cart, matx := if q = 29 then t.matx ++ [v] else t.matx }, st.2)

/-- A thread as it will be once its held words are written, and the commands they complete. -/
def State.afterHeld (s : State) (cid slot q : Nat) : Thread × Nat :=
  (s.heldWords cid slot q).foldl (takeWord q) (s.thread cid slot, 0)

/-- Whether a push of `v` by a thread will complete a command, and the counters it raises. -/
def State.completes (s : State) (cid slot q : Nat) (v : Word) : Bool × List Cls := (s.afterHeld cid slot q).1.completes q v

/-- Commands on their way into a cluster's engine queue. -/
def State.engComing (s : State) (cl q : Nat) : Nat :=
  (s.wbs.filter (fun w => clOf w.cid = cl && (match w.act with
    | .epush k v => k = q && (s.completes w.cid w.slot q v).1
    | .histsample _ _ r => r = 32 + q && (s.completes w.cid w.slot q 0).1
    | .tgrow r => r = 32 + q && (s.completes w.cid w.slot q 0).1
    | .trank r _ => r = 32 + q && (s.completes w.cid w.slot q 0).1
    | .tick _ _ => q = 30
    | .mxarea _ _ _ => q = 29
    | _ => false))).length +
    ((s.threads.filter (fun e => clOf (e.1 / 16) = cl)).map (fun e => (s.afterHeld (e.1 / 16) (e.1 % 16) q).2)).foldl (· + ·) 0 +
    (s.reqs.filter (fun r => clOf r.cid = cl && (match r.op with
      | .tickCmd _ _ => q = 30
      | .areaCmd _ _ _ => q = 29
      | _ => false))).length

/-- Room for `need` more commands in a cluster's engine queue, commands on their way counted; follow-on commands that are
ready and commands of restored teams take the first free entries (R226, R232, R265, R336). -/
def State.engRoom (s : State) (cl q : Nat) (need : Nat := 1) : Bool :=
  let c := s.cluster cl
  if q = 28 then c.copyQ.length + c.copyBack.length + s.engComing cl q + need ≤ 32
  else if q = 29 then c.mxQ.length + c.ready.length + s.engComing cl q + need ≤ 16
  else c.tkQ.length + c.tkBack.length + s.engComing cl q + need ≤ 16

/-! ### Upcalls and drops (R192 to R194) -/

/-- A service request to a tinker (R337): 1 placement, 2 page fault, 3 upcall, 4 displacement, 5 restore, 6 round
barrier. -/
def State.service (s : State) (cl k : Nat) : State := s.modCluster cl (fun c => { c with services := c.services ++ [k] })

/-- The word of an upcall (R194). -/
def upcallWord (u : Upcall) : Word := wrap64 (2 ^ 63 + u.page % 2 ^ 41 * 2 ^ 16 + u.bits)

/-- A held upcall can be pushed: its pager's core is placed and its queue has room (R194). -/
def State.upcallReady (s : State) (rid page : Nat) : Bool :=
  match s.region? rid with
  | none => false
  | some r =>
    r.upcalls.any (fun u => u.page = page && !u.pushed) &&
    (match r.pagerFor (page * 65536) with
      | some p => decide ((s.core p.cid).region = some rid) && ((s.core p.cid).queue? p.q).isSome && s.queueRoom p.cid p.q
      | none => false)

/-- Pushes an upcall into its pager's queue. -/
def State.pushUpcall (s : State) (rid page : Nat) : State :=
  match s.region? rid with
  | none => s
  | some r =>
    match r.upcalls.find? (fun u => u.page = page && !u.pushed), r.pagerFor (page * 65536) with
    | some u, some p =>
      let s := (s.service (clOf p.cid) 3).setRegion rid { r with upcalls := r.upcalls.map (fun x => if x = u then { x with pushed := true } else x) }
      s.modCore p.cid (fun c => { c with queues := c.queues.map (fun e =>
        (e.1, if e.1 = p.q then { e.2 with elems := e.2.elems ++ [upcallWord u] } else e.2)) })
    | _, _ => s

/-- Numerical OR of an upcall's bits. -/
def orBits (a b : Nat) : Nat := Nat.lor a b

/-- A page fault in a registered range makes or joins an upcall (R193, R194). -/
def State.upcall (s : State) (rid page bits : Nat) : State :=
  match s.region? rid with
  | none => s
  | some r =>
    let r := if r.upcalls.any (fun u => u.page = page) then
        { r with upcalls := r.upcalls.map (fun u => if u.page = page && !u.pushed then { u with bits := orBits u.bits bits } else u) }
      else { r with upcalls := r.upcalls ++ [⟨page, bits, false⟩] }
    let s := s.setRegion rid r
    if s.upcallReady rid page then s.pushUpcall rid page else s

/-- PAGE_DENIED with its detail and VA (R192, R193). -/
def pageDenied (detail va : Nat) : Flt := ⟨fPageDenied, wrap64 va, 0, wrap64 detail⟩

/-- A thread is dropped on a page fault, and the tinker acts (R192, R193): an upcall where a registration covers the VA,
else the thread stops with PAGE_DENIED detail 0. -/
def State.dropThread (s : State) (rid cid slot va bits : Nat) (bundle : Word) (obs : Nat) : State :=
  let s := (s.service (clOf cid) 2).modThread cid slot (fun t =>
    { t with state := .dropped, dropVa := va, dropBits := bits, walking := false })
  match (s.region? rid).bind (fun r => r.pagerFor va) with
  | some _ => s.upcall rid (va / 65536) bits
  | none => stopAs s cid slot (pageDenied 0 va) bundle obs

/-! ### The result of an effect -/

/-- What an instruction's effect gives: a new state, a fault found in the pipeline, a park, or a page fault; with `read`, lines
that it has read although it faults or parks. -/
inductive Res where
  | ok (s : State)
  | fault (f : Flt)
  | park (reason : Nat) (note : ParkNote := .none)
  | drop (s : State) (va bits : Nat)
  | read (lines : List Nat) (r : Res)

/-- The bundle's state after an effect. -/
def State.after (s : State) : Res → State
  | .ok s' => s'
  | .fault f => { s with bun := { s.bun with out := .fault f } }
  | .park r n => { s with bun := { s.bun with out := .park r n } }
  | .drop s' va bits => { s' with bun := { s'.bun with out := .drop va bits } }
  | .read l r => let t := s.after r; { t with bun := { t.bun with seen := l } }

/-! ### Issue-time checks (R46) -/

/-- Special registers read and written (R81): unknown numbers, and those that only a supervisor writes. -/
def srKnown (n : Nat) : Bool := n < 0x0F
def srSup (n : Nat) : Bool := n = 0x07 || n = 0x09 || n = 0x0D

/-- Step 5: the feature of an instruction is accepted (R41); a write to `s30` needs feature 2. -/
def featOk (s : State) (i : Instr) : Bool :=
  let acc (k : Nat) : Bool := s.host.featAccept.toNat / 2 ^ k % 2 = 1
  (match i.shape.feat with | some k => acc k | none => true) && (i.shape.gd ≠ some 62 || acc 2)

/-- Step 6: mode and slot (R42, R82, R98). -/
def privOk (s : State) (i : Instr) : Bool :=
  let sup := isSup s.bun.cid
  (!i.shape.sup || sup) && (!i.shape.foreman || s.bun.slot = 0) &&
  (match i with | .wrsr _ sr => !srSup sr.val || sup | _ => true)

/-- Step 7: register fields and `arg` objects (R28, R33, R45, R77, R90 and the instructions' descriptions). -/
def operandOk (s : State) (i : Instr) : Bool :=
  let c := s.core s.bun.cid
  let sh := i.shape
  let vecOk (r : Reg) : Bool := !c.long || r.val < 16
  let plainReg (r : Nat) : Bool := c.srcKind r = .plain && c.dstKind r = .plain
  sh.vs.all vecOk && (match sh.vd with | some r => vecOk r | none => true) &&
  sh.gs.all (fun r => c.srcKind r.val ≠ .illegal) && sh.third.all (fun r => plainReg r.val) &&
  (match sh.gd with
    | some r => if sh.late then plainReg r.val else c.dstKind r.val ≠ .illegal
    | none => true) &&
  (match i with
    | .rdsr _ sr => srKnown sr.val
    | .wrsr _ sr => srSup sr.val
    | .rvinit _ pt => pt.val < 24
    | .rvarr pt => pt.val < 24
    | .rvwait pt => pt.val < 24
    | .rvbytes _ pt => pt.val < 24
    | .acas _ _ _ d _ _ => d.val ≠ 31 && d.val ≠ 63 && c.srcKind (d.val + 1) = .plain
    | .segget d _ => d.val ≠ 31 && d.val ≠ 63 && !(52 ≤ d.val + 1)
    | .recv d => !(16 ≤ d.val && d.val ≤ 25)
    | .sseq _ _ st => st.val ≠ 0
    | _ => true)

/-- Step 8: pending sources (R76). -/
def pendingOk (s : State) (i : Instr) : Bool :=
  let sh := i.shape
  let p (r : Nat) : Bool := !s.pending s.bun.cid s.bun.slot r
  sh.gs.all (fun r => p r.val) && sh.third.all (fun r => p r.val) && sh.plain.all p &&
  sh.vs.all (fun r => !s.vpending s.bun.cid s.bun.slot r.val)

/-- The first instruction of a bundle that fails a check. -/
def firstBad (ok : Instr → Bool) (code : Nat) : List (Instr × Word) → Option Flt
  | [] => none
  | (i, w5) :: t => if ok i then firstBad ok code t else some (flt5 code w5)

/-- Steps 5 to 8 of R46 over the words of a bundle, control word first within each step. The reissued control word of a pair
has its sources and their pending bits from before the bundle (R23). -/
def issueFault (s : State) (ws : List (Instr × Word)) : Option Flt :=
  (firstBad (featOk s) fFeatureAbsent ws).orElse fun _ =>
  (firstBad (privOk s) fPrivilege ws).orElse fun _ =>
  (firstBad (operandOk s) fIllegalOperand ws).orElse fun _ =>
  if s.bun.again && !s.bun.loneWord then none else firstBad (pendingOk s) fPendingRead ws

/-- Registers a bundle writes (R23). -/
def writesTo (i : Instr) : List Nat :=
  let sh := i.shape
  ((sh.gd.toList.map (fun (r : Reg) => r.val)) ++ sh.extra ++ (sh.vd.toList.map (fun (r : Reg) => 64 + r.val))).filter
    (fun (r : Nat) => r ≠ 0)

/-- The popping registers a bundle's source fields name, one entry for each field (R23). -/
def popFields (s : State) (is : List Instr) : List Nat :=
  (is.flatMap (fun i => i.shape.gs.map (·.val))).filter (fun r => ((s.core s.bun.cid).srcKind r).pops)

/-- The pairing rules of R23 (step 2 of R46): no two writes of one register, no register popped twice. -/
def bundleOk (s : State) (is : List Instr) : Bool :=
  (popFields s is).Nodup &&
  (match is with
    | [i, j] => !((writesTo i).any (fun r => (writesTo j).contains r))
    | _ => true)

/-- Word 5 of an ILLEGAL_BUNDLE of R23 (R44, log entry 13): the arithmetic word where it alone breaks the rule, else the
first word. -/
def offending (s : State) (ws : List (Instr × Word)) : Word :=
  match ws with
  | [c, b] => if bundleOk s [c.1] && !bundleOk s [b.1] then b.2 else c.2
  | _ => (ws.head?.map (·.2)).getD 0

/-- Step 2 of R46 over the words of a bundle. -/
def pairingFault (s : State) (ws : List (Instr × Word)) : Option Flt :=
  if bundleOk s (ws.map (·.1)) then none else some (flt5 fIllegalBundle (offending s ws))

/-! ### Park conditions -/

/-- The classes a bundle adds operations to (R104), engine commands included. -/
def addsTo (s : State) (i : Instr) : List Cls :=
  i.shape.cls.toList ++
  (match i.shape.gd with
    | some r => match (s.core s.bun.cid).dstKind r.val with
      | .pushEng q => (s.completes s.bun.cid s.bun.slot q 0).2
      | _ => []
    | none => [])

/-- The engine queue whose entry an instruction itself takes (R244, R268). -/
def ownEntry : Instr → Option Nat
  | .mxsave _ | .mxload _ => some 29
  | .tkwin _ | .tkload _ _ | .tklaunch _ | .tklaunchAnd _ | .tkcapt _ | .tkreset => some 30
  | _ => none

/-- A word pushes the last word of a command into an engine queue. -/
def completesIn (s : State) (q : Nat) (i : Instr) : Bool :=
  match i.shape.gd with
  | some r => !i.shape.late && (s.core s.bun.cid).dstKind r.val = .pushEng q && (s.completes s.bun.cid s.bun.slot q 0).1
  | none => false

/-- A push of the bundle finds no room: in a queue register after the bundle's own pops (R297), or in an engine queue, where
an entry that the bundle takes besides counts too (R226, R265, R271). -/
def pushBlocked (s : State) (is : List Instr) : Bool :=
  let cid := s.bun.cid
  let c := s.core cid
  is.any (fun i => match i.shape.gd with
    | some r => !i.shape.late && (match c.dstKind r.val with
      | .pushQueue k => !s.queueRoom cid k ((popFields s is).filter (fun f => c.srcKind f = .popQueue k)).length
      | _ => false)
    | none => false) ||
  [28, 29, 30].any (fun q =>
    let pushes := (is.filter (completesIn s q)).length
    pushes ≠ 0 && !s.engRoom (clOf cid) q (pushes + (is.filter (fun i => ownEntry i = some q)).length))

/-- A counter class that the bundle would bring past 63 (R104). -/
def classFull (s : State) (is : List Instr) : Bool :=
  let t := s.thread s.bun.cid s.bun.slot
  [Cls.ld, .st, .cp, .mx].any (fun k =>
    let n := ((is.flatMap (addsTo s)).filter (· = k)).length
    n ≠ 0 && 63 < t.count k + n)

/-- A `VMODE` of the core is parked, or its switch is not complete (R250). -/
def Core.modeSwitching (c : Core) : Bool := !c.vmodeWait.isEmpty || c.vmodeBusy.isSome

/-- The conditions every bundle parks on (R23, R78, R104), as far as they hold: an empty register it pops (1), a full queue
it pushes (2), a full counter class (8); `VMODE`'s vector rule (6, R250), which alone a reissued control word meets again. -/
def parkReasons (s : State) (is : List Instr) : List Nat :=
  let c := s.core s.bun.cid
  (if s.bun.again then [] else
  (if (popFields s is).any (fun r => (c.peek (c.srcKind r)).isNone) then [1] else []) ++
  (if pushBlocked s is then [2] else []) ++ (if classFull s is then [8] else [])) ++
  (if c.modeSwitching && is.any (fun i => i.shape.vmem) then [6] else [])

/-- The reason a bundle parks with: the first that holds. -/
def parkReason (s : State) (is : List Instr) : Option Nat := (parkReasons s is).head?

/-- A value to be popped from a frozen queue: QUEUE_FROZEN (R298). -/
def Core.frozenAmong (c : Core) (vals : List (Nat × Word)) : Option Flt :=
  (vals.find? (fun e => match c.srcKind e.1 with
    | .popQueue k => match c.queue? k with | some q => q.frozen | none => false
    | _ => false)).map (fun e => ⟨fQueueFrozen, 0, e.2, wrap64 (e.1 - 56)⟩)

/-- The values a bundle pops, as they stand (R23, R79). -/
def peekVals (s : State) (is : List Instr) : List (Nat × Word) :=
  let c := s.core s.bun.cid
  (popFields s is).filterMap (fun r => (c.peek (c.srcKind r)).map (fun v => (r, v)))

/-- A pop from a frozen queue (R298). -/
def frozenPop (s : State) (is : List Instr) : Option Flt := (s.core s.bun.cid).frozenAmong (peekVals s is)

/-! ### Commit -/

/-- Removes the head element of a popping register (R79). -/
def Core.pop (c : Core) (r : Nat) : Core :=
  match c.srcKind r with
  | .popQueue k => { c with queues := c.queues.map (fun (j, q) => (j, if j = k then { q with elems := q.elems.tail } else q)) }
  | .popComp => { c with comp := c.comp.tail }
  | .popStream k =>
    let l := c.streams.map (fun (j, q) => (j, if j = k then { q with buf := q.buf.tail } else q))
    { c with streams := l.filter (fun (_, q) => !(q.ended && q.buf.isEmpty)) }
  | .plain => c
  | .illegal => c

/-- The supplier after a pop of a queue with its freeze bit set (R298). -/
def Core.supplierOf (c : Core) (r : Nat) (v : Word) (old : Supplier) : Supplier :=
  match c.srcKind r with
  | .popQueue k => match c.queue? k with
    | some q => if q.freeze then .queue k v else old
    | none => old
  | _ => old

/-- The pops of a bundle take effect (R79). -/
def commitPops (s : State) (cid slot : Nat) (vals : List (Nat × Word)) : State :=
  vals.foldl (fun s (r, v) =>
    let c := s.core cid
    (s.modThread cid slot (fun t => { t with supplier := c.supplierOf r v t.supplier })).setCore cid (c.pop r)) s

/-- Words counted by a region (R286); the first bundle that brings the total to region_allow is remembered. -/
def Region.addWords (r : Region) (n cid slot : Nat) : Region :=
  let total := r.total + n
  { r with total := total
           totalHit := if r.field 17 ≠ 2 ^ 64 - 1 && r.totalHit.isNone && r.field 17 ≤ total then some (cid, slot)
                       else r.totalHit }

/-- A bundle's count, pops, new pc and next turn (R25, R79, R93, R285). A reissue after a page fault counts and pops
nothing (R24, R25). -/
def commit (s : State) : State :=
  let b := s.bun
  let s := if b.again then s else commitPops s b.cid b.slot b.vals
  let s := s.modThread b.cid b.slot (fun t =>
    { t with
      icnt := if b.again then t.icnt else t.icnt + b.words
      allow := if b.again || t.allow = Config.unlimited || isSup b.cid then t.allow else t.allow - wrap64 b.words
      pc := b.npc, lastBundle := b.addr, reissue := if t.walking then t.reissue else none
      notBefore := max t.notBefore (s.cyc + 8) })
  let s := match (s.core b.cid).region with
    | some rid => if b.again then s else s.modRegion rid (fun r => r.addWords b.words b.cid b.slot)
    | none => s
  { s with bun := Bun.none }

/-- The allowance test (R285). -/
def allowOk (s : State) : Bool :=
  let t := s.thread s.bun.cid s.bun.slot
  s.bun.again || isSup s.bun.cid || t.allow = Config.unlimited || s.bun.words ≤ t.allow.toNat

/-- The entrant of a core, if its region is a tournament before its last barrier (R304). -/
def State.entrantOf (s : State) (cid : Nat) : Option (Nat × Nat × Entrant) :=
  match s.regionOf cid with
  | some r => if r.kind = .tournament && r.round < r.field 29 then
      (Table.find r.entrants (s.core cid).entrant).map (fun e => (r.id, (s.core cid).entrant, e)) else none
  | none => none

/-- A thread parks with a reason, or at the round barrier (R97, R304). -/
def parkThread (s : State) (cid slot reason : Nat) : State :=
  s.modThread cid slot (fun t => { t with state := .parked, reason := reason, waitOn := [] })
/-- What a parking bundle leaves behind. -/
def noteWait (s : State) (cid slot : Nat) : ParkNote → State
  | .none => s
  | .rv pt ph => s.modThread cid slot (fun t => { t with rvWait := some (pt, ph) })
  | .wait cs => s.modThread cid slot (fun t => { t with waitOn := cs })
  | .tstart k => s.modCore cid (fun c => { c with tstartWait := some k })
  | .vmode =>
    if (s.core cid).vmodeWait.any (fun w => w.1 = slot) then s
    else { (s.modCore cid (fun c => { c with vmodeWait := c.vmodeWait ++ [(slot, s.nextId)] })) with nextId := s.nextId + 1 }
def parkBarrier (s : State) (cid slot : Nat) : State :=
  s.modThread cid slot (fun t => { t with state := .parked, reason := 3, barrier := true })

/-- A bundle that fails the allowance test (R285, R304). -/
def allowanceStop (s : State) (cid slot : Nat) (bundle : Word) : State :=
  match s.entrantOf cid with
  | some _ => parkBarrier s cid slot
  | none => stopThread s cid slot (fltAt fAllowanceEnd 0) bundle

/-- The control word of a committed bundle is to issue again alone (R24): after a page fault, or after a park that its pair's
arithmetic word does not share (R219). -/
def keepControl (s1 : State) (obs : Nat) : State :=
  (commit s1).modThread s1.bun.cid s1.bun.slot (fun t => { t with reissue := some (s1.reissueOf obs) })

/-- What a bundle that parks or faults has read for itself (R201) (log entry 149). -/
def State.seenBy (s : State) (b : Bun) : State := b.seen.foldl (fun s l => s.lineSeen l b.cid) s

/-- How a bundle that does not park ends once its allowance suffices. -/
def takesEffect (s0 s1 : State) : State :=
  let b := s1.bun
  match if b.again then none else (s0.core b.cid).frozenAmong b.vals with
  | some f => stopThread s0 b.cid b.slot f b.addr
  | none => match b.out with
    | .fault f => stopThread (s0.seenBy b) b.cid b.slot f b.addr
    | .drop va bits =>
      let obs := (s1.thread b.cid b.slot).obs
      (keepControl s1 obs).dropThread ((s1.core b.cid).region.getD 0) b.cid b.slot va bits b.addr obs
    | .ok => commit s1
    | .park _ _ => commit s1

/-- How a bundle ends, from the state before it and the state its words left (R24, R97, R285, R298): a park comes first, then
the allowance test, then a frozen queue. A bundle that parks or faults leaves nothing behind but what it has read (R201). -/
def finish (s0 s1 : State) : State :=
  let b := s1.bun
  let s0 := { s0 with bun := Bun.none }
  match b.out with
  | .park r n => noteWait (parkThread (s0.seenBy b) b.cid b.slot r) b.cid b.slot n
  | _ => if allowOk s1 then takesEffect s0 s1 else allowanceStop s0 b.cid b.slot b.addr

/-- The end of a pair whose control word parks alone: the arithmetic word takes effect at once, the bundle counts, and the
control word stands parked (R219). -/
def finishParked (s0 s1 : State) (r : Nat) : State :=
  let b := s1.bun
  let s0 := { s0 with bun := Bun.none }
  if !allowOk s1 then allowanceStop s0 b.cid b.slot b.addr
  else match (s0.core b.cid).frozenAmong b.vals with
    | some f => stopThread s0 b.cid b.slot f b.addr
    | none => parkThread (keepControl s1 (s1.thread b.cid b.slot).obs) b.cid b.slot r

/-- The state in which the words of a bundle take effect; a reissue uses the values its bundle popped. -/
def State.enter (s : State) (is : List Instr) : State :=
  { s with bun := { s.bun with active := true, ctl := is.head?
                               vals := if s.bun.again then s.bun.vals else peekVals s is, out := .ok, seen := [] } }

/-- What a bundle meets before any of its words takes effect: a fault of R46, or a park. -/
def gate (s : State) (ws : List (Instr × Word)) : Option BunOut :=
  match if s.bun.again then none else pairingFault s ws with
  | some f => some (.fault f)
  | none => match issueFault s ws with
    | some f => some (.fault f)
    | none => (parkReason s (ws.map (·.1))).map (fun r => .park r .none)

/-- Word 5 of an issue-time fault (R44): the word, and bit 32 for the arithmetic word. -/
def issueW5 (word : Nat) (arith : Bool) : Word := wrap64 (word % 2 ^ 32 + (if arith then 2 ^ 32 else 0))

/-- The end of a bundle that its gate stops: faults of R46 come before the allowance test. -/
def gateEnd (s : State) : BunOut → State
  | .park r _ => parkThread { s with bun := Bun.none } s.bun.cid s.bun.slot r
  | .fault f => stopThread { s with bun := Bun.none } s.bun.cid s.bun.slot f s.bun.addr
  | .ok => s
  | .drop _ _ => s

/-- THE MEANING OF AN INSTRUCTION WORD, from its effect. While a bundle is in progress the effect is applied in it;
otherwise the instruction issues as a lone bundle of the thread that `bun` names: checks of R46, park conditions,
effect, allowance, commit. -/
def run (i : Instr) (s : State) (eff : State → Res) : Host.Outcome State Fault Refusal :=
  if s.bun.active then .next (s.after (eff s))
  else match gate s [(i, issueW5 s.bun.word i.shape.arith)] with
    | some o => .next (gateEnd s o)
    | none =>
      let s1 := s.enter [i]
      .next (finish s (s1.after (eff s1)))

/-- The register values of a refused operand, an effect that needs a region, a core's region. -/
def State.rid (s : State) : Nat := ((s.core s.bun.cid).region).getD 0
def State.me (s : State) : Thread := s.thread s.bun.cid s.bun.slot
def State.modMe (s : State) (f : Thread → Thread) : State := s.modThread s.bun.cid s.bun.slot f
def State.myCore (s : State) : Core := s.core s.bun.cid
def State.myCl (s : State) : Nat := clOf s.bun.cid

/-- A transfer of control of the bundle in progress: the next fetch is at the target (R94). -/
def State.goto (s : State) (target : Word) : State := { s with bun := { s.bun with npc := target } }

/-- RETURN FROM A SERVICE ROUTINE (R337): the routine of the tinker ends; the next request is dispatched in the
following cycle. -/
def endService (s : State) (cl : Nat) : State :=
  s.modCluster cl (fun c => { c with serving := false, services := if c.serving then c.services.tail else c.services })

end Sys2Proof.Machine
end

