-- ==== Sys2Proof/Machine/Engine.lean ====
section
/-! DEFINITION. The arrays' words (R236, R266, R272), status lists, completion and engine fault records (R107, R227, R329). -/

namespace Sys2Proof.Machine

/-! ### Accumulators and tick outputs -/

/-- The key of word (row, col) of tile t (R236). -/
def accKey (t row col : Nat) : Nat := (256 * t + row) * 96 + col
def Cluster.accWord (c : Cluster) (t row col : Nat) : BitVec 32 := Table.get 0 c.acc (accKey t row col)

/-- Delay cell d(i, j) and output o(j), 255 where nothing is held (R266). -/
def Cluster.cell (c : Cluster) (i j : Nat) : Nat := (Table.get (255 : Byte) c.cells (64 * i + j)).toNat
def Cluster.outTick (c : Cluster) (j : Nat) : Nat := (Table.get (255 : Byte) c.outs j).toNat

/-- Insertion by rising tick, after equal ones (R272). -/
def insertRise (a : Nat × Nat) : List (Nat × Nat) → List (Nat × Nat)
  | [] => [a]
  | b :: t => if a.1 < b.1 then a :: b :: t else b :: insertRise a t

/-- The outputs that rose, in the order of R272: (tick, index). -/
def Cluster.rises (c : Cluster) : List (Nat × Nat) :=
  (((List.range 64).map (fun j => (c.outTick j, j))).filter (fun o => o.1 ≠ 255)).foldl (fun l o => insertRise o l) []

/-- The word of `TKFIRST` (R272). -/
def Cluster.firstWord (c : Cluster) (k : Nat) : Nat :=
  (List.range 8).foldr (fun i acc => (if i < k then ((c.rises[i]?).map (·.2)).getD 255 else 255) + 256 * acc) 0

/-- A new entry takes its place in its queue, behind those that wait for a place there: commands of restored teams, and follow-on
commands that are ready (R226, R232, R265, R336). -/
def Cluster.addCopy (k : Cluster) (c : Cmd) : Cluster :=
  if k.copyBack.isEmpty && k.copyQ.length < 32 then { k with copyQ := k.copyQ ++ [c] } else { k with copyBack := k.copyBack ++ [c] }
def Cluster.addMx (k : Cluster) (c : Cmd) : Cluster :=
  if k.ready.isEmpty && k.mxQ.length < 16 then { k with mxQ := k.mxQ ++ [c] } else { k with ready := k.ready ++ [c] }
def Cluster.addTick (k : Cluster) (e : TkEntry) : Cluster :=
  if k.tkBack.isEmpty && k.tkQ.length < 16 then { k with tkQ := k.tkQ ++ [e] } else { k with tkBack := k.tkBack ++ [e] }

/-- Matrix commands of a cluster that have neither finished nor stopped, follow-on commands included (R245). -/
def Cluster.mxIds (c : Cluster) : List Nat :=
  (c.mxQ.filter (fun x => !x.stopped)).map (·.id) ++ (c.mxRun.toList.map (fun x => x.cmd.id)) ++ c.ready.map (·.id) ++
  ((c.copyQ ++ c.copyBack ++ c.copies.map (fun x => x.cmd)).filter (fun x => !x.follow.isEmpty)).map (·.followId)

/-- Tick entries of a cluster that are not performed yet. -/
def Cluster.tkIds (c : Cluster) : List Nat := (c.tkQ ++ c.tkBack).map (·.id) ++ (c.tkRun.toList.map (fun x => x.1.id))

/-- What an `ACCRD` or a `TKFIRST` reads of the arrays of a cluster (R245, R272). -/
def Cluster.arrayRead (k : Cluster) : MemOp → Option Nat
  | .accrd t row col => some (k.accWord t row col).toNat
  | .tkfirst n => some (k.firstWord n)
  | _ => none

/-- A command or entry has been performed, has failed or has stopped: reads that waited for it alone are served. -/
def State.arrayDone (s : State) (id : Nat) : State :=
  { s with reqs := s.reqs.map (fun r =>
      if r.stage = .sent && r.deps.contains id then
        match (s.cluster (clOf r.cid)).arrayRead r.op with
        | some v =>
          let d := r.deps.filter (fun x => decide (x ≠ id))
          if d.isEmpty then { r with deps := [], stage := .served, result := v } else { r with deps := d }
        | none => r
      else r) }

/-- The stopped command that waits in a cluster's queue. -/
def Cluster.waiting (k : Cluster) : Option Cmd := k.mxQ.find? (fun c => c.stopped)

/-- A value that `WRSR mxprog` accepts (R243). -/
def mxprogOk (k : Cluster) (v : Word) : Bool :=
  let n := v.toNat
  match k.waiting with
  | none => false
  | some c => n / 2 ^ 48 % 2 ^ 15 = 0 && n % 2 ^ 32 = c.token &&
      (n / 2 ^ 63 = 0 || n / 2 ^ 32 % 2 ^ 16 ≤ c.word 1 / 2 ^ 16 % 2 ^ 16)

/-! ### Status lists and records -/

/-- An engine's list of a core: queued and executing commands and the 32 finished last (R107). -/
def trimHist (l : List EngStat) : List EngStat :=
  let ended (e : EngStat) : Bool := e.status ≠ .busy
  -- an entry leaves once 32 commands have finished after it
  l.filter (fun e => !ended e || (l.filter (fun x => ended x && e.fin < x.fin)).length < 32)

def Core.histOf (c : Core) (eng : Nat) : List EngStat := Table.get [] c.hist eng

/-- A command enters: busy from here on. -/
def State.histEnter (s : State) (cid eng id token : Nat) : State :=
  s.modCore cid (fun c => { c with hist := Table.set c.hist eng (c.histOf eng ++ [⟨id, token, .busy, [], 0⟩]) })

/-- A command's status changes. -/
def State.histSet (s : State) (cid eng id : Nat) (st : EStatus) (record : List Word) : State :=
  s.modCore cid (fun c =>
    let n := ((c.histOf eng).map (·.fin)).foldl max 0 + 1
    { c with hist := Table.set c.hist eng (trimHist ((c.histOf eng).map (fun e =>
      if e.id = id then { e with status := st, record := record, fin := n } else e))) })

/-- The command whose status R107 reports for a token. -/
def Core.statusOf (c : Core) (eng token : Nat) : Option EngStat :=
  (c.histOf eng).reverse.find? (fun e => e.token = token)

/-- A completion record (R48). -/
def compRecord (eng token : Nat) (faulted : Bool) : Word :=
  wrap64 ((if faulted then 2 else 1) * 2 ^ 62 + eng * 2 ^ 60 + token)

/-- The thread that issued a command still holds its counters: it has not ended since. -/
def State.doneFor (s : State) (cid slot id : Nat) : State := s.modThread cid slot (fun t => t.doneOut id)

/-- Posts a record for a finished command: `s31`, the counter class and the status change together (R107). The
ENGINE_FAULT record reaches the mailbox in the same step. -/
def State.postNow (s : State) (cid : Nat) (w : CompWait) (rid : Nat) : State :=
  let s := s.modCore cid (fun c => { c with comp := c.comp ++ [compRecord w.engine w.token w.faulted] })
  let s := s.doneFor cid w.slot w.id
  let s := s.histSet cid w.engine w.id (if w.faulted then .faulted else .done) w.record
  if w.record.isEmpty then s else s.writeRecord rid 1 w.record

/-- A record of a displaced team's command waits with its core (R243). -/
def State.holdRecord (s : State) (rid cid : Nat) (w : CompWait) : State :=
  let put (sv : SavedCore) : SavedCore :=
    if sv.cid = cid then { sv with core := { sv.core with compWait := sv.core.compWait ++ [w] } } else sv
  s.modRegion rid (fun r => { r with teams := r.teams.map (fun e => (e.1, { e.2 with saved := e.2.saved.map put })) })

/-- A command finishes: its record posts, or waits while the queue is full (R226), or while its team is displaced. -/
def State.finishCmd (s : State) (cid : Nat) (w : CompWait) (rid : Nat) : State :=
  let s := s.arrayDone w.id
  let c := s.core cid
  if c.region ≠ some rid then s.holdRecord rid cid w
  else if c.comp.length < 64 && c.compWait.isEmpty then s.postNow cid w rid
  else s.modCore cid (fun c => { c with compWait := c.compWait ++ [w] })

/-- The team of a core of a region, a displaced one among them. -/
def State.teamNow (s : State) (rid cid : Nat) : Nat :=
  if (s.core cid).region = some rid then (s.core cid).team
  else (((s.region? rid).bind (fun r => r.teams.find? (fun e => e.2.saved.any (fun sv => sv.cid = cid)))).map (·.1)).getD (s.core cid).team

/-- The record of an engine fault (R227, R324): token in word 4, address in word 2, detail in word 5. -/
def engRecord (s : State) (code cid slot rid : Nat) (bundle : Word) (addr token detail icnt now : Nat) : List Word :=
  mkRecord code 1 cid slot s.host.pkgId rid (s.teamNow rid cid) bundle (wrap64 addr) (wrap64 token) (wrap64 detail) icnt
    now

/-- The fault code of a detail (R246). -/
def detailCode (detail : Nat) : Nat := if detail = 7 then fSparseMask else if detail = 8 then fPoison else fEngine

/-- A command ends in a fault with a detail and an address. -/
def State.failCmd (s : State) (eng : Nat) (c : Cmd) (detail addr : Nat) : State :=
  s.finishCmd c.cid ⟨c.id, c.slot, eng, true, c.token,
    engRecord s (detailCode detail) c.cid c.slot c.rid c.bundle addr c.token detail c.icnt c.now⟩ c.rid

/-- A command ends done. -/
def State.doneCmd (s : State) (eng : Nat) (c : Cmd) : State :=
  s.finishCmd c.cid ⟨c.id, c.slot, eng, false, c.token, []⟩ c.rid

end Sys2Proof.Machine
end

