-- ==== Sys2Proof/Machine/Memory.lean ====
section
/-! DEFINITION. The memory port: how a memory operation becomes a request (R126, R188 to R192, R209, R170 to R174), and
what a request waits for (R176, R209 to R217, R254). -/

namespace Sys2Proof

/-- The ordering of an operation (R217), and the scopes from narrow to wide (R207). -/
def AOrd.isAcq : AOrd → Bool
  | .acq _ => true
  | .plain => false
  | .rel _ => false

def AOrd.relScope : AOrd → Option Scope
  | .rel sc => some sc
  | .plain => none
  | .acq _ => none

def Scope.rank : Scope → Nat
  | .thr => 0 | .core => 1 | .clu => 2 | .die => 3 | .pkg => 4 | .sys => 5

end Sys2Proof

namespace Sys2Proof.Machine

/-! ### Checks of a memory operand -/

/-- The offset of an M form (6.1): x + sext(imm9) × a. -/
def offOf (x : Word) (imm : BitVec 9) (a : Nat) : Word := x + wrapI (imm.toInt * (a : Int))

/-- The space lists of the families (R126, R179, R183, R202, R204, R252). -/
def bankSpaces : List Space := [.scratch, .remote]
def lineSpaces : List Space := [.global, .stack]
def allSpaces : List Space := [.scratch, .remote, .global, .stack]

/-- Bytes [o, o + n) of a stack window belong to the region (R189). -/
def Region.ownsStack (r : Region) (o n : Nat) : Bool :=
  if r.field 22 = 0 then r.field 1 = 1
  else 65536 * r.field 23 ≤ o && o + n ≤ 65536 * (r.field 23 + r.field 22)

/-- The displaced team, or the team being saved, that held a bank of a cluster when its save began (R335). -/
def State.displacedOwner (s : State) (rid cl b : Nat) : Option Nat :=
  (s.region? rid).bind (fun r =>
    (r.teams.find? (fun (_, t) => (t.st = .displaced || t.st = .saving) && t.saved.any (fun c => c.banks.any (fun (k, _) => k = bankKey cl b)))).map
      (·.1))

/-- An access to a bank is not refused under R115. -/
def State.bankOk (s : State) (rid cl b : Nat) : Bool := s.bankHeld rid cl b || (s.displacedOwner rid cl b).isSome

/-- The banks that bytes [sa, sa + n) touch. -/
def banksOf (sa n : Nat) : List Nat := if bankOfSa sa = bankOfSa (sa + n - 1) then [bankOfSa sa] else [bankOfSa sa, bankOfSa (sa + n - 1)]

/-- A memory operand's checks: (6.1) to (6.4) of R126, then the stack's ownership (R189) and the held bank of the own
cluster (R115). -/
def memCheck (s : State) (g : Seg) (spaces : List Space) (rights : Nat) (off : Word) (a modulus misCode : Nat) :
    Except Flt Ea :=
  let cid := s.bun.cid
  let w5 := segWord5 g.val rights
  match segCheck s cid (s.seg cid s.bun.slot g.val) g.val spaces rights off a modulus misCode with
  | .error f => .error f
  | .ok e =>
    match e.space with
    | .stack =>
      if (match s.regionOf cid with | some r => r.ownsStack e.addr a | none => isSup cid) then .ok e
      else .error ⟨fSegRights, e.ea, 0, w5⟩
    | .scratch =>
      if (banksOf e.addr a).all (fun b => s.bankOk s.rid (clOf cid) b) then .ok e
      else .error ⟨fSegRights, e.ea, 0, w5⟩
    | _ => .ok e

/-! ### Building a request -/

/-- The key of an access before translation: global ones get theirs from the tables. -/
def keyOf (s : State) (e : Ea) : Nat :=
  match e.space with
  | .scratch => scratchKey e.cl e.addr
  | .remote => scratchKey e.cl e.addr
  | .stack => stackBase s.host.pkgId (clOf s.bun.cid) + e.addr
  | _ => 0

/-- One access of `size` bytes at a checked address. -/
def pieceOf (s : State) (e : Ea) (size data lane : Nat) : Piece := ⟨e.addr, keyOf s e, size, data, lane, false⟩

/-- A request of the bundle in progress. -/
def State.newReq (s : State) (op : MemOp) (e : Ea) (g : Seg) (pieces : List Piece) : Req :=
  { id := s.nextId, cid := s.bun.cid, slot := s.bun.slot, rid := s.rid, bundle := s.bun.addr, icnt := s.me.obs,
    now := s.nowOf s.bun.cid s.bun.slot, op := op, ord := .plain, space := e.space, cl := e.cl, seg := g.val,
    pieces := pieces, lane := 0, dst := none, vdst := none, long := false, cls := none, buffered := false,
    stage := .sent, refusals := 0, seqn := none, dest := 0, result := 0, nulled := false
    deps := s.me.readFrom.filter (fun d => (s.req? d).isSome), nc := false
    afTag := none, dropped := false, born := s.cyc, age := s.nextId, reach := none }

/-! ### What a request is -/

/-- The access goes to a scratchpad bank. -/
def Req.scratchy (r : Req) : Bool := r.space = .scratch || r.space = .remote

def MemOp.isLoad : MemOp → Bool
  | .load _ => true
  | .ldf => true
  | _ => false
def MemOp.isVec : MemOp → Bool
  | .vload => true
  | .vstore => true
  | _ => false
def MemOp.isRst : MemOp → Option Nat
  | .rst k => some k
  | _ => none
def MemOp.isAtomic : MemOp → Bool
  | .atomic _ _ _ _ => true
  | _ => false
/-- Synchronising accesses that may have to wait (R130). -/
def MemOp.isSyncLoad : MemOp → Bool
  | .lds => true
  | .ldf => true
  | _ => false
def MemOp.isSyncStore : MemOp → Bool
  | .sts => true
  | .stf => true
  | _ => false
def MemOp.isLine : MemOp → Bool
  | .pref => true
  | .cclean => true
  | .cinval => true
  | _ => false

def MemOp.isLaunch : MemOp → Bool
  | .launch _ => true
  | _ => false

/-- Reads and messages that are no memory operations: no release waits for them (R217). -/
def MemOp.aside : MemOp → Bool
  | .accrd _ _ _ | .tkfirst _ | .bankalloc _ | .engWord _ _ | .sendMsg _ _ _ | .sseq _ | .tickCmd _ _ | .areaCmd _ _ _ => true
  | _ => false

/-- A page without w refuses these (R190, R192, R203). -/
def MemOp.needsW : MemOp → Bool
  | .cclean => true
  | .cinval => true
  | op => op.writes

def Piece.overlaps (a b : Piece) : Bool := a.key < b.key + b.size && b.key < a.key + a.size

/-- The request carries addresses that are known. -/
def Req.placed (r : Req) : Bool := r.stage ≠ .walking

/-! ### The store buffer (R209, R210) -/

/-- Entries of a core's store buffer. -/
def State.buffer (s : State) (cid : Nat) : List Req := s.reqs.filter (fun r => r.cid = cid && r.buffered)

def State.bufferFull (s : State) (cid : Nat) : Bool := 48 ≤ (s.buffer cid).length

/-- The later of two entries that hold a byte: age, number and byte. -/
def younger (a b : Option (Nat × Nat × Nat)) : Option (Nat × Nat × Nat) :=
  match a, b with
  | some x, some y => if x.1 ≤ y.1 then some y else some x
  | some x, none => some x
  | none, y => y

/-- The byte of a buffered store at a key, with its age and number. -/
def Req.byteAt (r : Req) (key : Nat) : Option (Nat × Nat × Nat) :=
  if r.placed then
    (r.pieces.reverse.find? (fun p => p.key ≤ key && key < p.key + p.size)).map
      (fun p => (r.age, r.id, p.data / 2 ^ (8 * (key - p.key)) % 256))
  else none

/-- An entry's store is performed: its bytes stand at their ordering point, where a later write may have followed them. -/
def bufDone (buf : List Req) (id : Nat) : Bool := buf.any (fun r => r.id = id && r.stage.performed)

/-- The youngest buffered store to a byte, with the byte (R210). -/
def bufByte (buf : List Req) (key : Nat) : Option (Nat × Nat) :=
  (buf.foldl (fun o r => younger o (r.byteAt key)) none).map (·.2)

/-- What the buffer holds of a load's bytes (R210). -/
inductive Cover where
  | none
  | all (v : Nat) (deps : List Nat)
  | part
  deriving DecidableEq, Repr

def coverAux (buf : List Req) (key : Nat) : Nat → List (Option (Nat × Nat))
  | 0 => []
  | n + 1 => bufByte buf key :: coverAux buf (key + 1) n

/-- The bytes of a load as these entries hold them; one that a buffered `STS` overlaps waits like a part. The bytes of entries
that are performed are read where they stand, so that no atomic or write that has followed them there is missed (R208): `home`
holds those bytes, where they are not poisoned, and a load whose bytes all stand there goes to its target. -/
def cover (buf : List Req) (p : Piece) (home : Option Nat) : Cover :=
  let bs := coverAux buf p.key p.size
  if bs.all (fun b => b.isNone) then .none
  else if buf.any (fun r => r.op = .sts && r.placed && r.pieces.any (fun q => q.overlaps p)) then .part
  else if bs.all (fun b => b.isSome) then
    let all := bs.filterMap (fun b => b.map (·.1))
    let ids := all.filter (fun d => !bufDone buf d)
    if ids.isEmpty then .none
    else if home.isNone && ids.length < all.length then .part
    else .all ((bs.zipIdx).foldr (fun (b, i) acc => (match b with
        | some (d, x) => if bufDone buf d then home.getD 0 / 2 ^ (8 * i) % 256 else x
        | none => 0) + 256 * acc) 0) ids
  else .part

/-! ### What a request waits for -/

/-- Earlier operations of the request's thread. -/
def State.before (s : State) (r : Req) : List Req :=
  s.reqs.filter (fun e => e.cid = r.cid && e.slot = r.slot && e.id < r.id && !e.dropped)

/-- Pins of the core that a release of scope sc must widen first, for a thread (R217, R221). -/
def State.pinsBelow (s : State) (cid slot : Nat) (sc : Scope) : List Pin :=
  (s.core cid).pins.filter (fun p => p.scope < sc.rank && p.holders.any (fun h => h.1 = slot))

/-- The stores of a thread, or of every holder, before its holding of these pins are performed (R221). -/
def State.pinsReady (s : State) (cid : Nat) (ps : List Pin) (slot : Option Nat) : Bool :=
  ps.all (fun p => p.holders.all (fun h =>
    (match slot with | some k => h.1 ≠ k | none => false) ||
    !s.unperformed cid (h.1 % 16) (fun r => r.op.writes && r.id < h.2)))

/-- The bank is in the cache role, or is leaving it. -/
def Role.caches : Role → Bool
  | .cache => true
  | .leaving _ _ => true
  | .home => false
  | .free => false
  | .alloc _ => false
  | .closing _ => false
  | .clearing _ => false

/-- A bank of a cluster that holds an L1 line. -/
def State.l1At (s : State) (cl line : Nat) : Option Nat :=
  ((List.range 16).map (fun j => bankKey cl (32 + j))).find? (fun bk =>
    (s.bank bk).role.caches && (s.bank bk).lines.any (fun l => l.line = line))

/-- The bank that would serve a core's accesses to a line, or still holds its pin (R120, R198). In fused mode a line that the L1
holds is found where it stands, and another goes where the hash over the banks in cache role puts it; a pinned line stays where
it stands when the mode ends (log entry 135). -/
def State.l1Home (s : State) (cid line : Nat) : Option Nat :=
  let cl := clOf cid
  let caches (j : Nat) : Bool := (s.bank (bankKey cl (32 + j))).role.caches
  let fused := (s.cluster cl).fused
  let new : Option Nat :=
    if fused then
      let bs := (List.range 16).filter caches
      if bs.isEmpty then none else some (bankKey cl (32 + bs.getD (Config.l1Hash line % bs.length) 0))
    else if coreOf cid < 16 && caches (coreOf cid) then some (bankKey cl (32 + coreOf cid))
    else none
  if fused || (s.core cid).pins.any (fun p => p.line = line) then (s.l1At cl line).orElse (fun _ => new) else new

/-- The L1 bank that serves a line: a bank that leaves the cache role serves none, and its accesses go to L2 (R120). -/
def State.l1Bank (s : State) (cid line : Nat) : Option Nat :=
  (s.l1Home cid line).filter (fun bk => (s.bank bk).role = .cache)

/-- A release is narrow, and would pin its line (R220). -/
def State.pinning (s : State) (r : Req) (p : Piece) : Bool :=
  (match r.ord with | .rel sc => decide (sc.rank < 2) | _ => false) && !r.scratchy && !r.nc &&
  (s.l1Bank r.cid (lineOf p.key)).isSome

/-- The scope at which a release is performed: `.clu` where a narrow one cannot pin (R220). -/
def State.effScope (s : State) (r : Req) (p : Piece) : Option Scope :=
  match r.ord.relScope with
  | some sc => if sc.rank < 2 && !s.pinning r p then some .clu else some sc
  | none => none

/-- The release may be performed (R217, R220): earlier operations and the stores the thread read from the buffer are
performed; a pinned release waits only for the loads' return, for stores without buffer entries, and for an `STS`, which its
siblings cannot read in the buffer (R214). The lines that its thread holds at a narrower scope are widened with it, behind the
thread's own stores (R221). -/
def State.releaseOk (s : State) (r : Req) (p : Piece) : Bool :=
  match s.effScope r p with
  | none => true
  | some sc =>
    let es := (s.before r).filter (fun e => !e.op.aside)
    if s.pinning r p then
      es.all (fun e => (e.buffered && e.op ≠ .sts) || e.op = .pref || (e.op.writes && e.stage.performed))
    else
      es.all (fun e => e.stage.performed) &&
      (es.all (fun e => e.deps.all (fun d => match s.req? d with | some q => q.stage.performed | none => true))) &&
      r.deps.all (fun d => match s.req? d with | some q => q.stage.performed | none => true) &&
      s.pinsReady r.cid (s.pinsBelow r.cid r.slot sc) (some r.slot)

/-- Same pair (R169). -/
def Req.samePair (a b : Req) : Bool := a.cid = b.cid && a.op.isRst = b.op.isRst && a.dest = b.dest && a.op.isRst ≠ some 0

/-- Store e comes after a store of its pair (R171). -/
def Req.follows (q e : Req) : Bool :=
  e.samePair q && (match q.seqn, e.seqn with
    | some n, some m => m ≠ n && (m + 2 ^ 16 - n) % 2 ^ 16 < 2 ^ 15
    | _, _ => false)

/-- An earlier operation e of the thread holds r back at access p (R176, R213 to R217). -/
def holdsBack (e r : Req) (p : Piece) : Bool :=
  -- until an acquire's value is written
  e.ord.isAcq ||
  -- until LDS or LDF has returned, for banks of one cluster
  (e.op.isSyncLoad && e.scratchy && r.scratchy && e.cl = r.cl) ||
  -- overlapping lines of RST pairs
  (e.op.isRst.isSome && r.op.isRst.isSome && !e.samePair r && e.placed &&
    e.pieces.any (fun q => lineOf q.key = lineOf p.key)) ||
  (!e.stage.performed &&
    ((r.ord.isAcq && e.ord.relScope.isSome) ||
     (r.op.isSyncStore && e.scratchy && r.scratchy && e.cl = r.cl) ||
     (e.placed && e.pieces.any (fun q => !q.done && q.overlaps p)) ||
     -- an unperformed `VST` or `VSCAT` holds back every overlapping access, whole (R254)
     (e.placed && e.op = .vstore && e.pieces.any (fun q => r.pieces.any (fun u => q.overlaps u)))))

/-- The pair of a stream store waits for its open store's acknowledgement (R172). -/
def State.openWaits (s : State) (r : Req) : Bool :=
  match r.op.isRst, r.seqn with
  | some k, some n =>
    k ≠ 0 && n ≠ 0 &&
    (s.core r.cid).streamTab.any (fun e => e.stream = k && e.dest = r.dest && e.openWait)
  | _, _ => false

/-- A load of the kinds of R210, on its way to its target: an `LDF` that has been tested at its bank waits there. -/
def Req.readsBuffer (r : Req) : Bool :=
  r.op.isLoad && (r.op ≠ .ldf || (r.stage ≠ .parked && r.refusals = 0))

/-- A release that its siblings may read from the buffer: what stands before it is ordered before it at core scope (R214). An
`STS` in the buffer is not: no sibling can read it there (R210). -/
def State.relShown (s : State) (e : Req) : Bool :=
  match e.ord.relScope with
  | some sc => sc.rank = 0 || (s.before e).all (fun q => (q.buffered && q.op ≠ .sts) || q.op = .pref || q.op.aside || q.stage.performed)
  | none => true

/-- The entry of a plain, releasing or stream store (R212, note (f) of R216). -/
def Req.plainEntry (r : Req) : Bool := r.buffered && !r.op.isSyncStore

/-- An entry that still waits in the memory port: behind an acquire (R217), behind an `LDS` or `LDF` to its cluster's banks,
as an `STS` or `STF` behind any access to them (note (s) of R216), or as a release that may not be read yet. -/
def State.inPort (s : State) (e : Req) : Bool :=
  (s.before e).any (fun q => q.ord.isAcq ||
    (q.scratchy && e.scratchy && q.cl = e.cl && (q.op.isSyncLoad || (e.op.isSyncStore && !q.stage.performed)))) ||
  !s.relShown e

/-- An earlier entry of the thread waits in the port, and note (f) of R216 keeps this one behind it. -/
def State.behindPort (s : State) (e : Req) : Bool :=
  e.plainEntry && (s.before e).any (fun q => q.plainEntry && s.inPort q)

/-- The buffer entries that an access may meet (R210), of those that came before it: its own thread's, and its siblings' that no
longer wait in the port. -/
def State.shown (s : State) (r : Req) : List Req :=
  (s.buffer r.cid).filter (fun e => e.age < r.age && (e.slot = r.slot || !(s.inPort e || s.behindPort e)))

/-- Unperformed stores of siblings that a thread sees in the buffer. -/
def State.sibStores (s : State) (r : Req) : List Nat :=
  ((s.shown r).filter (fun e => e.slot ≠ r.slot && !e.stage.performed)).map (·.id)

/-- What the buffer holds of an access of a load. -/
def State.coverOf (s : State) (r : Req) (p : Piece) : Cover :=
  let key := s.fwd p.key
  if r.readsBuffer then cover (s.shown r) p (if (s.poisoned key p.size).isSome then none else some (s.read key p.size)) else .none

/-- A load has read these stores from the buffer: the thread's later releases wait for them (R217, R218). Where it is an
acquire, everything that its core's other threads show in the buffer is ordered before what follows, engine commands
included. -/
def State.noteDeps (s : State) (r : Req) (deps : List Nat) : State :=
  let seen := if r.ord.isAcq then s.sibStores r else []
  let deps := deps ++ seen
  if r.dropped || deps.isEmpty then s
  else
    let live (l : List Nat) : List Nat := l.filter (fun d => (s.req? d).isSome)
    let s := s.modThread r.cid r.slot (fun t => { t with readFrom := live (t.readFrom ++ deps), acquired := live (t.acquired ++ seen) })
    { s with reqs := s.reqs.map (fun q =>
        if q.cid = r.cid && q.slot = r.slot && r.id < q.id && q.ord.relScope.isSome then { q with deps := q.deps ++ deps } else q) }

/-- A vector memory operation that has not begun and overlaps an earlier entry of the core's store buffer waits (R254). -/
def State.vecWaits (s : State) (r : Req) : Bool :=
  r.op.isVec && !r.pieces.any (fun p => p.done) &&
  (s.buffer r.cid).any (fun e => e.placed && e.age < r.age &&
    e.pieces.any (fun q => r.pieces.any (fun p => q.overlaps p)))

/-- What a sibling shows in the buffer comes before a later access of the core that does not read the buffer, at the bytes they
share (R208, R218): the entry is performed first. An `STS` may wait for that very access, and holds nothing; stores of one pair
keep the order of their numbers (R173). -/
def State.sibWaits (s : State) (r : Req) (p : Piece) : Bool :=
  !r.op.isLoad && (s.shown r).any (fun e => e.slot ≠ r.slot && e.op ≠ .sts && !e.samePair r && e.placed && !e.stage.performed &&
    e.pieces.any (fun q => !q.done && q.overlaps p))

/-- Where accesses of one request overlap, the earlier ones come first (R253). -/
def Req.pieceTurn (r : Req) (i : Nat) : Bool :=
  match r.pieces[i]? with
  | none => false
  | some p => (r.pieces.take i).all (fun q => q.done || !q.overlaps p)

/-- Access p of a request may be performed now, as far as order goes. A load that the buffer covers is served from it
and needs no more than its earlier loads and acquires; an acquire also waits for the thread's earlier releases (R217). -/
def State.orderOk (s : State) (r : Req) (p : Piece) : Bool :=
  let es := s.before r
  (match s.coverOf r p with
    | .none => !es.any (fun e => holdsBack e r p) && !s.vecWaits r && !s.sibWaits r p && !s.behindPort r
    | .all _ _ => !es.any (fun e => (!e.buffered || (r.ord.isAcq && e.ord.relScope.isSome)) && holdsBack e r p)
    | .part => false) &&
  s.releaseOk r p && !s.openWaits r

/-! ### Stream numbers (R170 to R174) -/

/-- The destination of a stream store (R169): a cluster, or 2^20 + slice; in another package p, 2^24 × (p + 1) more. -/
def State.destOf (s : State) (r : Req) : Nat :=
  match r.space with
  | .scratch => r.cl
  | .remote => r.cl
  | _ =>
    let key := (r.pieces.head?.map (·.key)).getD 0
    2 ^ 20 + homeSlice key +
      (if paPkg s.host.pkgId key = s.host.pkgId then 0 else 2 ^ 24 * (paPkg s.host.pkgId key + 1))

/-- A stream store takes its number; none while the pair or the table is full (R171, R174). -/
def State.number (s : State) (r : Req) : Option (State × Req) :=
  match r.op.isRst with
  | none => some (s, r)
  | some 0 => some (s, { r with dest := s.destOf r })
  | some k =>
    let d := s.destOf r
    let c := s.core r.cid
    match c.streamTab.find? (fun e => e.stream = k && e.dest = d) with
    | some e =>
      if 64 ≤ e.outst then none
      else
        let rest := c.streamTab.filter (fun x => x ≠ e)
        some (s.setCore r.cid { c with streamTab := rest ++ [{ e with next := (e.next + 1) % 2 ^ 16, outst := e.outst + 1 }] },
          { r with dest := d, seqn := some e.next })
    | none =>
      let entry : StreamEntry := ⟨k, d, 1, 1, true⟩
      if c.streamTab.length < 32 then
        some (s.setCore r.cid { c with streamTab := c.streamTab ++ [entry] }, { r with dest := d, seqn := some 0 })
      else match c.streamTab.find? (fun e => e.outst = 0) with
        | none => none
        | some old =>
          some ({ (s.setCore r.cid { c with streamTab := c.streamTab.filter (fun x => x ≠ old) ++ [entry] }) with
                    closeFlits := s.closeFlits ++ [(r.cid, old.stream, old.dest)] },
            { r with dest := d, seqn := some 0 })

/-! ### Translation at the port (R191, R192) -/

/-- What translating the accesses of a request gives: keys, whether a page is not cached, cache entries used; the first
missing VA; or a refusal with its detail and VA. -/
inductive XRes where
  | ok (ps : List Piece) (nc : Bool) (used : List TlbEntry)
  | missing (va : Nat)
  | denied (detail va : Nat)
  deriving DecidableEq, Repr

def xlate (rid : Nat) (look : Nat → Trans) : List Piece → XRes
  | [] => .ok [] false []
  | p :: ps =>
    match look p.addr with
    | .missing => .missing p.addr
    | .denied d => .denied d p.addr
    | .pa pa leaf bits =>
      match xlate rid look ps with
      | .ok qs nc us => .ok ({ p with key := pa } :: qs) (nc || pteNc leaf) (⟨rid, p.addr / 2 ^ bits, bits, wrap64 leaf⟩ :: us)
      | .missing va => .missing va
      | .denied d va => .denied d va

/-- The translation cache's answer: `missing` is a cache miss. -/
def State.tlbLook (s : State) (rid cl die : Nat) (needW needX : Bool) (va : Nat) : Trans :=
  match (s.cluster cl).tlbHit rid va with
  | none => .missing
  | some e =>
    let leaf := e.leaf.toNat
    if (needW && !pteW leaf) || (needX && !pteX leaf) then .denied 4 else .pa (leafPa leaf e.bits die va) leaf e.bits

/-- The four die copies that an `MST` writes on a replicated page (R183). -/
def replicate (r : Req) (used : List TlbEntry) (ps : List Piece) : List Piece :=
  match r.op, used.head?, ps.head? with
  | .mst, some u, some p =>
    let leaf := u.leaf.toNat
    if pteRep leaf then (List.range 4).map (fun d => { p with key := leafPa leaf u.bits d p.addr }) else ps
  | _, _, _ => ps

/-- The request with its keys, and the cache with the entries used. -/
def State.resolved (s : State) (r : Req) (ps : List Piece) (nc : Bool) (used : List TlbEntry) : State × Req :=
  (s.modCluster (clOf r.cid) (fun c => used.foldl (fun c e => c.tlbUse e) c),
   { r with pieces := replicate r used ps, nc := nc })

/-! ### Issue of a request -/

/-- The request joins the port: its counter rises (R103), its entry in the buffer is taken (R209). -/
def State.addReq (s : State) (r : Req) : State :=
  let s := { s with nextId := s.nextId + 1, reqs := s.reqs ++ [r] }
  match r.cls with
  | some k => s.modThread r.cid r.slot (fun t => t.addOut r.id k)
  | none => s

/-- The stage at which a request with known addresses starts. -/
def Req.start (r : Req) : Stage := if r.buffered then .unsent else .sent

/-- The address a record shows for an access of a request. -/
def Req.eaOf (s : State) (r : Req) (p : Piece) : Word :=
  if r.scratchy || r.space = .stack then
    let b := (s.seg r.cid r.slot r.seg).base
    if (s.seg r.cid r.slot r.seg).spaceCode = 2 then wrap64 (b.toNat / 2 ^ 23 * 2 ^ 23 + p.addr) else wrap64 p.addr
  else wrap64 p.addr

/-- A poisoned word stops its consumer (R342): word 2 holds the word's address. -/
def poisonFlt (addr : Nat) : Flt := fltAt fPoison (wrap64 (addr / 8 * 8))

/-- The same for an access of a request that is performed at a key: the first poisoned word that it reads. -/
def Req.poisonFlt (s : State) (r : Req) (p : Piece) (key : Nat) : Flt :=
  fltAt fPoison (r.eaOf s { p with addr := (p.addr + (s.poisoned key p.size).getD key - key) / 8 * 8 })

/-- The value of a plain load (R128, R202). -/
def loadValue (sx : Bool) (size v : Nat) : Word := if sx then (BitVec.ofNat (8 * size) v).signExtend 64 else wrap64 v

/-- The register value of a served vector load: each element at its place (R252, R253). -/
def Req.gathered (r : Req) : Nat :=
  r.pieces.foldl (fun acc p => acc + p.data % 2 ^ (8 * p.size) * 2 ^ (8 * p.lane)) 0

/-- The value a served request writes. -/
def Req.value (r : Req) : Word :=
  match r.op with
  | .load sx => loadValue sx ((r.pieces.head?.map (·.size)).getD 8) r.result
  | _ => wrap64 r.result

/-- The act that writes a served request's result. -/
def Req.act (r : Req) : WbAct :=
  match r.vdst with
  | some d => .vload d (BitVec.ofNat 4096 r.gathered) r.long r.id
  | none => .load (r.dst.getD 0) r.value r.id

/-- Every access of a request lies in its thread's own home banks (R73, R130). -/
def State.ownHome (s : State) (r : Req) : Bool :=
  r.space = .scratch && coreOf r.cid < 16 &&
  r.pieces.all (fun p => bankOfSa p.addr / 2 = coreOf r.cid && s.bankHeld r.rid r.cl (bankOfSa p.addr))

/-- The write-back at issue + 6 of a load that is counted from its issue (R73, R103). -/
def homeBack (s : State) (r : Req) (act : WbAct) : Res := .ok ((s.wb act 6).modMe (fun t => t.addOut r.id .ld))

/-- A load from the thread's own home banks reads at issue and writes back at issue + 6 (R73), unless it has to wait in
the port. -/
def homeLoad (s : State) (r : Req) (sx : Bool) (p : Piece) : Option Res :=
  let back (s : State) (v : Nat) : Res := homeBack s r (.load (r.dst.getD 0) (loadValue sx p.size v) r.id)
  if s.ownHome r && s.orderOk r p then
    match s.coverOf r p with
    | .all v deps => some (back (s.noteDeps r deps) v)
    | _ => if (s.poisoned p.key p.size).isSome then some (.fault (r.poisonFlt s p p.key)) else some (back s (s.read p.key p.size))
  else none

/-- The same for a vector load, all of whose elements are read at issue (R73, R254). -/
def homeVload (s : State) (r : Req) : Option Res :=
  if s.ownHome r && r.pieces.all (s.orderOk r) then
    match r.pieces.find? (fun p => (s.poisoned p.key p.size).isSome) with
    | some p => some (.fault (r.poisonFlt s p p.key))
    | none =>
      let r := { r with pieces := r.pieces.map (fun p => { p with data := s.read p.key p.size, done := true }) }
      some (homeBack s r r.act)
  else none

/-- LDS, LDF and STS on a word of the thread's own home banks (R130): they park with reason 4 until the thread's earlier
writes to its cluster are performed, and then until the word's bit lets them proceed. Behind an earlier `LDS` or `LDF` (note (s)
of R216), an acquire (R217) or a buffered store that covers it in part (R210) the access waits in the port instead (log entry
94). -/
def homeSync (s : State) (r : Req) (p : Piece) : Option Res :=
  let sync : Bool := r.op = .lds || r.op = .ldf || r.op = .sts
  let bk := bankKey r.cl (bankOfSa p.addr)
  let out (s : State) (v : Nat) : Res := homeBack s r (.load (r.dst.getD 0) (wrap64 v) r.id)
  if !(s.ownHome r && sync) then none
  else if s.unperformed r.cid r.slot (fun e => e.op.beforeSync && e.scratchy && e.cl = r.cl) then some (.park 4)
  else if !s.orderOk r p then none
  else match r.op with
    | .sts =>
      if (s.poisoned p.key 8).isSome then some (.fault (r.poisonFlt s p p.key))
      else if s.isFull p.key then some (.park 4)
      else some (.ok (((s.scratchWrite r.cl p.addr 8 (p.data % 2 ^ 64)).setFull p.key true).addReq
        { r with stage := .served, pieces := [{ p with done := true }] }))
    | op =>
      match (if op = .ldf then s.coverOf r p else .none) with
      | .all v deps => some (out (s.noteDeps r deps) v)
      | _ =>
        if (s.poisoned p.key 8).isSome then some (.fault (r.poisonFlt s p p.key))
        else if !s.isFull p.key then some (.park 4)
        else some (out (if op = .lds then (s.setFull p.key false).stepBank bk else s) (s.read p.key 8))

/-- The next number of an `AFADD` of slot index w (R319). -/
def Region.nextAf (r : Region) (w : Nat) : Nat := Table.get 0 r.afCount w

/-- Taking an `AFADD`'s number once it is translated. -/
def State.tagAf (s : State) (r : Req) : State × Req :=
  match r.afTag, s.region? r.rid with
  | some (w, _), some g =>
    (s.setRegion r.rid { g with afCount := Table.set g.afCount w (g.nextAf w + 1) }, { r with afTag := some (w, g.nextAf w) })
  | _, _ => (s, r)

/-- The word `SSEQ` writes for a pair (R181). -/
def seqWord (c : Core) (stream dest : Nat) : Nat :=
  match c.streamTab.find? (fun e => e.stream = stream && e.dest = dest) with
  | some e => 2 ^ 24 + (if e.openWait then 2 ^ 23 else 0) + e.outst * 2 ^ 16 + e.next
  | none => 0

/-- A request whose addresses are known is sent. -/
def send (s : State) (r : Req) : Res :=
  match r.op, r.pieces with
  | .load sx, [p] =>
    match homeLoad s r sx p with
    | some x => x
    | none => .ok (s.addReq { r with stage := r.start })
  | .vload, _ => (homeVload s r).getD (.ok (s.addReq { r with stage := r.start }))
  | .sseq k, _ => .ok (s.addReq { r with stage := .served, result := seqWord (s.core r.cid) k (s.destOf r) })
  | _, ps =>
    match ps.head?.bind (homeSync s r) with
    | some x => x
    | none =>
      match s.number r with
      | none => .park 2
      | some (s, r) =>
        let (s, r) := s.tagAf r
        .ok (s.addReq { r with stage := r.start })

/-- The request waits for a page walk; the thread is not eligible until it ends (R192). -/
def walk (s : State) (r : Req) : State :=
  (s.addReq { r with stage := .walking }).modThread r.cid r.slot (fun t =>
    { t with walking := true, reissue := some (s.reissueOf r.icnt) })

/-- A memory operation whose operand is checked: a full store buffer parks it (R209), its accesses are translated, and
it is sent. On a miss of the translation cache the walk's end decides what becomes of it (R192, log entry 20). -/
def submit (s : State) (r : Req) : Res :=
  if r.buffered && s.bufferFull r.cid then .park 8
  else if r.space ≠ .global then send s r
  else if (s.region? r.rid).isNone then .fault (pageDenied 0 ((r.pieces.head?.map (·.addr)).getD 0))
  else match xlate r.rid (s.tlbLook r.rid (clOf r.cid) (dieOf r.cid) r.op.needsW false) r.pieces with
    | .denied d va => .fault (pageDenied d va)
    | .ok ps nc used =>
      let (s, r) := s.resolved r ps nc used
      send s r
    | .missing _ => .ok (walk s r)

/-- A read of an array that waits for these commands; it is served at once where there are none. -/
def State.arrayReq (s : State) (op : MemOp) (d : Nat) (deps : List Nat) : Req :=
  { s.newReq op ⟨.none, s.myCl, 0, 0⟩ 0 [] with
    dst := some d, deps := deps, stage := if deps.isEmpty then .served else .sent
    result := if deps.isEmpty then ((s.cluster s.myCl).arrayRead op).getD 0 else 0 }

/-! ### Ends of requests -/

/-- A sibling has a later store of the same pair under way (R171). -/
def State.pairLater (s : State) (q : Req) : Bool := s.reqs.any (fun e => e.slot ≠ q.slot && q.follows e)

/-- An acquire is complete: what waited behind it leaves the port, and takes its place in the core's order now (R217, R218). A
numbered store that a sibling's store of its pair follows keeps its place before that one, with what its thread has issued
before it (R173, log entry 134). -/
def State.freePort (s : State) (r : Req) : State :=
  if r.ord.isAcq then
    let behind (q : Req) : Bool := q.cid = r.cid && q.slot = r.slot && r.id < q.id
    let kept := s.reqs.foldl (fun n q => if behind q && s.pairLater q then max n q.id else n) 0
    { s with nextId := s.nextId + (s.nextId - r.id)
             reqs := s.reqs.map (fun q => if behind q && kept < q.id then { q with age := s.nextId + (q.id - r.id) } else q) }
  else s

/-- The operation counts as completed and leaves the port. -/
def State.endReq (s : State) (r : Req) : State :=
  ((s.dropReq r.id).freePort r).modThread r.cid r.slot (fun t => t.doneOut r.id)

/-- The thread of a request still runs it. -/
def State.liveReq (s : State) (r : Req) : Bool :=
  let t := s.thread r.cid r.slot
  !r.dropped && (t.state = .ready || t.state = .parked || t.state = .dropped)

/-- A store of a pair leaves the core's stream table (R171, R172, R175). -/
def State.pairAck (s : State) (r : Req) : State :=
  match r.op.isRst with
  | some 0 => s
  | some k => s.modCore r.cid (fun c => { c with streamTab := c.streamTab.map (fun e =>
      if e.stream = k && e.dest = r.dest then
        { e with outst := e.outst - 1, openWait := if r.seqn = some 0 then false else e.openWait } else e) })
  | none => s

/-! ### Commit tables (R173) -/

def State.commit? (s : State) (dest src stream : Nat) : Option Commit :=
  s.commits.find? (fun c => c.dest = dest && c.src = src && c.stream = stream)
def State.setCommit (s : State) (c : Commit) : State :=
  { s with commits := if s.commits.any (fun x => x.dest = c.dest && x.src = c.src && x.stream = c.stream)
      then s.commits.map (fun x => if x.dest = c.dest && x.src = c.src && x.stream = c.stream then c else x)
      else s.commits ++ [c] }

/-- The number of a stream store that ends without being performed is passed over, so that its pair goes on (R173). -/
def State.skipNumber (s : State) (r : Req) : State :=
  match r.op.isRst, r.seqn with
  | some k, some n =>
    if k = 0 then s
    else match s.commit? r.dest r.cid k with
      | some c =>
        if n = c.expect then
          s.setCommit { c with expect := (c.expect + 1) % 2 ^ 16, held := c.held.filter (fun h => h.2 ≠ r.id) }
        else if c.held.any (fun h => h.2 = r.id) then s
        else s.setCommit { c with held := c.held ++ [(n, r.id)] }
      | none => if n = 0 then s.setCommit ⟨r.dest, r.cid, k, 1, []⟩ else s
  | _, _ => s

/-- The request ends without effect and stops its thread. -/
def State.failReq (s : State) (r : Req) (f : Flt) : State :=
  let live := s.liveReq r
  let s := ((s.endReq r).pairAck r).skipNumber r
  let s := { s with banks := s.banks.map (fun (e : Nat × Bank) => (e.1, { e.2 with park := e.2.park.filter (fun i => decide (i ≠ r.id)) })) }
  if live then stopAs s r.cid r.slot f r.bundle r.icnt
  else s

end Sys2Proof.Machine
end

