-- ==== Sys2Proof/Machine/Lines.lean ====
section
/-! DEFINITION. Global lines: the L1 (R116, R198), grants (R201), pins (R220), the sampling counts of R120, migration's
redirect (R196), die links (R6, R340), and one access performed at its ordering point (R197, R204). -/

namespace Sys2Proof.Machine

/-! ### The L1 -/

/-- The set of a line (R116), and whether it is sampled (R120). -/
def l1Set (line : Nat) : Nat := line % 128
def l1Sampled (line : Nat) : Bool := l1Set line % 4 = 0

/-- Notes an evicted tag in the region's shadow directory (R120): 8 tags for each sampled set. -/
def shadowAdd (t : List (Nat × Nat)) (rid line : Nat) : List (Nat × Nat) :=
  if !l1Sampled line then t
  else
    let t := t.filter (fun e => !(e.1 = rid && e.2 = line)) ++ [(rid, line)]
    let mine := t.filter (fun e => e.1 = rid && l1Set e.2 = l1Set line)
    if mine.length ≤ 8 then t else t.filter (fun e => e ≠ mine.headD (0, 0))

/-- A line that some core pins (R220). -/
def State.isPinned (s : State) (line : Nat) : Bool := (s.pinOf line).isSome

/-- Puts a line into its bank as the most recently used of its set; the least recently used of a full set leaves. A
pinned line is never chosen: a set of eight pinned lines takes no other. -/
def State.l1Fill (s : State) (bk rid line : Nat) (excl : Option Nat) : State :=
  let b := s.bank bk
  match b.lines.find? (fun l => l.line = line) with
  | some l =>
    s.setBank bk { b with lines := b.lines.filter (fun x => x.line ≠ line) ++ [if excl.isSome then { l with excl := excl } else l] }
  | none =>
    let inSet := b.lines.filter (fun l => l1Set l.line = l1Set line)
    if inSet.length < 8 then s.setBank bk { b with lines := b.lines ++ [⟨line, excl, 0⟩] }
    else match inSet.find? (fun l => !s.isPinned l.line) with
      | some v => ((s.stepBack v).modCluster (bk / 64) (fun c => { c with shadow := shadowAdd c.shadow rid v.line })).modBank bk
          (fun b => { b with lines := b.lines.filter (fun x => x.line ≠ v.line) ++ [⟨line, excl, 0⟩] })
      | none => s

/-- An `LDG`, `PREF` or atomic looks its line up (R120, R198): sampling counts, then use or fill. -/
def State.l1Access (s : State) (rid cid line : Nat) (fill : Bool) : State :=
  match s.l1Bank cid line with
  | none => s
  | some bk =>
    let hit := (s.bank bk).lines.any (fun l => l.line = line)
    let s := if !l1Sampled line then s else
      let sh := !hit && (s.cluster (bk / 64)).shadow.any (fun e => e.1 = rid && e.2 = line)
      let s := s.modBank bk (fun b => { b with sampled := b.sampled + 1,
                                               hits := if hit then b.hits + 1 else b.hits,
                                               shadowHits := if sh then b.shadowHits + 1 else b.shadowHits })
      if sh then s.modCluster (bk / 64) (fun c => { c with shadow := c.shadow.filter (fun e => !(e.1 = rid && e.2 = line)) })
      else s
    if hit || fill then s.l1Fill bk rid line none else s

/-! ### Grants and pins -/

/-- The accessing thread is within a pin's scope (R220). -/
def Pin.admits (p : Pin) (slot : Nat) : Bool := p.scope = 1 || p.holders.any (fun h => h.1 = slot)

/-- The pins, with their cores, that a core's new pin of a line widens first: its oldest where it holds 16 (R220), and where
every line of the set is pinned the least recently used of them (log entry 76). -/
def State.pinVictims (s : State) (cid line : Nat) : List (Nat × Pin) :=
  let c := s.core cid
  let old := if c.pins.length < 16 then [] else (c.pins.take 1).map (fun p => (cid, p))
  match s.l1Bank cid line with
  | none => old
  | some bk =>
    let inSet := (s.bank bk).lines.filter (fun l => l1Set l.line = l1Set line)
    if inSet.length < 8 || inSet.any (fun l => l.line = line || !s.isPinned l.line) || old.any (fun v => inSet.any (fun l => l.line = v.2.line))
    then old
    else old ++ (inSet.head?.bind (fun l => s.pinOf l.line)).toList

/-- A pin is widened to `.clu` on behalf of all its holders: the line goes home (R220, R221). -/
def State.unpinLine (s : State) (v : Nat × Pin) : State :=
  (s.modCore v.1 (fun c => { c with pins := c.pins.map (fun p => if p.line = v.2.line then { p with holders := [] } else p) })).unpin v.1

/-- Pins a line for a narrow release (R220): the core's L1 takes it, once the pins that make room for it are widened. -/
def State.pinLine (s : State) (r : Req) (line scope : Nat) : State :=
  let c := s.core r.cid
  match c.pins.find? (fun p => p.line = line) with
  | some _ =>
    s.setCore r.cid { c with pins := c.pins.map (fun p => if p.line ≠ line then p else
      { p with scope := max p.scope scope,
               holders := if p.holders.any (fun h => h.1 = r.slot) then p.holders else p.holders ++ [(r.slot, r.id)] }) }
  | none =>
    let s := (s.pinVictims r.cid line).foldl State.unpinLine s
    let s := (s.returnGrant line).invalidate line (s.l1Bank r.cid line)
    let s := match s.l1Bank r.cid line with
      | some bk => s.l1Fill bk r.rid line none
      | none => s
    s.modCore r.cid (fun c => { c with pins := c.pins ++ [⟨line, scope, [(r.slot, r.id)]⟩] })

/-- Releases a thread's hold on pins narrower than a scope (R217, R221): at `.core` they take that scope, else the hold
ends and a line without holders is written home. -/
def State.widenPins (s : State) (cid slot : Nat) (sc : Scope) : State :=
  if sc.rank = 0 then s
  else
    let mine (p : Pin) : Bool := p.scope < sc.rank && p.holders.any (fun h => h.1 = slot)
    if sc.rank = 1 then
      s.modCore cid (fun c => { c with pins := c.pins.map (fun p => if mine p then { p with scope := 1 } else p) })
    else
      (s.modCore cid (fun c => { c with pins := c.pins.map (fun p =>
        if mine p then { p with holders := p.holders.filter (fun h => h.1 ≠ slot) } else p) })).unpin cid

/-! ### Pins of a bank that leaves the cache role (R120) -/

/-- The cores of a bank's cluster. -/
def bankCores (bank : Nat) : List Nat := (List.range 16).map (32 * (bank / 64) + ·)

/-- The pinned lines of a core that stand in a bank. -/
def State.pinIn (s : State) (bank cid : Nat) (p : Pin) : Bool := s.l1Home cid p.line = some bank

/-- The pins in a bank, but those of some cores, can be widened on behalf of all their holders (R120, R221). -/
def State.pinsFree (s : State) (bank : Nat) (but : List Nat) : Bool :=
  (bankCores bank).all (fun c => but.contains c || s.pinsReady c ((s.core c).pins.filter (s.pinIn bank c)) none)

/-- The pins in a bank are widened, and their lines written back. -/
def State.pinsLeave (s : State) (bank : Nat) : State :=
  (bankCores bank).foldl (fun s c =>
    (s.modCore c (fun x => { x with pins := x.pins.map (fun p => if s.pinIn bank c p then { p with holders := [] } else p) })).unpin c) s

/-! ### The table of recent atomic lines (R201) -/

/-- An atomic of a core: its run, and the slice's table of 256 lines. -/
def State.atomicRun (s : State) (line cid : Nat) : State × Nat :=
  let sl := s.sliceOf (line * 128)
  let x := s.slice sl
  let run := match x.recent.find? (fun e => e.1 = line) with
    | some (_, c, n) => if c = cid then n + 1 else 1
    | none => 1
  let l := x.recent.filter (fun e => e.1 ≠ line) ++ [(line, cid, run)]
  (s.setSlice sl { x with recent := l.drop (l.length - 256) }, run)

/-! ### Paths -/

/-- The line lies in a migrating page, old or new (R196, R201). -/
def State.migrating (s : State) (pa : Nat) : Bool :=
  match s.host.mig with
  | some m => (m.old ≤ pa && pa < m.old + m.size) || (m.new ≤ pa && pa < m.new + m.size)
  | none => false

/-- A die link, as 4 × lower die + higher die (R6). -/
def linkCode (a b : Nat) : Nat := 4 * min a b + max a b

/-- A die link is up. -/
def State.linkUp (s : State) (a b : Nat) : Bool := !s.linksDown.contains (linkCode a b)

/-- The die that relays between the dies of a diagonal pair (R6): the lower-numbered of the two adjacent to both while both of
its links to the pair are up, else the other if its own are. -/
def State.relayDie (s : State) (a b : Nat) : Option Nat :=
  let r := if min a b = 0 then (1, 2) else (0, 3)
  if s.linkUp a r.1 && s.linkUp r.1 b then some r.1
  else if s.linkUp a r.2 && s.linkUp r.2 b then some r.2
  else none

/-- Two dies can reach each other: over their link, or through their relaying die (R6). -/
def State.diesLinked (s : State) (a b : Nat) : Bool :=
  if a = b then true
  else if a + b = 3 then (s.relayDie a b).isSome
  else s.linkUp a b

/-- A package can be reached over the Porrok links: its route names a live port (R355, R356). -/
def State.pkgReach (s : State) (k : Nat) : Bool :=
  k = s.host.pkgId || (List.range 16).any (fun p => (Table.get (0 : Word) s.host.route k).toNat / 2 ^ p % 2 = 1 && !s.portsDown.contains p)

/-- The path from a die to a PA is up (R340, R356). -/
def State.diePath (s : State) (die key : Nat) : Bool :=
  if paPkg s.host.pkgId key = s.host.pkgId then s.diesLinked die (homeSlice key / 32) else s.pkgReach (paPkg s.host.pkgId key)

/-- The path of an access of a core. -/
def State.pathUp (s : State) (cid key : Nat) : Bool := s.diePath (dieOf cid) key

/-- The paths of a walk from a die are up: those to the entries that it reads (R6, R192). -/
def State.walkPath (s : State) (r : Region) (die va : Nat) : Bool :=
  (walkReads s va walkLevels (r.field 11)).all (s.diePath die)

/-- The paths of an access at a VA that the part makes for itself are up, its walk's included. -/
def State.vaPath (s : State) (r : Region) (die va : Nat) : Bool :=
  s.walkPath r die va && (match s.translate r die va false false with
    | .pa pa _ _ => s.diePath die (s.fwd pa)
    | _ => true)

/-- The VAs of the lines of [va, va + n), each at its first byte in the range. -/
def vaLines (va n : Nat) : List Nat :=
  if n = 0 then [] else (List.range ((va + n - 1) / 128 + 1 - va / 128)).map (fun i => max va ((va / 128 + i) * 128))

/-- The first VA of a range whose path is down. -/
def State.pathCut (s : State) (r : Region) (die va n : Nat) : Option Nat := (vaLines va n).find? (fun a => !s.vaPath r die a)

/-- The path between two clusters is up: die links inside the package (R6, R340), Porrok links beyond it (R356). -/
def State.clustersLinked (s : State) (cl far : Nat) : Bool :=
  if 576 ≤ far then s.pkgReach (far / 1024 - 1) else s.diesLinked (cl / 144) (far / 144)

/-! ### Engines at lines (R220, R222) -/

/-- An engine of a core's cluster may access a line now: no pin holds it (R220), no copy but its own has still to write it
(R222), and its path is up. -/
def State.engClear (s : State) (cid key : Nat) (mine : CopyRun → Bool) : Bool :=
  (s.pinOf (lineOf key)).isNone && s.pathUp cid key &&
  !s.clusters.any (fun (_, c) => c.copies.any (fun run => !mine run && run.owns s key))

/-- A read by an engine: a granted line returns, and a run of atomics ends (R201, R222). -/
def State.engSees (s : State) (key : Nat) : State := s.lineSeen (lineOf key) engineCid

/-- A fault of a path that is down (R340), which names the address. -/
def linkFlt (a : Nat) : Flt := fltAt fLinkDown (wrap64 a)

/-- No engine owns the line (R222), and no pin keeps a thread from it (R220). -/
def State.lineClear (s : State) (cid slot key : Nat) : Bool :=
  !s.engineOwns key && (match s.pinOf (lineOf key) with
    | some (c, pin) => c = cid && pin.admits slot
    | none => true)

/-- The tinker, or another agent that is no core, may access a line: it is not pinned, and no engine owns it (R220, R222). -/
def State.tinkerClear (s : State) (pa : Nat) : Bool := !s.isPinned (lineOf pa) && !s.engineOwns pa

/-- A tinker or an engine of a die may access the lines of a VA range: their paths are up, and they are free (R6, R220, R222). -/
def State.rangeClear (s : State) (r : Region) (die va n : Nat) : Bool :=
  (s.pathCut r die va n).isNone && (vaLines va n).all (fun a => match s.translate r die a false false with
    | .pa pa _ _ => s.tinkerClear (s.fwd pa)
    | _ => true)

/-- It has read the lines of a VA range: grants return, and runs of atomics end (R201). -/
def State.vaSeen (s : State) (r : Region) (die va n : Nat) : State :=
  (vaLines va n).foldl (fun s a => match s.translate r die a false false with
    | .pa pa _ _ => s.lineSeen (lineOf (s.fwd pa)) engineCid
    | _ => s) s

/-- What a thread's read of bytes at a VA meets that is no load of its own: a path that is down (R340), a line that it waits for
(R220, R222), poison (R342). -/
inductive ReadMeet where
  | go | wait | stop (f : Flt)
  deriving DecidableEq, Repr

/-- A thread reaches the entries of its walk to a VA (R6, R340). -/
def State.walkUp (s : State) (cid va : Nat) : Bool := (s.regionOf cid).all (fun r => s.walkPath r (dieOf cid) va)

/-- The lines of the entries of its walk to a VA. -/
def State.walkTo (s : State) (cid va : Nat) : List Nat :=
  ((s.regionOf cid).toList.flatMap (fun r => walkReads s va walkLevels (r.field 11))).map lineOf

def State.readMeet (s : State) (cid slot va key n : Nat) : ReadMeet :=
  if !s.walkUp cid va || !s.pathUp cid key then .stop (linkFlt va)
  else if !s.lineClear cid slot key then .wait
  else match s.poisoned key n with
    | some k => .stop (poisonFlt (va + k - key))
    | none => .go

/-- The same for several reads (VA, key, bytes) in order: the first that does not go on. -/
def State.readsMeet (s : State) (cid slot : Nat) : List (Nat × Nat × Nat) → ReadMeet
  | [] => .go
  | (va, key, n) :: t => match s.readMeet cid slot va key n with
    | .go => s.readsMeet cid slot t
    | m => m

/-! ### One access -/

def Req.setPiece (r : Req) (i : Nat) (p : Piece) : Req := { r with pieces := r.pieces.set i p }

/-- A store into banks of its own cluster lets an arrival of its thread count from the next cycle on (R112): one that waits, and
one that issues later in this cycle. -/
def State.noteStore (s : State) (r : Req) : State :=
  if r.op.rendezvous && r.space = .scratch then
    let s := if r.dropped then s else s.modThread r.cid r.slot (fun t => { t with stored := s.cyc + 1 })
    { s with arrivals := s.arrivals.map (fun a =>
        if a.cid = r.cid && a.slot = r.slot && r.id < a.upTo then { a with earliest := max a.earliest (s.cyc + 1) } else a) }
  else s

/-- An access is performed: its data is kept, and the request is served when it was the last. -/
def State.pieceDone (s : State) (r : Req) (i data : Nat) (result : Nat) : State :=
  match r.pieces[i]? with
  | none => s
  | some p =>
    let r := r.setPiece i { p with data := data, done := true }
    let r := { r with result := result }
    if r.pieces.all (fun p => p.done) then (s.noteStore r).setReq { r with stage := .served } else s.setReq r

/-- The new value of an atomic (R204, R205); none where it does not write. -/
def atomicNew (op : Nat) (dw : Bool) (old b cmp payload : Nat) : Option Nat :=
  let n := if dw then 64 else 32
  let sg (x : Nat) : Int := if x < 2 ^ (n - 1) then (x : Int) else (x : Int) - 2 ^ n
  match op with
  | 0 => some ((old + b) % 2 ^ n)
  | 1 => some (Nat.land old b)
  | 2 => some (Nat.lor old b)
  | 3 => some (Nat.xor old b)
  | 4 => some (if sg old ≤ sg b then old else b)
  | 5 => some (if sg old ≤ sg b then b else old)
  | 6 => some (min old b)
  | 7 => some (max old b)
  | 8 => some b
  | 9 => if old = cmp then some b else none
  | _ => some (Fmt.fp32.finish .rne 0 payload (exactAdd .rne (Fmt.fp32.decode old) (Fmt.fp32.decode b)))

/-- The value a returning atomic writes (R204). -/
def atomicOld (dw : Bool) (old : Nat) : Nat := (if dw then BitVec.ofNat 64 old else (BitVec.ofNat 32 old).signExtend 64).toNat

/-- A write of a line: at the home slice after every other copy is invalidated, or in the L1 that pins it (R197, R220). -/
def State.lineWrite (s : State) (cid : Nat) (inL1 : Bool) (key size data : Nat) : State :=
  let s := (s.invalidate (lineOf key) (s.l1Bank cid (lineOf key))).otherAccess (lineOf key) cid
  if inL1 then { s.write key size data with poison := cleanPoison s.poison key size } else s.paWrite key size data

/-- An access refused by a pin (R220): counted, sent again 64 cycles later, stopping the thread at scope_retry. -/
def State.refusePinned (s : State) (r : Req) (p : Piece) : State :=
  let n := r.refusals + 1
  let limit := match s.region? r.rid with | some g => g.field 19 | none => 1024
  if limit ≤ n then s.failReq { r with refusals := n } (fltAt fScopeRetry (r.eaOf s p))
  else s.setReq { r with refusals := n, stage := .refused (s.cyc + Config.resendCycles) }

/-- What a release does to pins as it is performed (R217, R220, R221): its thread's narrower pins are widened to its scope, and a
narrow one pins its line. -/
def State.releaseEffects (s : State) (r : Req) (line : Nat) (p : Piece) : State :=
  match r.ord.relScope with
  | some sc => if s.pinning r p then (s.widenPins r.cid r.slot sc).pinLine r line sc.rank else s.widenPins r.cid r.slot ((s.effScope r p).getD sc)
  | none => s

/-- The third consecutive atomic of a core grants the line to its L1, where nothing forbids it (R201, R222). -/
def State.grantRun (s : State) (run : Nat) (nc : Bool) (rid cid key : Nat) : State :=
  if run = 3 && !nc && !s.migrating key && !s.engineOwns key then
    match s.l1Bank cid (lineOf key) with
    | some bk => (s.invalidate (lineOf key) (some bk)).l1Fill bk rid (lineOf key) (some cid)
    | none => s
  else s

/-- An atomic performed in a granted line steps the count that the line carries home (R201). -/
def State.countExcl (s : State) (bk line : Nat) : State :=
  let bump (l : L1Line) : L1Line := if l.line = line && l.excl.isSome then { l with steps := l.steps + 1 } else l
  s.modBank bk (fun b => { b with lines := b.lines.map bump })

/-- A core's L1 drops its copy of a line; a pinned one stays (R203). -/
def State.dropCopy (s : State) (cid line : Nat) : State :=
  match s.l1Bank cid line with
  | some bk => if s.isPinned line then s else s.modBank bk (fun b => { b with lines := b.lines.filter (fun l => l.line ≠ line) })
  | none => s

/-- The access itself, at the line's ordering point. `inL1`: performed in the L1 that pins the line or holds its grant. An
`RST` performed there reports the home slice's count as it stands (log entry 114). -/
def State.doAccess (s : State) (r : Req) (i : Nat) (p : Piece) (key : Nat) (inL1 : Bool) : State :=
  let line := lineOf key
  let poison := s.poisoned key p.size
  match r.op with
  | .atomic op _ dw cmp =>
    if poison.isSome then s.failReq r (r.poisonFlt s p key)
    else
      let old := s.read key p.size
      let n := 8 * p.size
      let new := atomicNew op dw old (p.data % 2 ^ n) (cmp.toNat % 2 ^ n) (nanPayload r.bundle.toNat 0)
      let s := (if r.nc then s else s.l1Access r.rid r.cid line false).releaseEffects r line p
      let inL1 := inL1 || s.pinning r p
      let (s, run) := if inL1 then (s, 0) else s.atomicRun line r.cid
      let s := match new with
        | none => s
        | some v => if inL1 then
            let s := match s.l1Bank r.cid line with
              | some bk => (s.invalidate line (some bk)).countExcl bk line
              | none => s
            { s.write key p.size v with poison := cleanPoison s.poison key p.size }
          else (s.invalidate line (s.l1Bank r.cid line)).paWrite key p.size v
      (s.grantRun run r.nc r.rid r.cid key).pieceDone r i p.data (atomicOld dw old)
  | .pref => (if r.nc then s.otherAccess line r.cid else (s.l1Access r.rid r.cid line true).otherAccess line r.cid).pieceDone r i 0 0
  | .cclean => (match s.grantOf line with
      | some (_, c) => if c = r.cid then s.returnGrant line else s
      | none => s).otherAccess line r.cid |>.pieceDone r i 0 0
  | .cinval => ((match s.grantOf line with
      | some (_, c) => if c = r.cid then s.returnGrant line else s
      | none => s).dropCopy r.cid line).otherAccess line r.cid |>.pieceDone r i 0 0
  | op =>
    if op.writes then
      let s := s.releaseEffects r line p
      let pinned := inL1 || s.pinning r p
      let s := s.lineWrite r.cid pinned key p.size (p.data % 2 ^ (8 * p.size))
      s.pieceDone r i p.data (if op.isRst.isSome then (s.slice (s.sliceOf key)).apply else 0)
    else
      match poison with
      | some _ => s.failReq r (r.poisonFlt s p key)
      | none =>
        let v := s.read key p.size
        let s := if r.op.isVec || r.nc then s.otherAccess line r.cid else (s.l1Access r.rid r.cid line true).otherAccess line r.cid
        s.pieceDone r i v v

/-- The bytes of a bank that lies in another package cannot be held by a region of this one (R115, R280). -/
def farCluster (cl : Nat) : Bool := 576 ≤ cl

/-- An access has reached its home slice, and waits there for the recall of its line (R201). -/
def State.atSlice (s : State) (r : Req) (line : Nat) : Req := { r with stage := .recall, reach := some (line, s.nextId) }

/-- ONE ACCESS AT A LINE (R197, R201, R220): a load that the buffer covers is served from it; a pinned line refuses
agents outside its scope, the tinker without count; a granted line is recalled for all but its holder's loads and atomics. A
bank that leaves the cache role performs nothing: the line's accesses go to L2 (R120). A `PREF` that meets a pin or a path that is down has no effect (R203). -/
def State.performLine (s : State) (r : Req) (i : Nat) (p : Piece) : State :=
  match s.coverOf r p with
  | .all v deps => (s.noteDeps r deps).pieceDone r i v v
  | _ =>
    let key := s.fwd p.key
    let line := lineOf key
    if !s.pathUp r.cid key then
      if r.op = .pref then s.pieceDone r i 0 0 else s.failReq r (fltAt fLinkDown (r.eaOf s p))
    else match s.pinOf line with
    | some (c, pin) =>
      if c = r.cid && (pin.admits r.slot || s.pinning r p) then (s.noteDeps r []).doAccess r i p key (s.l1Bank r.cid line).isSome
      else if r.op = .pref then s.pieceDone r i 0 0
      else if isSup r.cid then s
      else s.refusePinned r p
    | none =>
      match s.grantOf line with
      | some (_, c) =>
        if c = r.cid && r.op.isLine then s.doAccess r i p key false
        else if c = r.cid && (!r.op.writes || r.op.isAtomic) && (s.l1Bank r.cid line).isSome then s.doAccess r i p key true
        else s.setReq (s.atSlice r line)
      | none => s.doAccess r i p key false

/-- The access had reached a line's slice before a copy began (R222). -/
def Req.reached (r : Req) (run : CopyRun) (key : Nat) : Bool :=
  match r.reach with
  | some (l, n) => l = lineOf key && n ≤ run.began
  | none => false

/-- A copy that owns a line holds an access back, but for one that had reached the slice before it began (R222), and for the
stores of a pair for which such a one is held there (R173). -/
def State.engineHolds (s : State) (r : Req) (key : Nat) : Bool :=
  let first (run : CopyRun) : Bool := r.reached run key || s.reqs.any (fun e => r.follows e && e.reached run key)
  s.clusters.any (fun (_, c) => c.copies.any (fun run => run.owns s key && !first run))

/-- An access reached a line's slice before a copy began, and has still to be performed: the copy's writes come after it (R222). -/
def State.reachedFirst (s : State) (run : CopyRun) (key : Nat) : Bool :=
  s.reqs.any (fun r => r.reached run key && r.pieces.any (fun p => !p.done && lineOf (s.fwd p.key) = lineOf key))

/-- Nothing but order stands in an access's way at its line: no engine owns it (R222), and a new pin finds the stores of the
holders performed whose pins it widens (R220). -/
def State.lineReady (s : State) (r : Req) (p : Piece) : Bool :=
  !s.engineHolds r (s.fwd p.key) &&
  (!s.pinning r p || (s.core r.cid).pins.any (fun q => q.line = lineOf p.key) ||
    (s.pinVictims r.cid (lineOf p.key)).all (fun v => s.pinsReady v.1 [v.2] none))

end Sys2Proof.Machine
end

