-- ==== Sys2Proof/Machine/Banks.lean ====
section
/-! DEFINITION. Scratchpad banks as ordering points: one request served at its bank (R128 to R131), park tables and
refusals (R132 to R134), stream stores and commit tables (R172 to R177), and the spill log of a displaced team (R335). -/

namespace Sys2Proof.Machine

/-! ### Full/empty operations -/

/-- How a bank answers a request: it proceeds with data, cannot proceed, or faults. -/
inductive BankAns where
  | go (s : State) (data : Nat)
  | wait
  | poison
  | refused

/-- One access at its bank, tested and performed as one step (R129). The access is to an aligned word for full/empty
operations; a synchronising access to a poisoned word has no effect, whatever the word's bit (R342). Each access of a `VSCAT`
counts the elements it touches for itself (log entry 138). -/
def State.atBank (s : State) (r : Req) (p : Piece) : BankAns :=
  let cl := r.cl
  let sa := p.addr
  let bk := bankKey cl (bankOfSa sa)
  let wkey := p.key / 8 * 8
  let bad : Bool := (s.poisoned wkey 8).isSome
  let begun := (s.bank bk).role = .closing r.rid && r.pieces.any (fun q => q.done && bankOfSa q.addr = bankOfSa sa)
  if farCluster cl || !(s.bankHeld r.rid cl (bankOfSa sa) || begun) then .refused
  else match r.op with
  | .lds =>
    if bad then .poison
    else if s.isFull wkey then .go ((s.setFull wkey false).stepBank bk) (s.read wkey 8) else .wait
  | .ldf => if bad then .poison else if s.isFull wkey then .go s (s.read wkey 8) else .wait
  | .sts =>
    if bad then .poison
    else if s.isFull wkey then .wait else .go ((s.scratchWrite cl sa 8 p.data).setFull wkey true) 0
  | .stf => if bad then .poison else .go ((s.scratchWrite cl sa 8 p.data).setFull wkey true) 0
  | .feset => .go ((s.setFull wkey true).stepBank bk) 0
  | .feclr => .go ((s.setFull wkey false).stepBank bk) 0
  | .feq => if bad then .poison else .go s (if s.isFull wkey then 1 else 0)
  | op =>
    if op.writes then .go (s.scratchWrite cl sa p.size (p.data % 2 ^ (8 * p.size))) 0
    else if (s.poisoned p.key p.size).isSome then .poison
    else .go s (s.read p.key p.size)

/-- The rights an operation needs, as word 5 of SEG_RIGHTS names them (R126). -/
def MemOp.rights : MemOp → Nat
  | .lds => rightR + rightS
  | .ldf => rightR + rightS
  | .feq => rightS
  | .sts => rightW + rightS
  | .stf => rightW + rightS
  | .feset => rightW + rightS
  | .feclr => rightW + rightS
  | op => if op.writes then rightW else rightR

/-! ### The spill log of a displaced team -/

/-- PA-independent places of a region's spill areas (R277, R334, R335), as VAs. -/
def Region.spillBase (r : Region) : Nat := r.field 26
def Region.ctx (r : Region) : Nat :=
  (r.spillBase + 64 * r.field 34 + 80 * r.field 33 * r.nTeams * r.coresPerTeam + 4095) / 4096 * 4096
def Region.imageSize (r : Region) : Nat := r.coresPerTeam * 0x4F000 + 0x274000
def Region.logBase (r : Region) : Nat := (r.ctx + r.nTeams * r.imageSize + 4095) / 4096 * 4096
def Region.logAt (r : Region) (team : Nat) : Nat := r.logBase + team * r.field 44 * 4096

/-- Entries a spill log holds (R335). -/
def Region.logCap (r : Region) : Nat := r.field 44 * 32

/-- The doublewords of an entry (R335). -/
def LogEntry.dws (s : State) : LogEntry → List Nat
  | .msg f => [1 + f.seq % 2 ^ 16 * 2 ^ 8 + f.didx * 2 ^ 24, f.ts, f.src] ++ f.payload.map (·.toNat)
  | .queued _ i a => [1 + a.seq % 2 ^ 16 * 2 ^ 8 + i * 2 ^ 24, a.ts, a.sender] ++ a.payload.map (·.toNat)
  | .write _ sa size data fe src _ =>
    [2 + size * 2 ^ 8 + fe * 2 ^ 16, sa, coordWord s.host.pkgId src] ++ (List.range 8).map (fun i => data / 2 ^ (64 * i) % 2 ^ 64)
  | .withdrawn r => [3 + r.slot * 2 ^ 8 + (s.core r.cid).pos * 2 ^ 12, r.id, (r.dst.getD 0) + 2 ^ 32 * r.refusals,
      (r.pieces.head?.map (·.addr)).getD 0, (r.pieces.head?.map (·.data)).getD 0 % 2 ^ 64]

/-- Writes doublewords at a VA of a region; none where a page is missing. -/
def writeDws (s : State) (r : Region) (die va : Nat) : List Nat → Option State
  | [] => some s
  | w :: ws => (s.writeVa r die va 8 w).bind (fun s => writeDws s r die (va + 8) ws)

/-- Appends an entry to a displaced team's log; none while it is full, or behind a path that is down (R6). A spill page that is
missing stops the region (R334). -/
def State.logAppend (s : State) (rid team : Nat) (e : LogEntry) : Option State :=
  match s.region? rid with
  | none => none
  | some r =>
    match Table.find r.teams team with
    | none => none
    | some t =>
      if r.logCap ≤ t.log.length || (s.pathCut r (t.cl / 144) (r.logAt team + 128 * t.log.length) 128).isSome then none
      else
        let dws := e.dws s ++ List.replicate (16 - (e.dws s).length) 0
        let r' := { r with teams := Table.set r.teams team { t with log := t.log ++ [e] } }
        match writeDws s r (t.cl / 144) (r.logAt team + 128 * t.log.length) dws with
        | some s => some (s.setRegion rid r')
        | none => some (s.setRegion rid { r' with stopDue := true })

/-- A write of a request as a log entry (R335). -/
def logWrite (r : Req) (p : Piece) : LogEntry :=
  let fe := match r.op with
    | .stf => 1
    | .feset => 1
    | .feclr => 2
    | _ => 0
  let size := match r.op with
    | .feset => 0
    | .feclr => 0
    | _ => p.size
  .write r.cl p.addr size (p.data % 2 ^ (8 * size)) fe r.cid false

/-! ### Park tables -/

/-- A request that cannot proceed (R133, R134): it takes an entry, or is refused and sent again 64 cycles later, until
fe_retry stops its thread. -/
def State.parkReq (s : State) (r : Req) (p : Piece) (bk : Nat) : State :=
  let b := s.bank bk
  if b.park.contains r.id then s
  else if b.park.length < 64 then (s.setBank bk { b with park := b.park ++ [r.id] }).setReq { r with stage := .parked }
  else
    let n := r.refusals + 1
    let limit := match s.region? r.rid with | some g => g.field 20 | none => 1024
    if limit ≤ n then s.failReq { r with refusals := n } (fltAt fFeRetry (r.eaOf s p))
    else s.setReq { r with refusals := n, stage := .refused (s.cyc + Config.resendCycles) }

/-- A bank's park table empties: its requests go on from another stage. -/
def State.emptyPark (s : State) (bk : Nat) (st : Req → Stage) : State :=
  let ids := (s.bank bk).park
  if ids.isEmpty then s
  else ({ s with reqs := s.reqs.map (fun r => if ids.contains r.id then { r with stage := st r } else r) } : State).modBank bk
    (fun b => { b with park := [] })

/-- The requests in the park table of a bank that its region holds no more are refused (R115, R118). -/
def State.refusePark (s : State) (bk : Nat) : State := s.emptyPark bk (fun r => .bounced fSegRights (r.seg + 8 * r.op.rights))

/-- Accesses of a request at a bank that are not performed yet, with their index. -/
def Req.todo (r : Req) (bk : Nat) : List (Nat × Piece) :=
  (r.pieces.zipIdx.filter (fun (p, _) => !p.done && bankKey r.cl (bankOfSa p.addr) = bk)).map (fun (p, i) => (i, p))

/-- One access of a request at a bank. A load that the buffer covers takes its bytes from there (R210); a full/empty access to
the thread's own home banks that cannot proceed waits in the port, without an entry and without retries (R130). -/
def State.bankOne (s : State) (id bk i : Nat) : State :=
  match s.req? id with
  | none => s
  | some r =>
    match r.pieces[i]? with
    | none => s
    | some p =>
      match s.coverOf r p with
      | .all v deps => (s.noteDeps r deps).pieceDone r i v v
      | _ =>
        if !s.clustersLinked (clOf r.cid) r.cl then s.failReq r (fltAt fLinkDown (r.eaOf s p))
        else match s.atBank r p with
        | .go s data =>
          let s := s.modBank bk (fun b => { b with park := b.park.filter (fun k => decide (k ≠ id)) })
          let s := match r.ord.relScope with
            | some sc => s.widenPins r.cid r.slot (if sc.rank < 2 then .clu else sc)
            | none => s
          let tag := if r.op.isRst.isSome then (s.bank bk).apply else data
          s.pieceDone r i (if r.op.writes then p.data else data) tag
        | .wait => if s.ownHome r then s else s.parkReq r p bk
        | .poison => s.failReq r (r.poisonFlt s p p.key)
        | .refused => s.setReq { r with stage := .bounced fSegRights (r.seg + 8 * r.op.rights) }

/-- A request served at its bank, access by access. -/
def State.bankServe (s : State) (id bk : Nat) : State :=
  match s.req? id with
  | none => s
  | some r => (r.todo bk).foldl (fun s (i, p) =>
      match s.req? id with
      | some r => if s.orderOk r p && r.pieceTurn i then s.bankOne id bk i else s
      | none => s) s

/-- The order of new requests at a bank (R132): across the crossbar by core and slot, then from the mesh by sender. -/
def arriveKey (r : Req) (bk : Nat) : Nat :=
  (if clOf r.cid = bk / 64 then 0 else 2 ^ 40) + (r.cid * 16 + r.slot)

def insertReq (bk : Nat) (r : Req) : List Req → List Req
  | [] => [r]
  | q :: t => if (arriveKey r bk) < (arriveKey q bk) || (arriveKey r bk = arriveKey q bk && r.id < q.id) then r :: q :: t
              else q :: insertReq bk r t

/-- The requests of a list of numbers, in the order of R132. -/
def State.inOrder (s : State) (bk : Nat) (ids : List Nat) : List Req :=
  (ids.filterMap s.req?).foldl (fun acc r => insertReq bk r acc) []

/-! ### Stream stores (R172 to R177) -/

/-- A stream store performed as a null (R177). -/
def State.nullStore (s : State) (r : Req) : State := s.setReq { r with stage := .served, nulled := true, result := 0 }

/-- The store in its turn: at its bank with its apply tag, as a null where the bank is not held, to the spill log of a
displaced team, or at its line (R173, R175, R177, R178). -/
def State.performStream (s : State) (r : Req) : State :=
  match r.pieces.head? with
  | none => s
  | some p =>
    if r.scratchy then
      let b := bankOfSa p.addr
      match s.displacedOwner r.rid r.cl b with
      | some team =>
        match s.logAppend r.rid team (logWrite r p) with
        | some s => s.pieceDone r 0 p.data 0
        | none => s
      | none =>
        if farCluster r.cl || !s.bankHeld r.rid r.cl b then s.nullStore r
        else
          let s := s.scratchWrite r.cl p.addr p.size (p.data % 2 ^ (8 * p.size))
          s.pieceDone r 0 p.data (s.bank (bankKey r.cl b)).apply
    else s.performLine r 0 p

/-- What a stream store meets at its destination in its turn: nothing, an engine that owns its line (R222), a grant to be
recalled (R201), a pin (R220), a full spill log (R178), or a path that is down (R340, R356). -/
inductive StreamMeet where
  | go | wait | recall | pinned | logFull | down
  deriving DecidableEq, Repr

def State.streamMeet (s : State) (r : Req) : StreamMeet :=
  match r.pieces.head? with
  | none => .wait
  | some p =>
    if r.scratchy then
      if !s.clustersLinked (clOf r.cid) r.cl then .down
      else match s.displacedOwner r.rid r.cl (bankOfSa p.addr) with
      | some team => (match (s.region? r.rid).bind (fun g => (Table.find g.teams team).map (fun t => decide (t.log.length < g.logCap))) with
        | some true => .go
        | _ => .logFull)
      | none => .go
    else if !s.lineReady r p then .wait
    else
      let key := s.fwd p.key
      if !s.pathUp r.cid key then .down
      else match s.pinOf (lineOf key) with
        | some (c, pin) => if c = r.cid && pin.admits r.slot then .go else if isSup r.cid then .wait else .pinned
        | none => if (s.grantOf (lineOf key)).isSome then .recall else .go

/-- A stream store that cannot be performed in its turn: it waits, is refused and sent again 64 cycles later, or stops its
thread; its pair goes on after one that has ended (`failReq`). -/
def State.streamHalt (s : State) (r : Req) : StreamMeet → State
  | .go => s
  | .wait => s
  | .recall => s.setReq (s.atSlice r (lineOf (s.fwd ((r.pieces.headD ⟨0, 0, 0, 0, 0, false⟩).key))))
  | .pinned => s.refusePinned r (r.pieces.headD ⟨0, 0, 0, 0, 0, false⟩)
  | .logFull => s.setReq { r with stage := .refused (s.cyc + Config.resendCycles) }
  | .down => s.failReq r (fltAt fLinkDown (r.eaOf s (r.pieces.headD ⟨0, 0, 0, 0, 0, false⟩)))

/-- Held stores whose number has come are performed in number order (R173); one that has ended is passed over. -/
def drainHeld : Nat → State → Nat → Nat → Nat → State
  | 0, s, _, _, _ => s
  | fuel + 1, s, dest, src, stream =>
    match s.commit? dest src stream with
    | none => s
    | some c =>
      match c.held.find? (fun h => h.1 = c.expect) with
      | none => s
      | some (n, id) =>
        let s' := s.setCommit { c with expect := (c.expect + 1) % 2 ^ 16, held := c.held.filter (fun h => h ≠ (n, id)) }
        match s.req? id with
        | none => drainHeld fuel s' dest src stream
        | some r =>
          match s.streamMeet r with
          | .go => drainHeld fuel (s'.performStream { r with stage := .sent }) dest src stream
          | m => s.streamHalt r m

/-- A store is held at its destination; at a slice it has reached its line (R222). -/
def State.heldReq (s : State) (r : Req) : Req :=
  { r with stage := .held
           reach := if r.scratchy then r.reach else r.reach.orElse (fun _ =>
             r.pieces.head?.map (fun p => (lineOf (s.fwd p.key), s.nextId))) }

/-- A stream store reaches its destination (R173). An open store replaces an entry that a displaced team has saved open
(log entry 140). -/
def State.streamArrive (s : State) (r : Req) : State :=
  match r.op.isRst, r.seqn with
  | some k, some n =>
    let isOpen : Bool := n = 0 && (s.core r.cid).streamTab.any (fun e => e.stream = k && e.dest = r.dest && e.openWait)
    if isOpen then
      if 512 ≤ (s.commits.filter (fun c => c.dest = r.dest)).length then
        s.setReq { r with stage := .refused (s.cyc + Config.resendCycles) }
      else match s.streamMeet r with
        | .go => (s.setCommit ⟨r.dest, r.cid, k, 1, []⟩).performStream r
        | m => s.streamHalt r m
    else match s.commit? r.dest r.cid k with
    | none => s.nullStore r
    | some c =>
      if n = c.expect then
        match s.streamMeet r with
        | .go => drainHeld 65 ((s.setCommit { c with expect := (c.expect + 1) % 2 ^ 16
                                                     held := c.held.filter (fun h => h.2 ≠ r.id) }).performStream
            { r with stage := .sent }) r.dest r.cid k
        | m => s.streamHalt r m
      else if c.held.any (fun h => h.2 = r.id) then s
      else (s.setCommit { c with held := c.held ++ [(n, r.id)] }).setReq (s.heldReq r)
  | _, _ => s

end Sys2Proof.Machine
end

