-- ==== Sys2Proof/Machine/Points.lean ====
section
/-! DEFINITION. Rendezvous points (R110, R112, R234): arrivals, bytes and phases. -/

namespace Sys2Proof.Machine

/-- A point at allotment (R109): uninitialised, phase 0. -/
def PointSt.fresh : PointSt := ⟨none, 0, 0, 0, 0⟩

def State.team? (s : State) (rid team : Nat) : Option Team := (s.region? rid).bind (fun r => Table.find r.teams team)

def State.point (s : State) (rid team pt : Nat) : PointSt :=
  match s.team? rid team with
  | some t => Table.get PointSt.fresh t.points pt
  | none => PointSt.fresh

def State.modTeam (s : State) (rid team : Nat) (f : Team → Team) : State :=
  s.modRegion rid (fun r => match Table.find r.teams team with
    | some t => { r with teams := Table.set r.teams team (f t) }
    | none => r)

def State.setPoint (s : State) (rid team pt : Nat) (p : PointSt) : State :=
  s.modTeam rid team (fun t => { t with points := Table.set t.points pt p })

/-- A phase completes (R110): arrivals return to 0 and the phase number advances. -/
def PointSt.complete (p : PointSt) (cyc : Nat) : PointSt :=
  { p with arrivals := 0, phase := (p.phase + 1) % 2 ^ 32, phaseAt := cyc + 1 }

/-- The phase completes once arrivals equal X and no byte is outstanding (R110). -/
def PointSt.settle (p : PointSt) (cyc : Nat) : PointSt :=
  if p.expect = some p.arrivals && p.bytes = 0 then p.complete cyc else p

/-- An arrival is counted (R111): the thread's tag is the phase it counts toward. -/
def State.countArrival (s : State) (a : RvWait) : State :=
  let p := s.point a.rid a.team a.point
  let s := s.setPoint a.rid a.team a.point ({ p with arrivals := p.arrivals + 1 : PointSt }.settle s.cyc)
  if a.slot < 16 then s.modThread a.cid a.slot (fun t => { t with rv := Table.set t.rv a.point (p.phase, true) }) else s

/-- Arrivals stand in the order in which those of one cycle are counted: ascending core and slot, each thread's in turn
(R111). -/
def insertArrival (a : RvWait) : List RvWait → List RvWait
  | [] => [a]
  | b :: t => if a.cid * 16 + a.slot % 16 < b.cid * 16 + b.slot % 16 then a :: b :: t else b :: insertArrival a t

/-- The arrival may be counted (R112): every earlier store of its thread into banks of its own cluster is performed, in
an earlier cycle. -/
def State.arrivalReady (s : State) (a : RvWait) : Bool :=
  a.earliest ≤ s.cyc &&
  !s.unperformed a.cid (a.slot % 16) (fun r => r.op.rendezvous && r.space = .scratch && r.id < a.upTo)

/-- Landed bytes of a command count against a point (R231, R234): bytes beyond the counter complete the phase at once,
once in a cycle,
and the command becomes excess; it gives the bytes that count nowhere. -/
def State.landBytes (s : State) (rid team pt n : Nat) (excess : Bool) : State × Bool × Nat :=
  if excess then (s, true, n)
  else if n = 0 then (s, false, 0)
  else
    let p := s.point rid team pt
    if n ≤ p.bytes then (s.setPoint rid team pt ({ p with bytes := p.bytes - n : PointSt }.settle s.cyc), false, 0)
    else if p.phaseAt = s.cyc + 1 then (s.setPoint rid team pt { p with bytes := 0 }, true, n - p.bytes)
    else (s.setPoint rid team pt { p.complete s.cyc with bytes := 0 }, true, n - p.bytes)

/-- The threads of a team that an `RVWAIT` keeps parked no longer: its point's phase has moved on (R111). -/
def State.rvDone (s : State) (cid slot pt : Nat) : Bool :=
  let c := s.core cid
  let p := s.point (c.region.getD 0) c.team pt
  let t := s.thread cid slot
  let uncounted := s.arrivals.any (fun a => a.cid = cid && a.slot = slot && a.point = pt)
  if uncounted then false
  else match Table.find t.rv pt with
    | some (ph, true) => p.phase ≠ ph
    | _ => match t.rvWait with
      | some (q, ph) => q = pt && p.phase ≠ ph
      | none => false

end Sys2Proof.Machine
end

