-- ==== Sys2Proof/Machine/Paging.lean ====
section
/-! DEFINITION. Page faults and user pagers (R192 to R195): upcalls, the drop of a thread, and the tinker's answer to
`PGFILL`. -/

namespace Sys2Proof.Machine

/-- Needed rights of an operation as upcall bits (R194). -/
def MemOp.dropBits (op : MemOp) : Nat := (if op.needsW then 4 else 0) + (if op.isAtomic then 1 else 0)

/-! ### PGFILL (R195) -/

/-- Where the walk to a VA meets its first missing entry: the level and the entry's PA. -/
def missAt (s : State) (va : Nat) : List (Nat × Nat × Nat) → Nat → Option (Nat × Nat)
  | [], _ => none
  | (level, lo, w) :: rest, table =>
    let a := table + 8 * (va / 2 ^ lo % 2 ^ w)
    let e := s.dw (s.fwd a)
    if !pteV e then some (level, a)
    else if pteMalformed level lo e || pteLeaf e then none
    else missAt s va rest (ptePa e)

/-- Copies `n` bytes: the listed bytes of the source, everything else zero. -/
def State.copyMem (s : State) (src dst n : Nat) : State :=
  let s := (s.rangeSeen src n engineCid).rangeTaken dst n
  let l := Table.slice s.mem src n
  let s := s.clearMem dst n
  { s with mem := l.foldl (fun m (k, b) => Table.put memDflt m (dst + (k - src)) b) s.mem,
           poison := (wordsIn s.poison src n).foldl (fun p w => NatSet.add p ((dst + (8 * w - src)) / 8)) (cleanPoison s.poison dst n) }

/-- A PA's lines step their slices once each: a page or table written by the tinker (R175). -/
def State.stepLines (s : State) (pa n : Nat) : State :=
  (List.range (n / 128)).foldl (fun s i => s.stepSlice (s.sliceOf (s.fwd (pa + 128 * i)))) s

/-- Whole lines copied, and cleared, where a migration has them (R196). -/
def State.copyLines (s : State) (src dst n : Nat) : State :=
  if s.host.mig.isNone then s.copyMem src dst n
  else (List.range (n / 128)).foldl (fun s i => s.copyMem (s.fwd (src + 128 * i)) (s.fwd (dst + 128 * i)) 128) s
def State.clearLines (s : State) (pa n : Nat) : State :=
  if s.host.mig.isNone then (s.rangeTaken pa n).clearMem pa n
  else (List.range (n / 128)).foldl (fun s i => (s.rangeTaken (s.fwd (pa + 128 * i)) 128).clearMem (s.fwd (pa + 128 * i)) 128) s

/-- Tables from the pool: the next 4 KiB unit and where the one after it lies; `fresh` is a new pool page for them. -/
def nextTable (cur fresh : Nat) : Nat × Nat := if cur % 65536 = 0 then (fresh, fresh + 4096) else (cur, cur + 4096)

/-- Allots the missing tables below an entry, and gives the PA of the level-4 entry for the page. -/
def allotTables (fresh va : Nat) : List (Nat × Nat × Nat) → State → Nat → Nat → State × Nat × Nat
  | [], s, a, cur => (s, a, cur)
  | (_, lo, w) :: rest, s, a, cur =>
    let (t, cur) := nextTable cur fresh
    let s := (s.clearLines t 4096).stepLines t 4096
    let s := s.homeWrite (s.fwd a) 8 (2 ^ 63 + t)
    allotTables fresh va rest s (t + 8 * (va / 2 ^ lo % 2 ^ w)) cur

/-- Every thread dropped on a page stops with PAGE_DENIED (R195). -/
def State.declinePage (s : State) (rid page detail : Nat) : State :=
  let s := s.modRegion rid (fun r => { r with upcalls := r.upcalls.filter (fun u => u.page ≠ page) })
  let s := s.modSaved rid (page * 65536) (page * 65536 + 65536) (Thread.deny detail)
  (s.droppedIn rid (page * 65536) (page * 65536 + 65536)).foldl (fun s (c, k) =>
    stopDropped s c k (pageDenied detail (s.thread c k).dropVa)) s

/-- Every thread dropped on a page is sent its wake message. -/
def State.wakePage (s : State) (rid page : Nat) : State :=
  let s := s.modRegion rid (fun r => { r with upcalls := r.upcalls.filter (fun u => u.page ≠ page) })
  let s := s.modSaved rid (page * 65536) (page * 65536 + 65536) (fun t => { t with woken := true })
  (s.droppedIn rid (page * 65536) (page * 65536 + 65536)).foldl (fun s (c, k) =>
    s.modThread c k (fun t => { t with woken := true })) s

/-- The tinker reaches the next two pages of a region's pool: the page to fill, and one for tables (R6, R195). -/
def State.poolPath (s : State) (r : Region) (die : Nat) : Bool :=
  (List.range 1024).all (fun i => s.diePath die (s.fwd ((r.field 27 + r.poolNext) * 65536 + 128 * i)))

/-- The tinker may walk to the entry that is missing for a `PGFILL` and write it, read the source page, and write the pages of the
pool (R6, R220, R222). -/
def State.fillClear (s : State) (rid die page b : Nat) : Bool :=
  match s.region? rid with
  | none => true
  | some r => b = 0 || (s.walkPath r die (page * 65536) &&
    (match missAt s (page * 65536) walkLevels (r.field 11) with
      | some (_, a) => s.tinkerClear (s.fwd a)
      | none => true) &&
    s.rangeClear r die b 65536 && s.poolPath r die)

/-- The tinker's work for a `PGFILL` of a page from source VA b (R195), with the rights of the registration. -/
def State.fillPage (s : State) (rid die page b : Nat) (w x : Bool) : State :=
  match s.region? rid with
  | none => s
  | some r =>
    let va := page * 65536
    if b = 0 then s.declinePage rid page 1
    else match missAt s va walkLevels (r.field 11) with
    | none => s
    | some (level, a) =>
      let tables := 4 - level
      let left := if r.tableNext % 65536 = 0 then 0 else (65536 - r.tableNext % 65536) / 4096
      let need := 1 + (if tables ≤ left then 0 else 1)
      if r.field 21 < r.poolNext + need then s.declinePage rid page 2
      else match s.translate r die b false false with
      | .pa src _ _ =>
        let data := (r.field 27 + r.poolNext) * 65536
        let fresh := data + 65536
        let s := (s.copyLines src data 65536).stepLines data 65536
        let (s, a, cur) := allotTables fresh va (walkLevels.drop (level + 1)) s a r.tableNext
        let s := s.homeWrite (s.fwd a) 8 (2 ^ 63 + 2 ^ 62 + (if w then 2 ^ 61 else 0) + (if x then 2 ^ 60 else 0) + data)
        let s := s.modRegion rid (fun r => { r with poolNext := r.poolNext + need, tableNext := cur })
        s.wakePage rid page
      | _ => s.declinePage rid page 3

end Sys2Proof.Machine
end

