-- ==== Sys2Proof/Machine/PortEvents.lean ====
section
/-! DEFINITION. The memory port's own steps (R73, R97, R112, R126, R133, R134, R171 to R177, R192 to R197, R201, R209,
R220, R320, R322, R335): each comes about where its condition holds, and changes nothing elsewhere. -/

namespace Sys2Proof.Machine

abbrev Out' := Host.Outcome State Fault Refusal

/-! ### Results and acknowledgements -/

/-- Operations that write a register when served (R73); all others are acknowledged (R209). -/
def MemOp.late : MemOp → Bool
  | .load _ => true
  | .vload => true
  | .lds => true
  | .ldf => true
  | .feq => true
  | .swait _ => true
  | .sseq _ => true
  | .frecrd _ _ => true
  | .accrd _ _ _ => true
  | .tkfirst _ => true
  | .bankalloc _ => true
  | .atomic _ ret _ _ => ret
  | .store => false
  | .vstore => false
  | .sts => false
  | .stf => false
  | .feset => false
  | .feclr => false
  | .rst _ => false
  | .mst => false
  | .pref => false
  | .cclean => false
  | .cinval => false
  | .fetch => false
  | .launch _ => false
  | .pgfill _ => false
  | .ctxsave _ => false
  | .engWord _ _ => false
  | .sendMsg _ _ _ => false
  | .tickCmd _ _ => false
  | .areaCmd _ _ _ => false

/-- The word of an occupied mailbox slot that a `FRECRD` reads: its VA and its key; none for a read of an engine's record, or of
an empty slot (R329). -/
def State.mailWord (s : State) (r : Req) : Option (Nat × Nat) :=
  match r.op, s.region? r.rid with
  | .frecrd sel w, some g =>
    let slot := sel.toNat % 16
    if sel.toNat / 2 ^ 62 = 0 && g.mail.contains slot then
      let va := g.field 24 + 64 * slot + 8 * w
      (match s.translate g 0 va false false with
        | .pa pa _ _ => some (va, s.fwd pa)
        | _ => none)
    else none
  | _, _ => none

/-- What such a read meets at its word. -/
def State.mailMeet (s : State) (r : Req) : ReadMeet :=
  match s.mailWord r with
  | some (va, key) => s.readMeet r.cid r.slot va key 8
  | none => .go

/-- A read that is performed as its result returns: `FRECRD` in the order of an acquire (R329). -/
def State.portReady (s : State) (r : Req) : Bool :=
  match r.op with
  | .frecrd _ _ => !(s.before r).any (fun e => e.ord.isAcq || (e.ord.relScope.isSome && !e.stage.performed)) && s.mailMeet r ≠ .wait
  | _ => false

/-- Word w of an occupied mailbox slot, which `consume` frees (R329). -/
def readMail (s : State) (rid slot w : Nat) (consume : Bool) : State × Nat :=
  match s.region? rid with
  | none => (s, 0)
  | some r =>
    if !r.mail.contains slot then (s, 0)
    else
      let v := (s.dwVa r 0 (r.field 24 + 64 * slot + 8 * w)).getD 0
      let free (s : State) : State := (s.setRegion rid { r with mail := r.mail.filter (fun m => m ≠ slot) }).syncStatus rid
      (if consume then free s else s, v)

/-- The read of a mailbox word recalls its line, and those of its walk (R201). -/
def State.mailSeen (s : State) (r : Req) : State :=
  match s.mailWord r with
  | some (va, key) => (s.walkTo r.cid va ++ [lineOf key]).foldl (fun t l => t.lineSeen l r.cid) s
  | none => s

/-- What such a read gives. -/
def State.portRead (s : State) (r : Req) : State × Nat :=
  match r.op with
  | .frecrd sel w =>
    let n := sel.toNat
    if n / 2 ^ 62 = 0 then readMail (s.mailSeen r) r.rid (n % 16) w (n / 2 ^ 61 % 2 = 1)
    else match (s.core r.cid).statusOf (n / 2 ^ 62 - 1) (n % 2 ^ 32) with
      | some e => (s, if e.status = .faulted then (e.record.getD w 0).toNat else 0)
      | none => (s, 0)
  | _ => (s, r.result)

/-- Reads performed as they return. -/
def MemOp.atReturn : MemOp → Bool
  | .frecrd _ _ => true
  | _ => false

/-- A late result that is pushed needs room in its queue (R78, R117, R181). -/
def State.lateRoom (s : State) (r : Req) : Bool :=
  match r.op, r.dst with
  | .bankalloc _, some d => (match (s.core r.cid).dstKind d with
    | .pushQueue k => s.queueRoom r.cid k
    | _ => true)
  | .sseq _, some d => (match (s.core r.cid).dstKind d with
    | .pushQueue k => s.queueRoom r.cid k
    | _ => true)
  | _, _ => true

/-- A result comes back once its access is performed, whatever has become of its path since (log entry 99). -/
def canLateResult (s : State) (id : Nat) : Bool :=
  match s.req? id with
  | some r => r.op.late && (if r.op.atReturn then r.stage = .sent && s.portReady r else r.stage = .served) && s.lateRoom r
  | none => false

/-- A late result reaches its core: its register is written in this cycle's write-back (R73, R75). A result of an ended
thread is discarded (R76). A `BANKALLOC` pushes where its destination is a queue (R117). -/
def lateResult (s : State) (id : Nat) : State :=
  match s.req? id with
  | none => s
  | some r =>
    match if r.op.atReturn then s.mailMeet r else .go with
    | .stop f => s.failReq r f
    | _ =>
    let (s, v) := if r.op.atReturn then s.portRead r else (s, r.result)
    let r := { r with result := v }
    if r.dropped then s.dropReq id
    else
      let act : WbAct := match r.op, r.dst with
        | .bankalloc _, some d => (match (s.core r.cid).dstKind d with
          | .pushQueue k => WbAct.qpush k r.value
          | .pushEng q => WbAct.epush q r.value
          | _ => r.act)
        | .sseq _, some d => (match (s.core r.cid).dstKind d with
          | .pushQueue k => WbAct.qpush k r.value
          | .pushEng q => WbAct.epush q r.value
          | _ => r.act)
        | _, _ => r.act
      let s := { s with wbs := s.wbs ++ [({ due := s.cyc, cid := r.cid, slot := r.slot, seq := r.id, bundle := r.bundle, icnt := r.icnt, act := act } : Wb)] }
      match act with
      | .load _ _ _ => s.setReq { r with stage := .writing }
      | .vload _ _ _ _ => s.setReq { r with stage := .writing }
      | _ => s.endReq r

/-- `LATE_RESULT_WRITEBACK` (R73). -/
def execLateResultWriteback (id : Nat) (s : State) : Out' :=
  .next (if canLateResult s id then lateResult s id else s)

/-- The state of the last `RST` on a stream changes as its acknowledgement returns; `SWAIT`s behind it are served once
no earlier `RST` of their stream is outstanding (R180). -/
def noteRst (s : State) (r : Req) (k : Nat) : State :=
  let last : RstLast := ⟨r.id, r.result % 2 ^ 48, r.nulled⟩
  let s := s.modThread r.cid r.slot (fun t => match Table.find t.lastRst k with
    | some l => if l.id < r.id then { t with lastRst := Table.set t.lastRst k last } else t
    | none => { t with lastRst := Table.set t.lastRst k last })
  let word := if r.nulled then 2 ^ 63 else r.result % 2 ^ 48
  let later (q : Req) : Bool := q.cid = r.cid && q.slot = r.slot && q.op = .swait k && r.id < q.id && !q.dropped
  let s := { s with reqs := s.reqs.map (fun q => if later q && q.dest ≤ r.id then { q with dest := r.id, result := word } else q) }
  let busy (q : Req) : Bool := s.reqs.any (fun e => e.cid = q.cid && e.slot = q.slot && e.op = .rst k && e.id < q.id && !e.dropped)
  { s with reqs := s.reqs.map (fun q => if later q && !busy q && q.stage = .sent then { q with stage := .served } else q) }

/-- An acknowledgement comes back once its access is performed, whatever has become of its path since (log entry 99). -/
def canAck (s : State) (id : Nat) : Bool :=
  match s.req? id with
  | some r => r.stage = .served && !r.op.late
  | none => false

/-- An acknowledgement returns (R175, R209): the operation completes, its buffer entry leaves, its pair's outstanding
count falls; one marked refused stops the thread with SEG_RIGHTS (R177). -/
def ackReq (s : State) (id : Nat) : State :=
  match s.req? id with
  | none => s
  | some r =>
    let s := s.endReq r
    let s := s.pairAck r
    let s := match r.op.isRst with
      | some k => if r.dropped then s else noteRst s r k
      | none => s
    if r.nulled && s.liveReq r then
      stopAs s r.cid r.slot ⟨fSegRights, r.eaOf s ((r.pieces.headD ⟨0, 0, 0, 0, 0, false⟩)), 0, segWord5 r.seg rightW⟩ r.bundle r.icnt
    else s

/-- `STORE_ACKNOWLEDGE` (R175, R209). -/
def execStoreAcknowledge (id : Nat) (s : State) : Out' := .next (if canAck s id then ackReq s id else s)

/-- The oldest unsent entry of a core's store buffer (R209). -/
def State.oldestUnsent (s : State) (cid : Nat) : Option Req :=
  (s.buffer cid).find? (fun r => r.stage = .unsent)

/-- `STORE_BUFFER_SEND` (R209). -/
def execStoreBufferSend (cid : Nat) (s : State) : Out' :=
  .next (match s.oldestUnsent cid with
    | some r => s.setReq { r with stage := .sent }
    | none => s)

/-! ### Banks -/

/-- A request that a bank may serve now, at its first unperformed access there (R132, R133). -/
def State.bankTakes (s : State) (r : Req) (bk : Nat) : Bool :=
  r.scratchy && r.stage = .sent && (match r.op.isRst with | some k => k = 0 | none => true) &&
  (r.todo bk).any (fun (i, p) => s.orderOk r p && r.pieceTurn i) && (s.displacedOwner r.rid r.cl (bk % 64)).isNone

/-- A parked request that would proceed now (R133). -/
def State.unparks (s : State) (id : Nat) : Bool :=
  match s.req? id with
  | none => true
  | some r => match r.pieces.head? with
    | none => false
    | some p => match s.atBank r p with
      | .wait => false
      | _ => true

/-- A bank tests its parked entries in order of arrival (R133). -/
def State.parkTests (s : State) (bank : Nat) : State := (s.bank bank).park.foldl (fun s id => s.bankServe id bank) s

/-- A bank takes the new requests of a cycle (R132). -/
def State.bankNew (s : State) (bank : Nat) (ids : List Nat) : State :=
  (s.inOrder bank ids).foldl (fun s r => match s.req? r.id with
    | some q => if s.bankTakes q bank then s.bankServe r.id bank else s
    | none => s) s

/-- `BANK_REQUEST_ARRIVAL` (R132, R133): a bank serves its parked entries in order, then the requests of this cycle. -/
def execBankRequestArrival (bank : Nat) (ids : List Nat) (s : State) : Out' := .next ((s.parkTests bank).bankNew bank ids)

/-- A refused request is due again (R134, R173, R220, R322, R335). -/
def State.resendDue (s : State) (r : Req) : Bool :=
  match r.stage with
  | .refused c => c ≤ s.cyc
  | _ => false

def MemOp.isSync (op : MemOp) : Bool := op.isSyncLoad || op.isSyncStore

/-- The request is refused because its target team is displaced, or may be sent again now that it is not (R335). -/
def State.displacedKind (s : State) (r : Req) : Bool :=
  r.scratchy && (!r.op.isSync ||
    r.pieces.any (fun p => !p.done && (s.displacedOwner r.rid r.cl (bankOfSa p.addr)).isSome))

def Req.isOpenStore (s : State) (r : Req) : Bool :=
  match r.op.isRst, r.seqn with
  | some k, some 0 => k ≠ 0 && (s.core r.cid).streamTab.any (fun e => e.stream = k && e.dest = r.dest && e.openWait)
  | _, _ => false

def resend (s : State) (id : Nat) (ok : Req → Bool) : State :=
  match s.req? id with
  | some r => if s.resendDue r && ok r then s.setReq { r with stage := .sent } else s
  | none => s

/-- `FE_REQUEST_RESEND` (R134). -/
def execFeRequestResend (id : Nat) (s : State) : Out' :=
  .next (resend s id (fun r => r.scratchy && r.op.isSync))
/-- `PINNED_ACCESS_RESEND` (R220). -/
def execPinnedAccessResend (id : Nat) (s : State) : Out' :=
  .next (resend s id (fun r => !r.scratchy && r.afTag.isNone))
/-- `OPEN_STORE_RESEND` (R173). -/
def execOpenStoreResend (id : Nat) (s : State) : Out' :=
  .next (resend s id (fun r => r.isOpenStore s))
/-- `DISPLACED_REQUEST_RESEND` (R335). -/
def execDisplacedRequestResend (id : Nat) (s : State) : Out' :=
  .next (resend s id (fun r => s.displacedKind r))
/-- `AFADD_RESEND` (R322). -/
def execAfaddResend (id : Nat) (s : State) : Out' :=
  .next (resend s id (fun r => r.afTag.isSome))

/-- `REMOTE_REFUSAL_ARRIVAL` (R126): the refusal reaches its thread, which stops; the operation counts as completed. -/
def execRemoteRefusalArrival (id : Nat) (s : State) : Out' :=
  .next (match s.req? id with
    | some r => match r.stage with
      | .bounced code detail =>
        s.failReq r ⟨code, r.eaOf s (((r.pieces.find? (fun p => !p.done)).getD ⟨0, 0, 0, 0, 0, false⟩)), 0, wrap64 detail⟩
      | _ => s
    | none => s)

/-- `POISONED_PACKET_RESEND` (R177, R341): the receiver has discarded the packet; a buffered store goes out again from
its buffer entry with its number, any other request stays under way. -/
def execPoisonedPacketResend (id : Nat) (s : State) : Out' :=
  .next (match s.req? id with
    | some r => if r.stage = .sent && r.buffered then s.setReq { r with stage := .unsent } else s
    | none => s)

/-! ### Lines -/

/-- An access may be performed at its line now (R197, R215, R222). -/
def canSlice (s : State) (id i : Nat) : Bool :=
  match s.req? id with
  | none => false
  | some r => match r.pieces[i]? with
    | none => false
    | some p => r.stage = .sent && !r.scratchy && r.space ≠ .none && !r.op.isLaunch && !p.done && r.afTag.isNone &&
        (match r.op.isRst with | some k => k = 0 | none => true) && r.pieceTurn i && s.orderOk r p && s.lineReady r p

/-- An access is performed at its home slice (R197). -/
def slicePerform (s : State) (id i : Nat) : State :=
  if canSlice s id i then
    match s.req? id with
    | some r => match r.pieces[i]? with
      | some p => s.performLine r i p
      | none => s
    | none => s
  else s

/-- Requests that wait for a line's recall. -/
def State.recalls (s : State) (line : Nat) : List Req :=
  s.reqs.filter (fun r => r.stage = .recall && r.pieces.any (fun p => !p.done && lineOf (s.fwd p.key) = line))

/-- `LINE_RECALL_COMPLETE` (R201): a granted line is back at its slice, and the access that waited longest is performed. -/
def execLineRecallComplete (line : Nat) (s : State) : Out' :=
  let waiting := s.recalls line
  if waiting.isEmpty then .next s
  else
    let s := s.returnGrant line
    let s := waiting.foldl (fun s r => s.setReq { r with stage := .sent }) s
    .next (match waiting.head? with
      | some r =>
        let r := { r with stage := .sent }
        match r.pieces.zipIdx.find? (fun (p, _) => !p.done && lineOf (s.fwd p.key) = line) with
        | some (p, i) => if r.afTag.isNone && s.orderOk r p && s.lineReady r p && r.op.isRst.getD 0 = 0 then s.performLine r i p else s
        | none => s
      | none => s)

/-! ### Walks, drops and wakes -/

/-- The lines of the page tables that the walks of a request read (R191, R366). -/
def State.walkLines (s : State) (g : Region) (r : Req) : List Nat :=
  r.pieces.flatMap (fun p => (walkReads s p.addr walkLevels (g.field 11)).map (fun pa => pa / 128))

/-- The first access of a request one of whose walk's entries lies behind a path that is down (R340). -/
def State.walkDown (s : State) (g : Region) (r : Req) : Option Piece :=
  r.pieces.find? (fun p => (walkReads s p.addr walkLevels (g.field 11)).any (fun pa => !s.pathUp r.cid pa))

/-- Each entry can be read as an `LDG.D` would read it at its home slice (R366), or a path to one is down, which ends the walk. -/
def State.walkClear (s : State) (g : Region) (r : Req) : Bool :=
  (s.walkDown g r).isSome || (s.walkLines g r).all (fun line => s.lineClear r.cid r.slot (line * 128))

/-- Translation of a request's accesses by its walks. -/
def State.walkAll (s : State) (g : Region) (r : Req) : XRes :=
  xlate r.rid (fun va => s.translate g (dieOf r.cid) va r.op.needsW (r.op = .fetch)) r.pieces

/-- The reads of a walk recall the grants of other cores (R201). -/
def State.walkRecalls (s : State) (g : Region) (r : Req) : State :=
  (s.walkLines g r).foldl (fun s line => s.lineSeen line r.cid) s

/-- The walk of a request may end now: a stream store also needs a place in its pair (R170, R171). -/
def canWalkEnd (s : State) (id : Nat) : Bool :=
  match s.req? id with
  | none => false
  | some r => r.stage = .walking && !r.op.isLaunch &&
    (match s.region? r.rid with
      | none => true
      | some g => s.walkClear g r && ((s.walkDown g r).isSome || (match s.walkAll g r with
        | .ok ps nc used => (s.number (s.resolved r ps nc used).2).isSome
        | _ => true)))

/-- A walk that could end but for its stream store's pair, which is full: the thread parks with reason 2 until an
acknowledgement returns (R171, R174). -/
def canWalkPark (s : State) (id : Nat) : Bool :=
  match s.req? id with
  | none => false
  | some r => r.stage = .walking && !r.op.isLaunch && (s.thread r.cid r.slot).state = .ready &&
    (match s.region? r.rid with
      | none => false
      | some g => s.walkClear g r && (s.walkDown g r).isNone && (match s.walkAll g r with
        | .ok ps nc used => (s.number (s.resolved r ps nc used).2).isNone
        | _ => false))

/-- A translated request goes its way. -/
def State.afterWalk (s : State) (r : Req) : State :=
  match r.op with
  | .fetch => s.dropReq r.id
  | .sseq k => s.setReq { r with stage := .served, result := seqWord (s.core r.cid) k (s.destOf r) }
  | _ =>
    let (s, r) := s.tagAf r
    match s.number r with
    | some (s, r) => s.setReq { r with stage := r.start }
    | none => s

/-- `PAGE_WALK_END` (R192): the access proceeds and the thread is eligible again; the thread is dropped on a missing
page; or PAGE_DENIED, or LINK_DOWN where an entry cannot be reached (R340). A `PREF` then has no effect (R203). -/
def walkEnd (s : State) (id : Nat) : State :=
  match s.req? id with
  | none => s
  | some r =>
    let t := s.thread r.cid r.slot
    let awake (s : State) : State := s.modThread r.cid r.slot (fun t =>
      { t with walking := false, reissue := if r.op = .fetch then t.reissue else none
               state := if t.walking && t.state = .parked then .ready else t.state })
    let bundle := if r.op = .fetch then (t.reissue.map (·.addr)).getD t.pc else r.bundle
    let denied (f : Flt) : State :=
      if r.op = .pref then (awake s).endReq r
      else
        let live := s.liveReq r
        let s := (awake s).endReq r
        if live then stopAs s r.cid r.slot f bundle r.icnt else s
    match s.region? r.rid with
    | none => denied (pageDenied 0 0)
    | some g => match s.walkDown g r with
    | some p => denied (linkFlt p.addr)
    | none =>
      let s := s.walkRecalls g r
      match s.walkAll g r with
      | .ok ps nc used =>
        let (s, r) := (awake s).resolved r ps nc used
        s.afterWalk r
      | .denied d va => denied (pageDenied d va)
      | .missing va =>
        if r.op = .pref then (awake s).endReq r
        else if s.liveReq r then
          (s.endReq r).dropThread r.rid r.cid r.slot va (if r.op = .fetch then 2 else r.op.dropBits) bundle r.icnt
        else (awake s).endReq r

def execPageWalkEnd (id : Nat) (s : State) : Out' :=
  .next (if canWalkEnd s id then walkEnd s id
    else if canWalkPark s id then match s.req? id with
      | some r => parkThread s r.cid r.slot 2
      | none => s
    else s)

/-- `HELD_UPCALL_PUSH` (R194). -/
def execHeldUpcallPush (rid page : Nat) (s : State) : Out' :=
  .next (if s.upcallReady rid page then s.pushUpcall rid page else s)

/-- `PGFILL_COMPLETE` (R195): the rights of the page are those of the issuing thread's registration. The tinker waits for lines that
are pinned or owned (R220, R222). -/
def execPgfillComplete (id : Nat) (s : State) : Out' :=
  .next (match s.req? id with
    | some r => match r.op, r.pieces.head? with
      | .pgfill b, some p =>
        if r.stage = .sent && s.orderOk r p && s.fillClear r.rid (dieOf r.cid) (p.addr / 65536) b then
          let page := p.addr / 65536
          let s := match (s.region? r.rid).bind (fun g => g.pagers.find? (fun q =>
              q.cid = r.cid && q.slot = r.slot && q.base ≤ page && page < q.base + q.pages)) with
            | some q => s.fillPage r.rid (dieOf r.cid) page b q.w q.x
            | none => s
          match s.req? id with
          | some r => s.endReq r
          | none => s
        else s
      | _, _ => s
    | none => s)

/-- `WAKE_MESSAGE` (R192): a dropped thread becomes ready; its faulting control word is reissued at its next turn. -/
def execWakeMessage (cid slot : Nat) (s : State) : Out' :=
  let t := s.thread cid slot
  .next (if t.state = .dropped && t.woken then s.setThread cid slot { t with state := .ready, woken := false } else s)

/-! ### Streams -/

/-- A close flit of the pair is still under way: the open store that allots its entry anew comes behind it (R173, log entry
119). -/
def State.closing (s : State) (r : Req) : Bool := s.closeFlits.any (fun f => f = (r.cid, r.op.isRst.getD 0, r.dest))

def canStream (s : State) (id : Nat) : Bool :=
  match s.req? id with
  | none => false
  | some r => match r.op.isRst, r.seqn, r.pieces.head? with
    | some k, some n, some p =>
      k ≠ 0 && s.orderOk r p && !s.closing r &&
      (match r.stage with
        | .sent => match s.commit? r.dest r.cid k with
          | some c => if n = c.expect then s.streamMeet r ≠ .wait else true
          | none => s.streamMeet r ≠ .wait
        | .held => (match s.commit? r.dest r.cid k with
          | some c => n = c.expect && s.streamMeet r ≠ .wait
          | none => false)
        | _ => false)
    | _, _, _ => false

/-- `STREAM_STORE_ARRIVAL` (R173). -/
def execStreamStoreArrival (id : Nat) (s : State) : Out' :=
  .next (if canStream s id then
    match s.req? id with
    | some r => s.streamArrive { r with stage := .sent }
    | none => s
  else s)

/-- `STREAM_CLOSE_FLIT` (R171, R173): the pair's entry is freed, whatever has become of its path (log entry 99). -/
def execStreamCloseFlit (n : Nat) (s : State) : Out' :=
  .next (match s.closeFlits[n]? with
    | some (src, stream, dest) =>
      { s with closeFlits := s.closeFlits.eraseIdx n,
               commits := s.commits.filter (fun c => !(c.src = src && c.stream = stream && c.dest = dest)) }
    | none => s)

/-! ### Rendezvous -/

/-- `RV_ARRIVAL_COUNT` (R112). -/
def execRvArrivalCount (n : Nat) (s : State) : Out' :=
  .next (match s.arrivals[n]? with
    | some a => if s.arrivalReady a then ({ s with arrivals := s.arrivals.eraseIdx n }).countArrival a else s
    | none => s)

/-! ### Displaced targets (R335) -/

/-- The team whose displacement a request meets. -/
def State.displacedTarget (s : State) (r : Req) : Option (Nat × Nat × Piece) :=
  if !r.scratchy then none
  else r.pieces.zipIdx.findSome? (fun (p, i) =>
    if p.done then none else (s.displacedOwner r.rid r.cl (bankOfSa p.addr)).map (fun t => (t, i, p)))

/-- The log entries of a write, in pieces of at most 64 bytes. -/
def logParts (r : Req) (p : Piece) : List LogEntry :=
  if p.size ≤ 64 then [logWrite r p]
  else [logWrite r { p with size := 64, data := p.data % 2 ^ 512 },
        logWrite r { p with addr := p.addr + 64, size := p.size - 64, data := p.data / 2 ^ 512 }]

def canDisplaced (s : State) (id : Nat) : Bool :=
  match s.req? id with
  | some r => r.stage = .sent && r.op.isRst.getD 0 = 0 &&
      (match s.displacedTarget r with | some (_, _, p) => s.orderOk r p | none => false)
  | none => false

/-- A request meets a displaced team (R335): a write is appended to the log and counts as performed; anything that reads
or waits, and a write that finds the log full, is refused and sent again 64 cycles later. -/
def displacedArrive (s : State) (id : Nat) : State :=
  match s.req? id with
  | none => s
  | some r => match s.displacedTarget r with
    | none => s
    | some (team, i, p) =>
      let refuse := s.setReq { r with stage := .refused (s.cyc + Config.resendCycles) }
      if !s.clustersLinked (clOf r.cid) r.cl then s.failReq r (fltAt fLinkDown (r.eaOf s p))
      else if r.op.writes && r.op ≠ .sts then
        match (logParts r p).foldl (fun (o : Option State) e => o.bind (fun s => s.logAppend r.rid team e)) (some s) with
        | some s => s.pieceDone r i p.data 0
        | none => refuse
      else refuse

/-! ### Held AFADDs (R320, R322) -/

def canAfadd (s : State) (id : Nat) : Bool :=
  match s.req? id with
  | some r => (match r.pieces.head? with
      | some p => r.stage = .sent && r.afTag.isSome && s.orderOk r p && s.lineReady r p
      | none => false)
  | none => false

/-- A pin keeps an access of a thread from its line (R220). -/
def State.pinnedFrom (s : State) (r : Req) (p : Piece) (line : Nat) : Bool :=
  match s.pinOf line with
  | some (c, pin) => !(c = r.cid && (pin.admits r.slot || s.pinning r p))
  | none => false

/-- The entry that a slice holds for an `AFADD` (R319). -/
def Req.afEntry (r : Req) (p : Piece) (key w n : Nat) : AfEntry :=
  ⟨r.nc, r.rid, r.dest, w, n, key, BitVec.ofNat 32 p.data, r.bundle, r.cid, r.slot, r.icnt, r.now⟩

/-- An `AFADD` refused for a full set (R322): at the retry limit the thread stops with DET_ATOMIC_RESULT detail 2. -/
def State.refuseFull (s : State) (r : Req) (p : Piece) : State :=
  let m := r.refusals + 1
  let limit := match s.region? r.rid with | some g => g.field 20 | none => 1024
  if limit ≤ m then s.failReq { r with refusals := m } ⟨fDetAtomic, r.eaOf s p, 0, 2⟩
  else s.setReq { r with refusals := m, stage := .refused (s.cyc + Config.resendCycles) }

/-- `AFADD_ACCEPT` (R320): the slice holds the entry, recalling any grant, or refuses it while its set is full (R322). A path
that is down and a pin meet it as any access (R220, R340); an entry of a stopped region is discarded (R321). -/
def execAfaddAccept (id : Nat) (s : State) : Out' :=
  .next (if !canAfadd s id then s else
    match s.req? id with
    | none => s
    | some r => match r.pieces.head?, r.afTag with
      | some p, some (w, n) =>
        let key := s.fwd p.key
        let sl := s.sliceOf key
        if !(match s.region? r.rid with | some g => g.live && !g.stopDue | none => false) then s.pieceDone r 0 p.data 0
        else if !s.pathUp r.cid key then s.failReq r (fltAt fLinkDown (r.eaOf s p))
        else if s.pinnedFrom r p (lineOf key) then s.refusePinned r p
        else if (s.slice sl).held.length < Config.reorderEntries then
          let s := if r.nc then s else s.l1Access r.rid r.cid (lineOf key) false
          let s := ((s.releaseEffects r (lineOf key) p).returnGrant (lineOf key)).otherAccess (lineOf key) r.cid
          let s := s.modSlice sl (fun x => { x with held := x.held ++ [r.afEntry p key w n] })
          s.pieceDone r 0 p.data 0
        else s.refuseFull r p
      | _, _ => s)

end Sys2Proof.Machine
end

