-- ==== Sys2Proof/Machine/Integer.lean ====
section
/-! DEFINITION. The integer instructions (R83 to R91): the arithmetic of class 1 on general registers and the immediate
instructions. -/

namespace Sys2Proof.Machine

/-! ### Results -/

/-- The bits of a register view that a shift or a field amount takes (R86, R88). -/
def shiftAmt (w : Bool) (b : Word) : Nat := b.toNat % wBits w

/-- Sums and products (R86, R87): exact on signed views under `.sat`, on unsigned views otherwise. -/
def exact2 (m : IntMod) (w : Bool) (f : Int → Int → Int) (a b : Word) : Word :=
  fin m w (match m with
    | .sat => f (sView w a) (sView w b)
    | .wrap => f (uView w a) (uView w b)
    | .usat => f (uView w a) (uView w b))

/-- Division truncating toward zero, with the results of R87 for divisor zero. -/
def divS (w : Bool) (a b : Word) : Int := if sView w b = 0 then -1 else (sView w a).tdiv (sView w b)
def divU (w : Bool) (a b : Word) : Nat := if uView w b = 0 then 2 ^ wBits w - 1 else uView w a / uView w b
def remS (w : Bool) (a b : Word) : Int := if sView w b = 0 then sView w a else (sView w a).tmod (sView w b)
def remU (w : Bool) (a b : Word) : Nat := if uView w b = 0 then uView w a else uView w a % uView w b

/-- Bitwise NOT over n bits. -/
def notView (w : Bool) (b : Word) : Nat := 2 ^ wBits w - 1 - uView w b

/-- Leading zeros, trailing zeros and ones of an n-bit view (R88). -/
def clzView (w : Bool) (a : Word) : Nat := if uView w a = 0 then wBits w else wBits w - 1 - Nat.log2 (uView w a)
def ctzView (w : Bool) (a : Word) : Nat := if uView w a = 0 then wBits w else lowZeros (wBits w) (uView w a)
def popcAux : Nat → Nat → Nat
  | 0, _ => 0
  | k + 1, n => n % 2 + popcAux k (n / 2)
def popcView (w : Bool) (a : Word) : Nat := popcAux (wBits w) (uView w a)

/-- Field position and width (R88). -/
def fieldPos (b : Word) : Nat := b.toNat % 64
def fieldWidth (w : Bool) (b : Word) : Nat := min (b.toNat / 2 ^ 8 % 128) (wBits w)

/-- (4.3) and (4.4). -/
def bfxVal (sx w : Bool) (a b : Word) : Int :=
  let n := fieldWidth w b
  let f := uView w a / 2 ^ fieldPos b % 2 ^ n
  if sx && 0 < n && 2 ^ (n - 1) ≤ f then (f : Int) - 2 ^ n else f
def bfiVal (w : Bool) (d a b : Word) : Nat :=
  let n := wBits w
  let m := (2 ^ fieldWidth w b - 1) * 2 ^ fieldPos b % 2 ^ n
  Nat.lor (Nat.land (uView w d) (2 ^ n - 1 - m)) (Nat.land (uView w a * 2 ^ fieldPos b) m)

/-- ROL (R88). -/
def rolVal (w : Bool) (a b : Word) : Nat :=
  let s := shiftAmt w b
  (uView w a * 2 ^ s + uView w a / 2 ^ (wBits w - s)) % 2 ^ wBits w

/-! ### Shapes of an effect -/

/-- d := v (R73, R77, R91). -/
def putD (d : Reg) (v : Word) (s : State) : Res := .ok (s.writeD d.val v)
/-- d := f(a, b) and d := f(a). -/
def eff2 (d a b : Reg) (f : Word → Word → Word) (s : State) : Res := putD d (f (s.src a) (s.src b)) s
def eff1 (d a : Reg) (f : Word → Word) (s : State) : Res := putD d (f (s.src a)) s

/-! ### Add, logic and compare (R86) -/

def execAdd (w : Bool) (m : IntMod) (d a b : Reg) (s : State) : Out' :=
  run (.add w m d a b) s (eff2 d a b (exact2 m w (· + ·)))
def execSub (w : Bool) (m : IntMod) (d a b : Reg) (s : State) : Out' :=
  run (.sub w m d a b) s (eff2 d a b (exact2 m w (· - ·)))
def execMin (w : Bool) (d a b : Reg) (s : State) : Out' :=
  run (.min w d a b) s (eff2 d a b (fun x y => fin .wrap w (Min.min (sView w x) (sView w y))))
def execMax (w : Bool) (d a b : Reg) (s : State) : Out' :=
  run (.max w d a b) s (eff2 d a b (fun x y => fin .wrap w (Max.max (sView w x) (sView w y))))
def execMinu (w : Bool) (d a b : Reg) (s : State) : Out' :=
  run (.minu w d a b) s (eff2 d a b (fun x y => fin .wrap w (Min.min (uView w x) (uView w y) : Nat)))
def execMaxu (w : Bool) (d a b : Reg) (s : State) : Out' :=
  run (.maxu w d a b) s (eff2 d a b (fun x y => fin .wrap w (Max.max (uView w x) (uView w y) : Nat)))
def execMov (w : Bool) (d a : Reg) (s : State) : Out' :=
  run (.mov w d a) s (eff1 d a (fun x => fin .wrap w (uView w x)))
/-- With A = 0 nothing is written. -/
def execSel (w : Bool) (d a b : Reg) (s : State) : Out' :=
  run (.sel w d a b) s (fun s => if uView w (s.src a) ≠ 0 then putD d (fin .wrap w (uView w (s.src b))) s else .ok s)
def execAnd (w : Bool) (d a b : Reg) (s : State) : Out' :=
  run (.and w d a b) s (eff2 d a b (fun x y => fin .wrap w (Nat.land (uView w x) (uView w y))))
def execOr (w : Bool) (d a b : Reg) (s : State) : Out' :=
  run (.or w d a b) s (eff2 d a b (fun x y => fin .wrap w (Nat.lor (uView w x) (uView w y))))
def execXor (w : Bool) (d a b : Reg) (s : State) : Out' :=
  run (.xor w d a b) s (eff2 d a b (fun x y => fin .wrap w (Nat.xor (uView w x) (uView w y))))
def execAndn (w : Bool) (d a b : Reg) (s : State) : Out' :=
  run (.andn w d a b) s (eff2 d a b (fun x y => fin .wrap w (Nat.land (uView w x) (notView w y))))
def execOrn (w : Bool) (d a b : Reg) (s : State) : Out' :=
  run (.orn w d a b) s (eff2 d a b (fun x y => fin .wrap w (Nat.lor (uView w x) (notView w y))))
def execShl (w : Bool) (d a b : Reg) (s : State) : Out' :=
  run (.shl w d a b) s (eff2 d a b (fun x y => fin .wrap w (uView w x * 2 ^ shiftAmt w y : Nat)))
def execShr (w : Bool) (d a b : Reg) (s : State) : Out' :=
  run (.shr w d a b) s (eff2 d a b (fun x y => fin .wrap w (uView w x / 2 ^ shiftAmt w y : Nat)))
def execSra (w : Bool) (d a b : Reg) (s : State) : Out' :=
  run (.sra w d a b) s (eff2 d a b (fun x y => fin .wrap w (sView w x / 2 ^ shiftAmt w y)))
def execCmp (c : Cond) (w : Bool) (d a b : Reg) (s : State) : Out' :=
  run (.cmp c w d a b) s (eff2 d a b (fun x y => if c.holds w x y then 1 else 0))

/-! ### Multiply and divide (R87) -/

def execMul (w : Bool) (m : IntMod) (d a b : Reg) (s : State) : Out' :=
  run (.mul w m d a b) s (eff2 d a b (exact2 m w (· * ·)))
def execMulh (w : Bool) (d a b : Reg) (s : State) : Out' :=
  run (.mulh w d a b) s (eff2 d a b (fun x y => fin .wrap w (sView w x * sView w y / 2 ^ wBits w)))
def execMulhu (w : Bool) (d a b : Reg) (s : State) : Out' :=
  run (.mulhu w d a b) s (eff2 d a b (fun x y => fin .wrap w (uView w x * uView w y / 2 ^ wBits w : Nat)))
def execDiv (w : Bool) (d a b : Reg) (s : State) : Out' :=
  run (.div w d a b) s (eff2 d a b (fun x y => fin .wrap w (divS w x y)))
def execDivu (w : Bool) (d a b : Reg) (s : State) : Out' :=
  run (.divu w d a b) s (eff2 d a b (fun x y => fin .wrap w (divU w x y)))
def execRem (w : Bool) (d a b : Reg) (s : State) : Out' :=
  run (.rem w d a b) s (eff2 d a b (fun x y => fin .wrap w (remS w x y)))
def execRemu (w : Bool) (d a b : Reg) (s : State) : Out' :=
  run (.remu w d a b) s (eff2 d a b (fun x y => fin .wrap w (remU w x y)))

/-! ### Bits (R88) -/

def execRol (w : Bool) (d a b : Reg) (s : State) : Out' :=
  run (.rol w d a b) s (eff2 d a b (fun x y => fin .wrap w (rolVal w x y)))
def execClz (w : Bool) (d a : Reg) (s : State) : Out' :=
  run (.clz w d a) s (eff1 d a (fun x => fin .wrap w (clzView w x)))
def execCtz (w : Bool) (d a : Reg) (s : State) : Out' :=
  run (.ctz w d a) s (eff1 d a (fun x => fin .wrap w (ctzView w x)))
def execPopc (w : Bool) (d a : Reg) (s : State) : Out' :=
  run (.popc w d a) s (eff1 d a (fun x => fin .wrap w (popcView w x)))
def execBfx (w : Bool) (d a b : Reg) (s : State) : Out' :=
  run (.bfx w d a b) s (eff2 d a b (fun x y => fin .wrap w (bfxVal false w x y)))
def execBfxSx (w : Bool) (d a b : Reg) (s : State) : Out' :=
  run (.bfxSx w d a b) s (eff2 d a b (fun x y => fin .wrap w (bfxVal true w x y)))
def execBfi (w : Bool) (d a b : Reg) (s : State) : Out' :=
  run (.bfi w d a b) s (fun s => putD d (fin .wrap w (bfiVal w (s.src d) (s.src a) (s.src b))) s)

/-! ### Immediates (R89) -/

def execMovi (d : Reg) (imm : BitVec 18) (s : State) : Out' :=
  run (.movi d imm) s (putD d (imm.signExtend 64))
def execMovhi (d : Reg) (imm : BitVec 18) (s : State) : Out' :=
  run (.movhi d imm) s (fun s => putD d (s.src d <<< 18 ||| imm.setWidth 64) s)
def execAddi (d : Reg) (imm : BitVec 18) (s : State) : Out' :=
  run (.addi d imm) s (fun s => putD d (s.src d + imm.signExtend 64) s)
def execAddiW (d : Reg) (imm : BitVec 18) (s : State) : Out' :=
  run (.addiW d imm) s (fun s => putD d (((s.src d).setWidth 32 + imm.signExtend 32).signExtend 64) s)

/-! ### The arithmetic no-operation (R43) -/

def execNopArith (s : State) : Out' := run .nopArith s .ok

end Sys2Proof.Machine
end

