-- ==== Sys2Proof/Machine/Control.lean ====
section
/-! DEFINITION. The system and control-transfer instructions (R43, R81, R82, R96 to R108, R219, R221, R250). -/

namespace Sys2Proof.Machine

/-! ### NOP, YIELD, EXIT, TRAP (R43, R108) -/

def execNop (s : State) : Out' := run .nop s .ok

/-- The thread is not eligible before cycle t + 16. -/
def execYield (s : State) : Out' :=
  run .yield s (fun s => .ok (s.modMe (fun t => { t with notBefore := s.cyc + 16 })))

/-- The thread ends at write-back. -/
def execExit (s : State) : Out' := run .exit s (fun s => .ok (s.wb .exit))

/-- The thread stops at write-back with SOFTWARE_TRAP; its bundle counts and takes effect. -/
def execTrap (a : Reg) (s : State) : Out' := run (.trap a) s (fun s => .ok (s.wb (.trap (s.src a))))

/-! ### Jumps and branches (R106) -/

/-- (2.1). -/
def branchTarget (addr : Word) (off : Int) : Word := addr + wrapI (4 * off)

/-- The link: the address of the next bundle, to `p31` at write-back. -/
def link (s : State) : State := s.wb (.gpr 31 s.bun.npc)

def execJ (off : BitVec 24) (s : State) : Out' :=
  run (.j off) s (fun s => .ok (s.goto (branchTarget s.bun.addr off.toInt)))
def execJl (off : BitVec 24) (s : State) : Out' :=
  run (.jl off) s (fun s => .ok ((link s).goto (branchTarget s.bun.addr off.toInt)))
def execJr (a : Reg) (s : State) : Out' := run (.jr a) s (fun s => .ok (s.goto (s.src a)))
def execJlr (a : Reg) (s : State) : Out' := run (.jlr a) s (fun s => .ok ((link s).goto (s.src a)))

/-- A branch on a condition of the state before the bundle. -/
def branchIf (off : BitVec 12) (c : State → Bool) (s : State) : Res :=
  .ok (if c s then s.goto (branchTarget s.bun.addr off.toInt) else s)

def execBeq (a b : Reg) (off : BitVec 12) (s : State) : Out' :=
  run (.beq a b off) s (branchIf off (fun s => s.src a = s.src b))
def execBne (a b : Reg) (off : BitVec 12) (s : State) : Out' :=
  run (.bne a b off) s (branchIf off (fun s => s.src a ≠ s.src b))
def execBlt (a b : Reg) (off : BitVec 12) (s : State) : Out' :=
  run (.blt a b off) s (branchIf off (fun s => (s.src a).toInt < (s.src b).toInt))
def execBge (a b : Reg) (off : BitVec 12) (s : State) : Out' :=
  run (.bge a b off) s (branchIf off (fun s => (s.src b).toInt ≤ (s.src a).toInt))
def execBltu (a b : Reg) (off : BitVec 12) (s : State) : Out' :=
  run (.bltu a b off) s (branchIf off (fun s => (s.src a).toNat < (s.src b).toNat))
def execBgeu (a b : Reg) (off : BitVec 12) (s : State) : Out' :=
  run (.bgeu a b off) s (branchIf off (fun s => (s.src b).toNat ≤ (s.src a).toNat))
def execBz (a : Reg) (off : BitVec 12) (s : State) : Out' :=
  run (.bz a off) s (branchIf off (fun s => s.src a = 0))
def execBnz (a : Reg) (off : BitVec 12) (s : State) : Out' :=
  run (.bnz a off) s (branchIf off (fun s => s.src a ≠ 0))

/-- The status that a condition of `BENG` tests. -/
def engStatus : EngCond → EStatus
  | .busy => .busy
  | .done => .done
  | .faulted => .faulted

/-- `BENG` (R107): the status of the command with token `a`[31:0] in an engine's list of the core. -/
def execBeng (eng : Eng) (cond : EngCond) (tok : Reg) (off : BitVec 12) (s : State) : Out' :=
  run (.beng eng cond tok off) s (branchIf off (fun s =>
    match s.myCore.statusOf eng.code ((s.src tok).toNat % 2 ^ 32) with
    | some e => e.status = engStatus cond
    | none => false))

/-! ### Special registers (R81, R82) -/

/-- The array that `mxprog` of a core shows: the word of its cluster, where its region holds the matrix array. -/
def State.mxprogOf (s : State) (cl : Nat) : Word := (s.cluster cl).mxprog

/-- A special register of a thread. -/
def State.sr (s : State) (cid slot n : Nat) : Word :=
  let t := s.thread cid slot
  let c := s.core cid
  let ent : Option Entrant := (s.regionOf cid).bind (fun r =>
    if r.kind = .tournament then Table.find r.entrants c.entrant else none)
  match n with
  | 0 => wrap64 slot
  | 1 => wrap64 (coreOf cid)
  | 2 => wrap64 (cluOf cid)
  | 3 => wrap64 (dieOf cid)
  | 4 => wrap64 s.host.pkgId
  | 5 => wrap64 (s.cycOf (dieOf cid))
  | 6 => wrap64 t.icnt
  | 7 => t.allow
  | 8 => wrap64 (s.nowOf cid slot)
  | 9 => c.seed
  | 10 => if c.long then 1 else 0
  | 11 => (ent.map (·.score)).getD 0
  | 12 => wrap64 ((ent.map (fun e => if e.ranked = 255 then 0 else e.rank)).getD 0)
  | 13 => s.mxprogOf (clOf cid)
  | 14 => wrap64 (((s.regionOf cid).map (·.floor)).getD 0)
  | _ => 0

def execRdsr (d : Reg) (sr : SrNum) (s : State) : Out' :=
  run (.rdsr d sr) s (fun s => putD d (s.sr s.bun.cid s.bun.slot sr.val) s)

/-- The write takes effect in the write-back cycle; mode and access are checked at issue, a value of `mxprog` in the
pipeline (R243). -/
def execWrsr (b : Reg) (sr : SrNum) (s : State) : Out' :=
  run (.wrsr b sr) s (fun s =>
    if sr.val = 13 && !mxprogOk (s.cluster s.myCl) (s.src b) then .fault (refused (s.src b))
    else .ok (s.wb (.wrsr sr.val (s.src b))))

/-! ### The foreman's instructions (R98 to R101) -/

/-- `TSTART` (R99). -/
def effTstart (a b : Reg) (s : State) : Res :=
  let v := s.src a
  let k := v.toNat
  if k < 1 || 15 < k then .fault (refused v)
  else
    let t := s.thread s.bun.cid k
    if t.state ≠ .empty && !t.handler then .fault (refused v)
    else if t.state ≠ .empty then .park 7 (.tstart k)
    else
      let s := s.modCore s.bun.cid (fun c => { c with reserved := NatSet.add c.reserved k, tstartWait := none })
      .ok (s.wb (.tstart k (s.src b)))

def execTstart (a b : Reg) (s : State) : Out' := run (.tstart a b) s (effTstart a b)

/-- `TREAP` (R100): the slot is emptied in the write-back cycle. -/
def execTreap (a : Reg) (s : State) : Out' :=
  run (.treap a) s (fun s =>
    let v := s.src a
    if v.toNat < 1 || 15 < v.toNat then .fault (refused v)
    else
      let t := s.thread s.bun.cid v.toNat
      if t.state ≠ .empty && t.handler then .fault (refused v)
      else .ok (s.wb (.treap v.toNat)))

/-- The state codes of R96. -/
def TState.code : TState → Nat
  | .empty => 0 | .ready => 1 | .parked => 2 | .dropped => 3 | .exited => 4 | .stopped => 5

/-- A parked `WAIT` waits for a class that holds a request which is parked at its bank or awaits retry (R134). -/
def State.waitsAtBank (s : State) (cid slot : Nat) : Bool :=
  s.reqs.any (fun r => r.cid = cid && r.slot = slot && r.scratchy &&
    (match r.cls with | some k => (s.thread cid slot).waitOn.contains k | none => false) &&
    (match r.stage with
      | .parked => true
      | .refused _ => true
      | _ => false))

/-- The park reason that `TSTAT` shows (R101, R134). -/
def State.parkShown (s : State) (cid slot : Nat) : Nat :=
  let t := s.thread cid slot
  if t.state ≠ .parked then 0
  else if t.reason = 0 && s.waitsAtBank cid slot then 5
  else t.reason

/-- The word of `TSTAT` (R101): a thread whose record is still to be written shows as ready (log entry 103). -/
def State.tstat (s : State) (cid slot : Nat) : Word :=
  let t := s.thread cid slot
  if t.state = .empty then 0
  else if s.recPending cid slot then wrap64 (t.icnt % 2 ^ 32 * 2 ^ 32 + 1)
  else wrap64 (t.icnt % 2 ^ 32 * 2 ^ 32 + (if t.state = .stopped then t.code else 0) * 2 ^ 24 +
    s.parkShown cid slot * 2 ^ 8 + (if t.handler then 8 else 0) + t.state.code)

def execTstat (d b : Reg) (s : State) : Out' :=
  run (.tstat d b) s (fun s =>
    let v := s.src b
    if 15 < v.toNat then .fault (refused v) else putD d (s.tstat s.bun.cid v.toNat) s)

/-! ### WAIT (R105) -/

def waitOk (t : Thread) (c : Cls) (n : Fin 16) : Bool := n = 15 || t.count c ≤ n.val

def effWait (mx cp st ld : Fin 16) (s : State) : Res :=
  let t := s.me
  let left := ([(Cls.ld, ld), (Cls.st, st), (Cls.cp, cp), (Cls.mx, mx)].filter (fun (c, n) => !waitOk t c n)).map (·.1)
  if left.isEmpty then .ok s else .park 0 (.wait left)

def execWait (mx cp st ld : Fin 16) (s : State) : Out' := run (.wait mx cp st ld) s (effWait mx cp st ld)

/-! ### FENCE and WIDEN (R219, R221) -/

/-- Every line the thread holds at a narrower scope can be widened now: the stores before its pins are performed. -/
def widenReady (s : State) (sc : Scope) : Bool :=
  sc.rank ≤ 1 || s.pinsReady s.bun.cid (s.pinsBelow s.bun.cid s.bun.slot sc) (some s.bun.slot)

def effWiden (sc : Scope) (s : State) : Res :=
  if widenReady s sc then .ok (s.widenPins s.bun.cid s.bun.slot sc) else .park 0

def execWiden (sc : Scope) (s : State) : Out' := run (.widen sc) s (effWiden sc)

/-- Operations that a `FENCE` of scope core does not wait for: stores with buffer entries. -/
def State.bufferedOut (s : State) (o : Out) : Bool :=
  match s.req? o.id with
  | some r => r.buffered
  | none => false

/-- What a `FENCE` waits for (R219): an `STS`, which may come to park, holds it until it proceeds. -/
def fenceReady (s : State) (sc : Scope) : Bool :=
  let t := s.me
  let mine (r : Req) : Bool := r.cid = s.bun.cid && r.slot = s.bun.slot
  t.count .ld = 0 &&
  !s.reqs.any (fun r => mine r && (r.op = .feset || r.op = .feclr || r.op = .sts) && !r.stage.performed) &&
  (if sc.rank = 1 then t.outs.all (fun o => o.cls ≠ .st || o.done || s.bufferedOut o) else t.count .st = 0) &&
  widenReady s sc

def effFence (sc : Scope) (s : State) : Res :=
  if sc.rank = 0 then .ok s
  else if fenceReady s sc then .ok (s.widenPins s.bun.cid s.bun.slot sc) else .park 0

def execFence (sc : Scope) (s : State) : Out' := run (.fence sc) s (effFence sc)

/-! ### The vector mode (R250) -/

/-- A vector memory operation of a core is outstanding. -/
def State.vmemBusy (s : State) (cid : Nat) : Bool :=
  s.reqs.any (fun r => r.cid = cid && r.op.isVec) ||
  s.wbs.any (fun w => w.cid = cid && (match w.act with | .vload _ _ _ _ => true | _ => false))

/-- Cores of a cluster that hold `w` registers: in long mode, or switching to it. -/
def State.longCores (s : State) (cl : Nat) : Nat :=
  ((List.range 16).filter (fun j => (s.core (32 * cl + j)).long || (s.core (32 * cl + j)).vmodeBusy.isSome)).length

/-- The cores of a displaced team that were in long mode. -/
def Team.longCount (t : Team) : Nat := (t.saved.filter (fun c => c.core.long)).length

/-- What requests that parked before an order number are to be granted first: other cores' `VMODE.LONG`s, the tinker's
`CTXLOAD`, and teams that wait to return (R250, R336). -/
def State.longAhead (s : State) (cl me ord : Nat) : Nat :=
  ((List.range 17).filter (fun j => 32 * cl + j ≠ me && !(s.core (32 * cl + j)).long &&
    (s.core (32 * cl + j)).vmodeWait.any (fun w => w.2 < ord))).length +
  ((((s.regions.filter (fun e => e.2.live)).flatMap (fun e => e.2.teams)).filter (fun e => e.2.cl = cl && e.2.longWait.any (fun w => w < ord))).map
    (fun e => e.2.longCount)).sum

/-- 16 `w` registers are free for an instruction of the bundle in progress: parked requests come first, in the order in
which they parked. -/
def longFree (s : State) : Bool :=
  let ord := ((s.myCore.vmodeWait.find? (fun w => w.1 = s.bun.slot)).map (·.2)).getD s.nextId
  s.longCores s.myCl + s.longAhead s.myCl s.bun.cid ord < 8

/-- The thread waits no more for its core's mode. -/
def State.modeAsked (s : State) : State :=
  s.modCore s.bun.cid (fun c => { c with vmodeWait := c.vmodeWait.filter (fun w => w.1 ≠ s.bun.slot) })

/-- A switch begins: until its write-back the core's other threads issue no vector bundle. -/
def vmodeStart (long : Bool) (s : State) : Res :=
  let k := s.bun.slot
  .ok ((s.modCore s.bun.cid (fun c => { c with vmodeBusy := some k, vmodeWait := c.vmodeWait.filter (fun w => w.1 ≠ k) })).wb
    (.vmode long))

/-- A `VMODE` that finds its mode in force has no effect. -/
def vmodeSame (s : State) : Res := .ok s.modeAsked

def effVmodeLong (s : State) : Res :=
  if s.myCore.long then vmodeSame s
  else if s.myCore.vmodeBusy.isSome || s.vmemBusy s.bun.cid || !longFree s then .park 6 .vmode
  else vmodeStart true s

def effVmode (s : State) : Res :=
  if !s.myCore.long then vmodeSame s
  else if s.myCore.vmodeBusy.isSome || s.vmemBusy s.bun.cid then .park 6 .vmode
  else vmodeStart false s

def execVmodeLong (s : State) : Out' := run .vmodeLong s effVmodeLong
def execVmode (s : State) : Out' := run .vmode s effVmode

/-! ### Rendezvous (R109 to R112) -/

/-- The point that an instruction of the bundle in progress names. -/
def State.myPoint (s : State) (pt : Nat) : PointSt := s.point s.rid s.myCore.team pt

def execRvinit (a : Reg) (pt : Point) (s : State) : Out' :=
  run (.rvinit a pt) s (fun s =>
    let v := s.src a
    let p := s.myPoint pt.val
    if v.toNat < 1 || 256 < v.toNat then .fault notHere
    else match p.expect with
      | some x => if x = v.toNat then .ok s else .fault notHere
      | none => .ok (s.setPoint s.rid s.myCore.team pt.val { p with expect := some v.toNat }))

/-- The arrival joins those that wait to be counted (R112). -/
def execRvarr (pt : Point) (s : State) : Out' :=
  run (.rvarr pt) s (fun s =>
    if (s.myPoint pt.val).expect.isNone then .fault notHere
    else
      let a : RvWait := ⟨s.bun.cid, s.bun.slot, s.rid, s.myCore.team, pt.val, s.nextId, max s.cyc s.me.stored⟩
      .ok { s with nextId := s.nextId + 1, arrivals := insertArrival a s.arrivals })

/-- `RVWAIT` (R111). An arrival of the thread that is not counted yet keeps it parked; without an arrival it waits for the
phase it first saw to complete. -/
def effRvwait (pt : Point) (s : State) : Res :=
  let p := s.myPoint pt.val
  let t := s.me
  let go (s : State) : Res := .ok (s.modMe (fun t => { t with rvWait := none }))
  if p.expect.isNone then .fault notHere
  else if s.arrivals.any (fun a => a.cid = s.bun.cid && a.slot = s.bun.slot && a.point = pt.val) then .park 3
  else match Table.find t.rv pt.val with
    | some (ph, true) => if p.phase = ph then .park 3 else go s
    | _ => match t.rvWait with
      | some (q, ph) => if q = pt.val && p.phase ≠ ph then go s else .park 3 (.rv pt.val (if q = pt.val then ph else p.phase))
      | none => .park 3 (.rv pt.val p.phase)

def execRvwait (pt : Point) (s : State) : Out' := run (.rvwait pt) s (effRvwait pt)

end Sys2Proof.Machine
end

