-- ==== Sys2Proof/Machine/Start.lean ====
section
/-! DEFINITION. How a thread starts: its registers (R80), the segments of the region's load table (R284, R299, R303), and
its allowance (R285, R304). -/

namespace Sys2Proof.Machine

/-! ### The load table (R284) -/

/-- Doubleword i of the load table, read through the region's tables. -/
def State.imgDw (s : State) (r : Region) (die i : Nat) : Nat := (s.dwVa r die (r.field 43 + 8 * i)).getD 0

/-- What stands in the way of the table's first n doublewords, but for its home: a path that is down (R340), or poison (R341). -/
def State.imgBad (s : State) (r : Region) (die n : Nat) : Option Flt :=
  if r.field 43 = 0 then none
  else match s.pathCut r die (r.field 43 + 8) (8 * (n - 1)) with
    | some a => some (linkFlt a)
    | none => (((List.range n).drop 1).find? (fun i => s.dwBad r die (r.field 43 + 8 * i))).map (fun i => poisonFlt (r.field 43 + 8 * i))

/-- Entry counts of the table: segments, data images, banks, channels, handlers. -/
def nSeg (h : Nat) : Nat := h % 16
def nData (h : Nat) : Nat := h / 2 ^ 8 % 16
def nBank (h : Nat) : Nat := h / 2 ^ 12 % 64
def nChan (h : Nat) : Nat := h / 2 ^ 18 % 64
def nHdl (h : Nat) : Nat := h / 2 ^ 24 % 32

/-- The doubleword at which the entries of a kind begin, and the end of the table. -/
def dataAt (h : Nat) : Nat := 2 + 3 * nSeg h
def bankAt (h : Nat) : Nat := dataAt h + 3 * nData h
def chanAt (h : Nat) : Nat := bankAt h + 2 * nBank h
def hdlAt (h : Nat) : Nat := chanAt h + 3 * nChan h
def tableEnd (h : Nat) : Nat := hdlAt h + 2 * nHdl h

/-- The bytes of the table. -/
def State.tableBytes (s : State) (r : Region) (die : Nat) : Nat := 8 * tableEnd (s.imgDw r die 1)

/-- The lines of the table may be read: its first, then all that it names (R6, R220, R222). -/
def State.tableClear (s : State) (r : Region) (die : Nat) : Bool :=
  r.field 43 = 0 || (s.rangeClear r die (r.field 43) 16 && s.rangeClear r die (r.field 43) (s.tableBytes r die))

/-- `n` bytes of the table have been read (R201). -/
def State.tableSeen (s : State) (r : Region) (die n : Nat) : State := if r.field 43 = 0 then s else s.vaSeen r die (r.field 43) n

/-- A segment base word for a core: a home-relative one counts from the core's first home bank. -/
def homeBase (b core : Nat) : Nat := if b / 2 ^ 63 = 1 then b % 2 ^ 23 + 0x40000 * core else b

/-- The entrant segment (R303, (19.1)): growths n, k, entrant e, from the declared pair. -/
def entrantSeg (k e n : Nat) (g : SegReg) : SegReg :=
  let l := g.limit
  if 2 ^ 57 < g.base.toNat + 2 ^ k * l * 2 ^ (k - 1) then SegReg.zero
  else ⟨wrap64 (g.base.toNat + e * l * 2 ^ (k - 1)), wrap64 (g.lr.toNat / 2 ^ 52 * 2 ^ 52 + l * 2 ^ n)⟩

/-- The growths of a core's entrant. -/
def Region.growthsOf (r : Region) (e : Nat) : Nat := ((Table.find r.entrants e).map (·.growths)).getD 0

/-- `g7` of this pair would be an entrant segment. -/
def isEntSeg (r : Region) (n : Nat) (g : SegReg) : Bool := r.kind = .tournament && n = 7 && g.spaceCode = 0

/-- The segments of a thread of core cid, and whether its `g7` is the entrant segment. -/
def loadSegs (s : State) (r : Region) (cid : Nat) : List (Nat × SegReg) × Bool :=
  if r.field 43 = 0 then ([], false)
  else
    let die := dieOf cid
    let h := s.imgDw r die 1
    (List.range (min 8 (nSeg h))).foldl (fun acc i =>
      let n := s.imgDw r die (2 + 3 * i) % 8
      let g : SegReg := ⟨wrap64 (homeBase (s.imgDw r die (3 + 3 * i)) (coreOf cid)), wrap64 (s.imgDw r die (4 + 3 * i))⟩
      if isEntSeg r n g then
        let e := (s.core cid).entrant
        (Table.put SegReg.zero acc.1 n (entrantSeg (r.field 29) e (r.growthsOf e) g), true)
      else (Table.put SegReg.zero acc.1 n g, acc.2)) ([], false)

/-! ### Threads -/

/-- The allowance a thread starts with: thread_allow, or its entrant's share of the running round (R285, R304). -/
def Region.startAllow (r : Region) : Word :=
  if r.kind = .tournament && r.round < r.field 29 then wrap64 (r.field 30 * 2 ^ r.round) else wrap64 (r.field 16)

/-- A thread starts in a slot (R80): private registers zero, segments from the load table, `allow` set, nothing
outstanding; `f` makes what is particular to the start. One whose segment entries are poisoned, or behind a path that is down, stops
at its first bundle (R340, R341, log entry 120). -/
def State.startThread (s : State) (cid slot : Nat) (pc : Word) (f : Thread → Thread) : State :=
  match s.regionOf cid with
  | none => s
  | some r =>
    let (segs, ent) := loadSegs s r cid
    let bad := s.imgBad r (dieOf cid) (dataAt (s.imgDw r (dieOf cid) 1))
    let s := (s.tableSeen r (dieOf cid) (8 * dataAt (s.imgDw r (dieOf cid) 1))).setThread cid slot (f { Thread.fresh with state := .ready, pc := pc, allow := r.startAllow, segs := segs, entSeg := ent })
    match bad with
    | some f => stopAs s cid slot f pc 0
    | none => s

/-- A thread that has just started stops at its first bundle, unless its start has stopped it already. -/
def State.stopStarted (s : State) (cid slot : Nat) (f : Flt) (pc : Word) : State :=
  if (s.thread cid slot).state = .ready then stopAs s cid slot f pc 0 else s

end Sys2Proof.Machine
end

