-- ==== Sys2Proof/Machine/Channels.lean ====
section
/-! DEFINITION. Channels, messages and virtual time (R135 to R165): ends and joins, messages, dispatch, promises and
hunger, floor sweeps, closing, dead letters, and the atomics that a sweep releases (R319 to R321). -/

namespace Sys2Proof.Machine

/-! ### Ends of a tile -/

def Core.outEnd? (c : Core) (i : Nat) : Option OutEnd := Table.find c.outEnds i
def Core.inEnd? (c : Core) (i : Nat) : Option InEnd := Table.find c.inEnds i
def State.setOut (s : State) (cid i : Nat) (e : OutEnd) : State :=
  s.modCore cid (fun c => { c with outEnds := Table.set c.outEnds i e })
def State.setIn (s : State) (cid i : Nat) (e : InEnd) : State :=
  s.modCore cid (fun c => { c with inEnds := Table.set c.inEnds i e })

/-- A sum of timestamps, capped at ENDT (R135). -/
def tsAdd (a b : Nat) : Nat := min Config.endt (a + b)

/-- A flit leaves a tile. -/
def State.sendFlit (s : State) (f : Flit) : State := { s with flits := s.flits ++ [f] }

/-- A flit without a sending thread, between an end of core cid and its peer. -/
def State.flit (s : State) (cid : Nat) (kind : FlitKind) (idx peer pidx seq ts : Nat) (payload : List Word) : Flit :=
  { kind := kind, rid := ((s.core cid).region).getD 0, slot := 0, bundle := 0, icnt := 0, dst := peer, didx := pidx,
    src := s.coord cid, sidx := idx, seq := seq, ts := ts, payload := payload, poisoned := false, sent := s.cyc }

/-! ### The order of arrivals (R144, R145) -/

/-- A queued arrival with its inbound index. -/
abbrev Queued := Nat × Arrival

/-- Order by (t, c, k) (R144); arrivals of one kind and end are compared in their order. -/
def Queued.before (a b : Queued) : Bool :=
  a.2.ts < b.2.ts || (a.2.ts = b.2.ts && (a.1 < b.1 || (a.1 = b.1 && a.2.start && !b.2.start)))

/-- Every queued arrival of a tile, in order within each end and kind. -/
def Core.queued (c : Core) : List Queued :=
  c.inEnds.flatMap (fun (i, e) => (e.starts ++ e.queue).map (fun a => (i, a)))

def firstOf : List Queued → Option Queued
  | [] => none
  | a :: t => match firstOf t with
    | none => some a
    | some b => if b.before a then some b else some a

/-- The candidate (R144). -/
def Core.candidate (c : Core) : Option Queued := firstOf c.queued

/-- An inbound end takes part in R145, R152 and R155: declared, not closed, not zero-lookahead. -/
def InEnd.open' (e : InEnd) : Bool := !e.closed && !e.zero

/-- The ends that block an arrival (t, c) (R145): none on a zero-lookahead end (R161). -/
def Core.blockers (c : Core) (i t : Nat) : List (Nat × InEnd) :=
  if (match c.inEnd? i with | some e => e.zero | none => false) then []
  else c.inEnds.filter (fun (j, e) => decide (j ≠ i) && e.open' && !(t < e.promise || (t = e.promise && i < j)))

/-- An arrival is deliverable (R145, R159, R161). -/
def Core.deliverable (c : Core) (q : Queued) : Bool :=
  q.2.released || (match c.inEnd? q.1 with
    | some e => !e.zero && (c.blockers q.1 q.2.ts).isEmpty
    | none => false)

/-- The end with the least (p, j) of a list with rising indices. -/
def leastEnd : List (Nat × InEnd) → Option (Nat × InEnd)
  | [] => none
  | a :: t => match leastEnd t with
    | none => some a
    | some b => if b.2.promise < a.2.promise then some b else some a

/-! ### Horizon, promises and hunger (R152 to R157) -/

/-- Slots that run handlers. -/
def State.handlers (s : State) (cid : Nat) : List Nat :=
  (List.range 16).filter (fun k => (s.thread cid k).handler && (s.thread cid k).state ≠ .empty)

/-- What holds a horizon besides promises: handlers, the first queued arrival, the tile-task `now` (R152). -/
def State.heldTimes (s : State) (cid : Nat) : List Nat :=
  let c := s.core cid
  (s.handlers cid).map (fun k => (s.thread cid k).now) ++ (c.candidate.toList.map (fun q => q.2.ts)) ++
    (if c.attached then [c.tileNow] else [])

/-- The horizon H (R152). -/
def State.horizon (s : State) (cid : Nat) : Nat :=
  let ps := ((s.core cid).inEnds.filter (fun (_, e) => e.open')).map (fun (_, e) => e.promise)
  (s.heldTimes cid ++ ps).foldl min Config.endt

/-- The promise of an outbound end (7.1). -/
def OutEnd.promise (e : OutEnd) (h : Nat) : Nat := if e.closed then Config.endt else min Config.endt (max (tsAdd h e.look) e.floorK)

/-- A promise flit goes out (R156): it takes a number of the channel's sequence, raises T and clears the hunger bit. -/
def State.sendPromise (s : State) (cid i : Nat) (e : OutEnd) (v : Nat) : State :=
  (s.sendFlit (s.flit cid .promise i e.peer e.pidx e.seq v [])).setOut cid i
    { e with told := v, hunger := false, seq := (e.seq + 1) % 2 ^ 16 }

/-- A hunger flit goes out on an inbound end (R155), or is held at it until its join (R165). -/
def State.sendHunger (s : State) (cid j : Nat) (e : InEnd) : State :=
  if !e.joined then s.setIn cid j { e with due := true }
  else if e.asked then s
  else (s.sendFlit (s.flit cid .hunger j e.peer e.pidx 0 0 [])).setIn cid j { e with asked := true }

/-- A held hunger flit leaves as its end joins (R165); a zero-lookahead end carries none (R155). -/
def State.sendHeldHunger (s : State) (cid j : Nat) : State :=
  match (s.core cid).inEnd? j with
  | none => s
  | some e =>
    let s := s.setIn cid j { e with due := false }
    if e.due && !e.zero then s.sendHunger cid j { e with due := false } else s

/-- An outbound end can answer its hunger (R156, R161, R165). -/
def OutEnd.answers (e : OutEnd) (h : Nat) : Bool :=
  e.hunger && e.joined && !e.closed && e.look ≠ 0 && tsAdd e.told e.quantum ≤ e.promise h

/-- The flits a tile owes (R155 to R157): hunger on the least blocker of a candidate that is not deliverable; promises
on hungry ends; hunger passed on for a hungry end that cannot answer, when an inbound promise alone holds the horizon. -/
def State.tileFlits (s : State) (cid : Nat) : State :=
  let c := s.core cid
  let s := match c.candidate with
    | some q => if c.deliverable q then s else
        match leastEnd (c.blockers q.1 q.2.ts) with
        | some (j, e) => s.sendHunger cid j e
        | none => s
    | none => s
  let h := s.horizon cid
  let s := (s.core cid).outEnds.foldl (fun s (i, e) => if e.answers h then s.sendPromise cid i e (e.promise h) else s) s
  let c := s.core cid
  if c.outEnds.any (fun (_, e) => e.hunger && e.joined && !e.closed && e.look ≠ 0) then
    match leastEnd (c.inEnds.filter (fun (_, e) => e.open')) with
    | some (j, e) => if e.promise = h && !(s.heldTimes cid).contains h then s.sendHunger cid j e else s
    | none => s
  else s

/-! ### Declaring and joining (R140, R141) -/

/-- An instruction of this chapter outside an event region (R136). -/
def State.eventHere (s : State) : Bool := match s.regionOf s.bun.cid with | some r => r.kind = .event | none => false

/-- An inbound and an outbound end just declared. -/
def InEnd.declared (b : Nat) : InEnd :=
  { peer := b / 2 ^ 24 % 2 ^ 26, pidx := b / 2 ^ 56 % 16, cls := b / 2 ^ 60, promise := 0, joined := false,
    zero := false, closed := false, handler := 0, queue := [], starts := [], expect := 0, early := [], asked := false,
    due := false }
def OutEnd.declared (a b : Nat) : OutEnd :=
  { look := a, quantum := b % 2 ^ 24, peer := b / 2 ^ 24 % 2 ^ 26, pidx := b / 2 ^ 56 % 16, told := 0, floorK := 0,
    hunger := false, joined := false, closed := false, allow := 8, seq := 0, unret := [] }

/-- The declaration of an end of core cid (R140): the fault it raises, or the state with the end declared and its join
flit sent (R141). The flit's payload says whether its sender is the outbound end, its timestamp is L. -/
def State.declareEnd (s : State) (cid : Nat) (r : Region) (a b : Word) (out : Bool) (i : Nat) : Except Flt State :=
  let c := s.core cid
  let n := b.toNat
  if r.field 13 ≤ i then .error notHere
  else if (if out then (c.outEnd? i).isSome else (c.inEnd? i).isSome) then .error notHere
  else if 2 ^ 32 ≤ a.toNat then .error (refused a)
  else if n / 2 ^ 50 % 64 ≠ 0 || !coordOk (n / 2 ^ 24 % 2 ^ 26) || (out && n % 2 ^ 24 = 0) then .error (refused b)
  else if a = 0 && !r.lockstep then .error (flt5 fLookaheadZero a)
  else
    let s := if out then s.setOut cid i (OutEnd.declared a.toNat n) else s.setIn cid i (InEnd.declared n)
    .ok (s.sendFlit (s.flit cid .join i (n / 2 ^ 24 % 2 ^ 26) (n / 2 ^ 56 % 16) 0 a.toNat [if out then 1 else 0]))

/-- `CHDECL` (R140): the end is declared at issue (log entry 130). -/
def execChdecl (a b : Reg) (out : Bool) (i : Fin 16) (s : State) : Out' :=
  run (.chdecl a b out i) s (fun s =>
    match s.regionOf s.bun.cid with
    | none => .fault notHere
    | some r =>
      if r.kind ≠ .event || s.me.handler then .fault notHere
      else match s.declareEnd s.bun.cid r (s.src a) (s.src b) out i.val with
        | .error f => .fault f
        | .ok s => .ok s)

/-! ### Sending (R142, R143) -/

/-- An acquire of the thread is outstanding: its later words and messages wait in the port (R217). -/
def State.acquiring (s : State) (cid slot id : Nat) : Bool :=
  s.reqs.any (fun r => r.cid = cid && r.slot = slot && r.id < id && r.ord.isAcq && !r.dropped)

/-- The payload `p16` to `p23`, as the bundle reads it. -/
def State.payload (s : State) : List Word := (List.range 8).map (fun k => s.reg s.bun.cid s.bun.slot (16 + k))

/-- The flit of a message of the bundle in progress. -/
def State.msgFlit (s : State) (i : Nat) (e : OutEnd) (t : Nat) : Flit :=
  { s.flit s.bun.cid .msg i e.peer e.pidx e.seq t s.payload with
      slot := s.bun.slot, bundle := s.bun.addr, icnt := s.me.icnt }

/-- The task of a tile-task thread is not attached (R136). -/
def State.detached (s : State) : Bool := !s.me.handler && !s.myCore.attached

/-- A message, or the flit behind an acquire (R142, R217). -/
def sendMessage (i t : Nat) (e : OutEnd) (s : State) : State :=
  let f := s.msgFlit i e t
  let s1 := s.setOut s.bun.cid i { e with allow := e.allow - 1, seq := (e.seq + 1) % 2 ^ 16, told := max e.told t,
                                          hunger := false, unret := e.unret ++ [(e.seq, t)] }
  if s.acquiring s.bun.cid s.bun.slot s.nextId then
    let ea : Ea := ⟨.none, s.myCl, 0, 0⟩
    s1.addReq { s1.newReq (.sendMsg i t f.payload) ea 0 [] with dest := e.seq }
  else s1.sendFlit f

def effSend (a : Reg) (i : Fin 16) (s : State) : Res :=
  let t := (s.src a).toNat
  if !s.eventHere then .fault notHere
  else match s.myCore.outEnd? i.val with
    | none => .fault notHere
    | some e =>
      if s.detached then .fault notHere
      else if e.closed then .fault (fltAt fChannelClosed 0)
      else if t = Config.endt then .fault (refused (s.src a))
      else if t < tsAdd (s.nowOf s.bun.cid s.bun.slot) e.look || t < e.floorK || t < e.told then
        .fault (flt5 fLookaheadViolation (s.src a))
      else if !e.joined || e.allow = 0 then .park 2
      else .ok (sendMessage i.val t e s)

/-- `SEND` (R142). -/
def execSend (a : Reg) (i : Fin 16) (s : State) : Out' := run (.send a i) s (effSend a i)

/-- The message that waited behind an acquire leaves the port (R217). -/
def State.sendHeld (s : State) (r : Req) : State :=
  match r.op with
  | .sendMsg i t payload =>
    (match (s.core r.cid).outEnd? i with
      | some e => s.sendFlit { s.flit r.cid .msg i e.peer e.pidx r.dest t payload with
          slot := r.slot, bundle := r.bundle, icnt := r.icnt }
      | none => s).endReq r
  | _ => s

/-! ### The instructions of a handler and its tile (R148 to R151, R154, R160, R162) -/

/-- Writes `p16` to `p25` and d of a `RECV` (R148). -/
def recvWrites (d : Reg) (i : Nat) (a : Arrival) (s : State) : State :=
  let s := (List.range 8).foldl (fun s k => s.writeD (16 + k) (a.payload.getD k 0)) s
  (((s.writeD 24 (wrap64 a.sender)).writeD 25 (wrap64 i)).writeD d.val (wrap64 a.ts)).wb (.recv i a)

def effRecv (d : Reg) (s : State) : Res :=
  if !s.eventHere || s.bun.slot ≠ 0 || s.me.handler || !s.myCore.attached then .fault notHere
  else match s.me.gift with
    | some (i, a) => .ok (recvWrites d i a (s.modMe (fun t => { t with gift := none })))
    | none => .park 9

/-- `RECV` (R148): parked until dispatch gives it an arrival. -/
def execRecv (d : Reg) (s : State) : Out' := run (.recv d) s (effRecv d)

/-- `EVDONE` (R149): its effect comes at write-back. -/
def execEvdone (s : State) : Out' :=
  run .evdone s (fun s =>
    if !s.eventHere || (!s.me.handler && s.bun.slot ≠ 0) then .fault notHere else .ok (s.wb .evdone))

/-- `HDLSET` (R151). -/
def execHdlset (a : Reg) (i : Fin 16) (s : State) : Out' :=
  run (.hdlset a i) s (fun s =>
    if !s.eventHere || s.me.handler then .fault notHere
    else match s.myCore.inEnd? i.val with
      | some e => if e.closed then .fault notHere else .ok (s.wb (.hdlset i.val (s.src a)))
      | none => .fault notHere)

/-- `PROMISE` (R154): K rises at issue (log entry 130). -/
def execPromise (a : Reg) (i : Fin 16) (s : State) : Out' :=
  run (.promise a i) s (fun s =>
    if !s.eventHere then .fault notHere
    else match s.myCore.outEnd? i.val with
      | none => .fault notHere
      | some e =>
        if e.closed then .fault (fltAt fChannelClosed 0)
        else .ok (s.setOut s.bun.cid i.val { e with floorK := max e.floorK (s.src a).toNat }))

/-- `FLOOR` (R160): triggers a sweep and writes the floor of the issue. -/
def execFloor (d : Reg) (s : State) : Out' :=
  run (.floor d) s (fun s =>
    match s.regionOf s.bun.cid with
    | some r => if r.kind ≠ .event then .fault notHere
        else putD d (wrap64 r.floor) (s.modRegion r.id (fun r => { r with sweepDue := true }))
    | none => .fault notHere)

/-- `CHCLOSE` (R162): at write-back. -/
def execChclose (out : Bool) (i : Fin 16) (s : State) : Out' :=
  run (.chclose out i) s (fun s =>
    let known := if out then (s.myCore.outEnd? i.val).isSome else (s.myCore.inEnd? i.val).isSome
    if !s.eventHere || !known then .fault notHere else .ok (s.wb (.chclose out i.val)))

/-- A byte of scratch as a load of the core would see it: from the store buffer, else from the bank. -/
def State.seenByte (s : State) (cid key : Nat) : Nat :=
  match bufByte (s.buffer cid) key with
  | some (_, b) => b
  | none => (s.byte key).toNat

def State.seenDw (s : State) (cid key : Nat) : Nat :=
  (List.range 8).foldr (fun i acc => s.seenByte cid (key + i) + 256 * acc) 0

/-- The record of an `EVSTART` lies, 8-aligned, within one of the core's home banks. -/
def startInHome (cid a : Nat) : Bool :=
  a % 8 = 0 && bankOfSa a / 2 = coreOf cid && a < 0x400000 && bankOfSa a = bankOfSa (a + 79)

/-- `EVSTART` (R150): word 5 of a refusal holds the operand, the record's address, whichever of its words is refused (log entry
129). -/
def effEvstart (a : Reg) (s : State) : Res :=
  let v := s.src a
  let sa := v.toNat
  let cid := s.bun.cid
  if !s.eventHere || s.me.handler || !s.myCore.attached || !startInHome cid sa then .fault (refused v)
  else
    let k := scratchKey s.myCl sa
    match s.poisoned k 80 with
    | some w => .fault (poisonFlt (w - scratchKey s.myCl 0))
    | none =>
      let t := s.seenDw cid k
      let w1 := s.seenDw cid (k + 8)
      match s.myCore.inEnd? (w1 % 16) with
      | none => .fault (refused v)
      | some e =>
        if 16 ≤ w1 || e.closed || t = Config.endt || t < s.myCore.tileNow then .fault (refused v)
        else if 8 ≤ e.starts.length then .park 2
        else
          let arr : Arrival := { ts := t, start := true, seq := 0, sender := s.coord cid, senderIdx := 0, released := false,
                                 payload := (List.range 8).map (fun i => wrap64 (s.seenDw cid (k + 16 + 8 * i))) }
          .ok ((s.setIn cid (w1 % 16) { e with starts := e.starts ++ [arr] }).tileFlits cid)

/-- `EVSTART` (R150). -/
def execEvstart (a : Reg) (s : State) : Out' := run (.evstart a) s (effEvstart a)

/-! ### Closing (R162) -/

/-- The allowance of a message returns to its sender (R143). -/
def State.returnAllow (s : State) (cid i : Nat) (e : InEnd) (a : Arrival) : State :=
  s.sendFlit (s.flit cid .ret i e.peer e.pidx a.seq a.ts [])

/-- An outbound end closes: a promise of ENDT goes out at once, or at its join (R162, R165). -/
def State.closeOut (s : State) (cid i : Nat) : State :=
  match (s.core cid).outEnd? i with
  | none => s
  | some e =>
    if e.closed then s
    else
      let e := { e with closed := true }
      if e.joined && e.look ≠ 0 then s.sendPromise cid i e Config.endt else s.setOut cid i e

/-- An inbound end closes: its arrivals are discarded and a close flit goes to the sender (R162). -/
def State.closeIn (s : State) (cid i : Nat) : State :=
  match (s.core cid).inEnd? i with
  | none => s
  | some e =>
    if e.closed then s
    else
      let s := e.queue.foldl (fun s a => s.returnAllow cid i e a) s
      ((s.sendFlit (s.flit cid .close i e.peer e.pidx 0 0 [])).setIn cid i
        { e with closed := true, queue := [], starts := [] }).checkIdle cid

/-! ### Flits at their destinations (R141, R143, R153, R156, R163) -/

/-- Where a flit's destination end is: on a placed core, on a core of a displaced team, nowhere (on a cluster that is being reset,
too: R339), or in another package. -/
inductive EndAt where
  | live (cid : Nat) | away (rid team : Nat) | gone | far
  deriving DecidableEq, Repr

/-- An end that names the flit's sender. -/
def matchIn (f : Flit) (c : Core) : Bool :=
  match c.inEnd? f.didx with | some e => e.peer = f.src && e.pidx = f.sidx | none => false
def matchOut (f : Flit) (c : Core) : Bool :=
  match c.outEnd? f.didx with | some e => e.peer = f.src && e.pidx = f.sidx | none => false

def State.endAt (s : State) (f : Flit) (p : Core → Bool) : EndAt :=
  if coordPkg f.dst ≠ s.host.pkgId then .far
  else
    let cid := coordCid f.dst
    match s.regions.findSome? (fun (rid, r) => (r.teams.find? (fun (_, t) => (t.st = .displaced || t.st = .saving) &&
        t.saved.any (fun c => c.cid = cid && p c.core))).map (fun (k, _) => (rid, k))) with
    | some (rid, k) => .away rid k
    | none => if (s.cluster (clOf cid)).resetAt.isNone && (s.core cid).region.isSome && p (s.core cid) then .live cid else .gone

def State.dropFlit (s : State) (n : Nat) : State := { s with flits := s.flits.eraseIdx n }

/-- A message or promise accepted in sequence (R143, R153, R155): the promise rises, a message is queued. A poisoned packet is
discarded, and its allowance returned (R339). -/
def State.acceptOne (s : State) (cid i : Nat) (e : InEnd) (f : Flit) : State :=
  let e := { e with promise := if f.poisoned then e.promise else max e.promise f.ts, asked := false, expect := (e.expect + 1) % 2 ^ 16 }
  if f.kind = .msg then
    let a : Arrival := { ts := f.ts, start := false, seq := f.seq, payload := f.payload, sender := f.src,
                         senderIdx := f.sidx, released := false }
    if e.closed || f.poisoned then (s.setIn cid i e).returnAllow cid i e a
    else s.setIn cid i { e with queue := e.queue ++ [a] }
  else s.setIn cid i e

/-- Early flits whose gap has filled (R143). -/
def drainEarly : Nat → State → Nat → Nat → State
  | 0, s, _, _ => s
  | fuel + 1, s, cid, i =>
    match (s.core cid).inEnd? i with
    | none => s
    | some e =>
      match e.early.find? (fun f => f.seq = e.expect) with
      | none => s
      | some f => drainEarly fuel (s.acceptOne cid i { e with early := e.early.filter (fun x => x ≠ f) } f) cid i

/-- A message or promise flit at its inbound end: accepted in sequence, or held until the gap fills (R143). -/
def State.acceptFlit (s : State) (cid : Nat) (f : Flit) : State :=
  match (s.core cid).inEnd? f.didx with
  | none => s
  | some e =>
    if f.seq = e.expect then (drainEarly 16 (s.acceptOne cid f.didx e f) cid f.didx).tileFlits cid
    else s.setIn cid f.didx { e with early := e.early ++ [f] }

/-- An inbound end that can take flits of its channel: joined (R141). -/
def State.inJoined (s : State) (cid i : Nat) : Bool := match (s.core cid).inEnd? i with | some e => e.joined | none => false

/-- The path between a flit's tiles is up: while it is down, the flit waits (R6, R340, R356). -/
def State.flitPath (s : State) (f : Flit) : Bool :=
  if coordPkg f.dst ≠ s.host.pkgId then s.pkgReach (coordPkg f.dst)
  else if coordPkg f.src ≠ s.host.pkgId then s.pkgReach (coordPkg f.src)
  else s.clustersLinked (clOf (coordCid f.src)) (clOf (coordCid f.dst))

/-- The n-th flit under way, of a kind, that can reach its tile. -/
def State.flitOf (s : State) (n : Nat) (k : FlitKind) : Option Flit :=
  match s.flits[n]? with
  | some f => if f.kind = k && s.flitPath f then some f else none
  | none => none

/-- A message reaches its destination, which takes it or has exited: then it turns back as a dead letter (R163). -/
def canMessage (s : State) (n : Nat) : Bool :=
  match s.flitOf n .msg with
  | none => false
  | some f => match s.endAt f (matchIn f) with
    | .live cid => s.inJoined cid f.didx
    | .away _ _ => false
    | .gone => true
    | .far => false

def messageArrive (s : State) (n : Nat) : State :=
  match s.flitOf n .msg with
  | none => s
  | some f => match s.endAt f (matchIn f) with
    | .live cid => (s.dropFlit n).acceptFlit cid f
    | .gone => (s.dropFlit n).sendFlit { f with kind := .dead }
    | _ => s

/-- `MESSAGE_ACCEPT` (R143). -/
def execMessageAccept (n : Nat) (s : State) : Out' := .next (if canMessage s n then messageArrive s n else s)

/-- A message for a tile of a displaced team is appended to its spill log while that has room (R163, R335). -/
def canSpill (s : State) (n : Nat) : Bool :=
  match s.flitOf n .msg with
  | none => false
  | some f => match s.endAt f (matchIn f) with
    | .away rid team => (match s.region? rid with
      | some r => (match Table.find r.teams team with | some t => t.log.length < r.logCap | none => false)
      | none => false)
    | _ => false

def spillMessage (s : State) (n : Nat) : State :=
  match s.flitOf n .msg with
  | none => s
  | some f => match s.endAt f (matchIn f) with
    | .away rid team => ((s.logAppend rid team (.msg f)).map (fun s => s.dropFlit n)).getD s
    | _ => s

/-- `DISPLACED_REQUEST_ARRIVAL` (R335): a request by its number; 2^48 + n names the n-th flit under way, a message. -/
def execDisplacedRequestArrival (id : Nat) (s : State) : Out' :=
  .next (if 2 ^ 48 ≤ id then (if canSpill s (id - 2 ^ 48) then spillMessage s (id - 2 ^ 48) else s)
    else if canDisplaced s id then displacedArrive s id else s)

/-- Flits that a displaced or unjoined end keeps waiting. -/
def canPromise (s : State) (n : Nat) : Bool :=
  match s.flitOf n .promise with
  | none => false
  | some f => match s.endAt f (matchIn f) with
    | .live cid => s.inJoined cid f.didx
    | .away _ _ => false
    | .gone => true
    | .far => false

/-- `PROMISE_FLIT_ARRIVAL` (R153). -/
def execPromiseFlitArrival (n : Nat) (s : State) : Out' :=
  .next (if canPromise s n then
    match s.flitOf n .promise with
    | none => s
    | some f => match s.endAt f (matchIn f) with
      | .live cid => (s.dropFlit n).acceptFlit cid f
      | _ => s.dropFlit n
  else s)

/-- A flit for an outbound end can arrive now. -/
def canOutFlit (s : State) (n : Nat) (k : FlitKind) : Bool :=
  match s.flitOf n k with
  | none => false
  | some f => match s.endAt f (matchOut f) with
    | .live _ => true
    | .away _ _ => false
    | .gone => true
    | .far => false

/-- A flit reaches an outbound end: `g` says what it does there. -/
def outFlit (s : State) (n : Nat) (k : FlitKind) (g : State → Nat → Flit → OutEnd → State) : State :=
  if !canOutFlit s n k then s
  else match s.flitOf n k with
  | none => s
  | some f =>
    match s.endAt f (matchOut f) with
    | .live cid => (match (s.core cid).outEnd? f.didx with
      | some e => g (s.dropFlit n) cid f e
      | none => s.dropFlit n)
    | _ => s.dropFlit n

/-- `HUNGER_FLIT_ARRIVAL` (R156). -/
def execHungerFlitArrival (n : Nat) (s : State) : Out' :=
  .next (outFlit s n .hunger (fun s cid f e => (s.setOut cid f.didx { e with hunger := true }).tileFlits cid))

/-- `CLOSE_FLIT_ARRIVAL` (R162). -/
def execCloseFlitArrival (n : Nat) (s : State) : Out' :=
  .next (outFlit s n .close (fun s cid f _ => s.closeOut cid f.didx))

/-- `ALLOWANCE_RETURN` (R143). -/
def execAllowanceReturn (n : Nat) (s : State) : Out' :=
  .next (outFlit s n .ret (fun s cid f e => s.setOut cid f.didx
    { e with allow := e.allow + 1, unret := e.unret.filter (fun u => u.1 ≠ f.seq) }))

/-- `JOIN_FLIT_ARRIVAL` (R141): an end that names the sender joins and answers; an end that is not declared yet will send
its own flit. A closed inbound end answers with its close flit, a closed outbound end with its promise of ENDT. -/
def canJoin (s : State) (n : Nat) : Bool :=
  match s.flitOf n .join with
  | none => false
  | some f => match s.endAt f (if f.payload = [1] then matchIn f else matchOut f) with
    | .live _ => true
    | .away _ _ => false
    | .gone => true
    | .far => false

/-- A join flit at its end (R141, R165). A promise that was due before the join is sent once P suffices, with P of that moment (log
entry 131). -/
def joinArrive (s : State) (n : Nat) : State :=
  match s.flitOf n .join with
  | none => s
  | some f =>
    let s' := s.dropFlit n
    if f.payload = [1] then
      match s.endAt f (matchIn f) with
      | .live cid => (match (s.core cid).inEnd? f.didx with
        | some e =>
          if e.joined then s'
          else
            let s := (s'.setIn cid f.didx { e with joined := true, zero := f.ts = 0 }).sendFlit
              (s'.flit cid .join f.didx f.src f.sidx 0 0 [0])
            let s := s.sendHeldHunger cid f.didx
            let s := if e.closed then s.sendFlit (s'.flit cid .close f.didx f.src f.sidx 0 0 []) else s
            s.tileFlits cid
        | none => s')
      | _ => s'
    else
      match s.endAt f (matchOut f) with
      | .live cid => (match (s.core cid).outEnd? f.didx with
        | some e =>
          if e.joined then s'
          else
            let e := { e with joined := true }
            let s := (s'.setOut cid f.didx e).sendFlit (s'.flit cid .join f.didx f.src f.sidx 0 e.look [1])
            let s := if e.closed && e.look ≠ 0 then s.sendPromise cid f.didx e Config.endt else s
            s.tileFlits cid
        | none => s')
      | _ => s'

def execJoinFlitArrival (n : Nat) (s : State) : Out' := .next (if canJoin s n then joinArrive s n else s)

/-- A dead letter is back (R163): a record of kind 3 in the sender's region, the end closes, its allowance returns; the
sending thread goes on. -/
def canDead (s : State) (n : Nat) : Bool :=
  match s.flitOf n .dead with
  | none => false
  | some f => match s.endAt { f with dst := f.src, didx := f.sidx, src := f.dst, sidx := f.didx }
      (matchOut { f with didx := f.sidx, src := f.dst, sidx := f.didx }) with
    | .live _ => true
    | .away _ _ => false
    | .gone => true
    | .far => false

def deadArrive (s : State) (n : Nat) : State :=
  match s.flitOf n .dead with
  | none => s
  | some f =>
    let cid := coordCid f.src
    let s := s.dropFlit n
    match (s.core cid).outEnd? f.sidx with
    | none => s
    | some e =>
      if (s.core cid).region ≠ some f.rid || e.peer ≠ f.dst then s
      else
        let s := s.writeRecord f.rid 3 (mkRecord fChannelClosed 3 cid f.slot s.host.pkgId f.rid (s.core cid).team
          f.bundle (wrap64 f.dst) (wrap64 (f.seq % 2 ^ 16 * 2 ^ 16 + f.sidx)) (Config.openWord5 fChannelClosed) f.icnt f.ts)
        (s.setOut cid f.sidx { e with allow := e.allow + 1, unret := e.unret.filter (fun u => u.1 ≠ f.seq) }).closeOut cid f.sidx

/-- `DEAD_LETTER_RETURN` (R163). -/
def execDeadLetterReturn (n : Nat) (s : State) : Out' := .next (if canDead s n then deadArrive s n else s)

/-! ### Dispatch (R146, R147, R318) -/

/-- The slot a handler would start in: the lowest empty one that no `TSTART` has reserved or waits for; in a deterministic
region slot 15 alone. -/
def State.handlerSlot (s : State) (cid : Nat) (det : Bool) : Option Nat :=
  let c := s.core cid
  ((List.range 16).drop 1).find? (fun k => (!det || k = 15) && (s.thread cid k).state = .empty && !c.reserved.contains k &&
    c.tstartWait ≠ some k)

/-- A `RECV` is parked and has been given nothing yet (R148). -/
def State.recvParked (s : State) (cid : Nat) : Bool :=
  let t := s.thread cid 0
  (s.core cid).attached && t.state = .parked && t.reason = 9 && t.gift.isNone

/-- What the tile does with its candidate (R146, R147). -/
inductive Route where
  | wait | recv | handler (slot : Nat)
  deriving DecidableEq, Repr

def State.route (s : State) (cid : Nat) : Route :=
  match s.regionOf cid, (s.core cid).candidate with
  | some r, some q =>
    let c := s.core cid
    match c.inEnd? q.1 with
    | none => .wait
    | some e =>
      let start : Route := match s.handlerSlot cid r.det with
        | some k => .handler k
        | none => .wait
      if r.kind ≠ .event || c.away || !c.deliverable q then .wait
      else match s.handlers cid with
        | [] =>
          if c.attached && !s.recvParked cid then .wait
          else if e.handler ≠ 0 then start
          else if s.recvParked cid then .recv
          else .wait
        | k :: _ =>
          let t := s.thread cid k
          if !r.det && e.handler ≠ 0 && e.cls ≠ 0 && t.evClass = e.cls && t.now = q.2.ts then start else .wait
  | _, _ => .wait

/-- Removes the candidate from its end; a message's allowance returns. -/
def State.takeArrival (s : State) (cid : Nat) (q : Queued) : State :=
  match (s.core cid).inEnd? q.1 with
  | none => s
  | some e =>
    if q.2.start then s.setIn cid q.1 { e with starts := e.starts.erase q.2 }
    else (s.setIn cid q.1 { e with queue := e.queue.erase q.2 }).returnAllow cid q.1 e q.2

/-- A handler starts (R80, R146). -/
def State.startHandler (s : State) (cid slot : Nat) (q : Queued) (e : InEnd) : State :=
  let regs := (q.2.payload.zipIdx.map (fun (v, k) => (16 + k, v))) ++ [(24, wrap64 q.2.sender), (25, wrap64 q.1)]
  s.startThread cid slot e.handler (fun t =>
    { t with handler := true, now := q.2.ts, evClass := e.cls,
             regs := regs.foldl (fun l (k, v) => Table.put 0 l k v) [] })

/-- `ARRIVAL_DISPATCH` (R146): the candidate is handed out. -/
def execArrivalDispatch (cid : Nat) (s : State) : Out' :=
  .next (match (s.core cid).candidate with
    | none => s
    | some q => match (s.core cid).inEnd? q.1 with
      | none => s
      | some e => match s.route cid with
        | .wait => s
        | .recv => ((s.takeArrival cid q).modThread cid 0 (fun t => { t with gift := some q })).tileFlits cid
        | .handler k => ((s.takeArrival cid q).startHandler cid k q e).tileFlits cid)

/-! ### Floor sweeps (R158, R159, R319 to R321) -/

/-- A tile is blocked (R158). -/
def State.blocked (s : State) (cid : Nat) : Bool :=
  match (s.core cid).candidate with
  | some q => !(s.core cid).deliverable q && (s.handlers cid).isEmpty
  | none => false

/-- `SWEEP_DELAY_EXPIRY` (R158): a tile has been blocked for longer than the sweep delay. -/
def canExpire (s : State) (cid : Nat) : Bool :=
  match s.regionOf cid, (s.core cid).blockedSince with
  | some r, some c => r.kind = .event && s.blocked cid && c + r.field 18 < s.cyc
  | _, _ => false

/-- `SWEEP_DELAY_EXPIRY` (R158): the count of a tile that stays blocked begins anew (log entry 128). -/
def execSweepDelayExpiry (cid : Nat) (s : State) : Out' :=
  .next (if canExpire s cid then
    match (s.core cid).region with
    | some rid => (s.modCore cid (fun c => { c with blockedSince := some s.cyc })).modRegion rid
        (fun r => { r with sweepDue := true })
    | none => s
  else s)

/-- The tiles of a region. -/
def State.tiles (s : State) (rid : Nat) : List Nat := (s.cores.filter (fun (_, c) => c.region = some rid)).map (·.1)

/-- Every tile task of a region has finished; a core that is held for a survivor runs none (R309). -/
def State.allDone (s : State) (rid : Nat) : Bool := (s.tiles rid).all (fun c => (s.core c).tileDone || (s.core c).held)

/-- Some team of a region is displaced: its sweeps are suspended (R321, R333). -/
def Region.anyDisplaced (r : Region) : Bool := r.teams.any (fun (_, t) => t.st = .displaced || t.st = .saving)

/-- An `AFADD` of a region is issued and its slice has not accepted it (R321). -/
def State.afaddsOut (s : State) (rid : Nat) : Bool := s.reqs.any (fun r => r.rid = rid && r.afTag.isSome && !r.stage.performed)

/-- The trigger of the one sweep of a deterministic region of another kind: every tile task of every team has finished and
every `AFADD` is accepted, in a tournament after the last barrier (R321). -/
def State.lastSweepDue (s : State) (r : Region) : Bool :=
  r.kind ≠ .event && r.det && !r.finalSweep && s.allDone r.id && !s.afaddsOut r.id &&
  r.teams.all (fun (_, t) => t.st = .placed || t.st = .retired) && (r.kind ≠ .tournament || r.field 29 ≤ r.round)

def canSweep (s : State) (rid : Nat) : Bool :=
  match s.region? rid with
  | some r => r.live && !r.stopDue && (r.sweepDue || s.lastSweepDue r) && !r.sweeping && !r.anyDisplaced
  | none => false

/-- `FLOOR_SWEEP_START` (R158): at most one sweep of a region is in progress. -/
def execFloorSweepStart (rid : Nat) (s : State) : Out' :=
  .next (if canSweep s rid then s.modRegion rid (fun r => { r with sweeping := true, sweepDue := false }) else s)

/-- What a tile contributes to a sweep (R159, R321). -/
def State.contribution (s : State) (det : Bool) (cid : Nat) : List Nat :=
  let c := s.core cid
  (s.handlers cid).map (fun k => (s.thread cid k).now) ++ c.queued.map (fun q => q.2.ts) ++
  (if c.attached then [c.tileNow] else []) ++ c.outEnds.flatMap (fun (_, e) => e.unret.map (·.2)) ++
  (if det then (s.reqs.filter (fun r => r.cid = cid && r.afTag.isSome && !r.stage.performed)).map (·.dest) else [])

/-- Entries in ascending tag order (R319). -/
def AfEntry.before (a b : AfEntry) : Bool :=
  a.t < b.t || (a.t = b.t && (a.w < b.w || (a.w = b.w && a.n < b.n)))

def insertAf (a : AfEntry) : List AfEntry → List AfEntry
  | [] => [a]
  | b :: t => if a.before b then a :: b :: t else b :: insertAf a t

/-- One entry applied to its line as an atomic of its core (R197, R201, R205, R320). -/
def State.applyAf (s : State) (e : AfEntry) : State :=
  let key := s.fwd e.key
  let old := s.read key 4
  let v := (atomicNew 10 false old e.b.toNat 0 (nanPayload e.bundle.toNat 0)).getD old
  let s := (s.returnGrant (lineOf key)).invalidate (lineOf key) (s.l1Bank e.cid (lineOf key))
  let (s, run) := s.atomicRun (lineOf key) e.cid
  (s.paWrite key 4 v).grantRun run e.nc e.rid e.cid key

/-- The record of a poisoned word's discarded entries (R320). -/
def State.poisonAf (s : State) (rid : Nat) (l : List AfEntry) (w : Nat) : State :=
  match l.filter (fun e => s.fwd e.key / 8 = w) with
  | [] => s
  | e :: t => s.writeRecord rid 1 (mkRecord fPoison 1 e.cid e.slot s.host.pkgId rid (s.core e.cid).team e.bundle
      (wrap64 (8 * w)) (wrap64 (t.length + 1)) 8 e.icnt e.now)

/-- An entry that a sweep with result F releases (R320). -/
def AfEntry.dueAt (e : AfEntry) (rid f : Nat) : Bool := e.rid = rid && (e.t < f || f = Config.endt)

/-- The entries of a region that a sweep with result F releases, in tag order. -/
def State.dueAf (s : State) (rid f : Nat) : List AfEntry :=
  (s.slices.flatMap (fun (_, x) => x.held.filter (fun e => e.dueAt rid f))).foldl (fun l e => insertAf e l) []

/-- They can be applied: no pin holds a line of theirs, and no engine owns one (R220, R222). -/
def State.afClear (s : State) (rid f : Nat) : Bool :=
  (s.dueAf rid f).all (fun e => !s.isPinned (lineOf (s.fwd e.key)) && !s.engineOwns (s.fwd e.key))

/-- AFADD_RELEASE_APPLY (R320): the entries of a region below F are applied in tag order, those for a poisoned word are
discarded. -/
def State.releaseAf (s : State) (rid f : Nat) : State :=
  let due := s.dueAf rid f
  let s := { s with slices := s.slices.map (fun (k, x) => (k, { x with held := x.held.filter (fun e => !e.dueAt rid f) })) }
  let bad (e : AfEntry) : Bool := (s.poisoned (s.fwd e.key) 4).isSome
  let words := (due.filter bad).foldl (fun l e => NatSet.add l (s.fwd e.key / 8)) []
  let s' := (due.filter (fun e => !bad e)).foldl (fun s e => s.applyAf e) s
  words.foldl (fun s w => s.poisonAf rid due w) s'

/-- Every inbound promise of a tile rises to F, that of an end that has not joined included (log entry 126), and arrivals at F become
deliverable (R159). -/
def Core.swept (c : Core) (f : Nat) : Core :=
  let mark (a : Arrival) : Arrival := if a.ts = f then { a with released := true } else a
  { c with inEnds := c.inEnds.map (fun (e : Nat × InEnd) => (e.1, { e.2 with
      promise := max e.2.promise f, queue := e.2.queue.map mark, starts := e.2.starts.map mark })) }

/-- The result F of a sweep (R159). -/
def State.sweepResult (s : State) (r : Region) : Nat :=
  if r.kind = .event then ((s.tiles r.id).flatMap (s.contribution r.det)).foldl min Config.endt else Config.endt

/-- A sweep of ENDT with every tile task of every team finished (R164). -/
def State.isLast (s : State) (r : Region) (f : Nat) : Bool :=
  f = Config.endt && s.allDone r.id && r.teams.all (fun (_, t) => t.st = .placed || t.st = .retired)

/-- The sweep after which the region can end: the last one, with every `AFADD` accepted (R321, R323). -/
def State.isFinal (s : State) (r : Region) (f : Nat) : Bool := s.isLast r f && !s.afaddsOut r.id

/-- `FLOOR_SWEEP_COMPLETE` (R159, R320): a region that is to be stopped releases nothing any more (R321); a last sweep that an
`AFADD` has still to reach is made again. -/
def execFloorSweepComplete (rid : Nat) (s : State) : Out' :=
  .next (match s.region? rid with
    | none => s
    | some r =>
      if !r.sweeping || r.anyDisplaced || !r.live || r.stopDue || !(s.afClear rid (s.sweepResult r)) then s
      else
        let f := s.sweepResult r
        let s := s.setRegion rid { r with sweeping := false, floor := if r.kind = .event then f else r.floor,
                                          finalSweep := s.isFinal r f, sweepDue := r.sweepDue || (s.isLast r f && s.afaddsOut rid) }
        let s := if r.det then s.releaseAf rid f else s
        if r.kind ≠ .event then s
        else
          let s := (s.tiles rid).foldl (fun s c => s.modCore c (fun x => x.swept f)) s
          (s.tiles rid).foldl (fun s c => s.tileFlits c) s)

end Sys2Proof.Machine
end

