-- ==== Sys2Proof/Machine/Images.lean ====
section
/-! DEFINITION. What a region keeps in its spill area (R277): the words of core images with their readers and reserved bits
(R338), the spilled entries of deques (R292), and frame records (R291). The order of the words inside each item is the
model's (log entries 22 and 30). -/

namespace Sys2Proof.Machine

/-! ### Bits and doublewords -/

/-- Doubleword j of a wide value. -/
def dwOf (v j : Nat) : Nat := v / 2 ^ (64 * j) % 2 ^ 64

/-- A flag at a bit. -/
def bitOf (b : Bool) (i : Nat) : Nat := if b then 2 ^ i else 0

/-- A field of a doubleword, and one of its bits. -/
def bitsAt (v lo n : Nat) : Nat := v / 2 ^ lo % 2 ^ n
def flagAt (v i : Nat) : Bool := v / 2 ^ i % 2 = 1

/-- A number that may be absent: 0, or one more than it. -/
def optCode (o : Option Nat) : Nat := match o with | some n => n + 1 | none => 0
def optOf (v : Nat) : Option Nat := if v = 0 then none else some (v - 1)

/-- Every bit of a doubleword. -/
def allBits : Nat := 2 ^ 64 - 1

/-! ### Queue registers -/

/-- A queue register's area: configuration, count, elements. -/
def queueWord (q : Option QReg) (j : Nat) : Nat :=
  match q with
  | none => 0
  | some q => match j with
    | 0 => q.depth + bitOf q.freeze 8 + bitOf q.frozen 9
    | 1 => q.elems.length
    | j + 2 => (q.elems.getD j 0).toNat

def queueOf (g : Nat → Nat) : Option QReg :=
  if bitsAt (g 0) 0 5 = 0 then none
  else some ⟨bitsAt (g 0) 0 5, flagAt (g 0) 8, flagAt (g 0) 9, (List.range (min (g 1) 16)).map (fun j => wrap64 (g (j + 2)))⟩

def queueMask (j : Nat) : Nat := if j = 0 then 31 + 2 ^ 8 + 2 ^ 9 else if j = 1 then 31 else if j < 18 then allBits else 0

/-! ### Stream registers -/

/-- A stream register's area: token and slot, bound copy, count, buffered doublewords. -/
def streamWord (q : Option SReg) (j : Nat) : Nat :=
  match q with
  | none => 0
  | some q => match j with
    | 0 => q.token % 2 ^ 32 + 2 ^ 32 + bitOf q.ended 33 + q.slot * 2 ^ 34
    | 1 => optCode q.bound
    | 2 => q.buf.length
    | j + 3 => (q.buf.getD j 0).toNat

/-- The register as its area holds it; doublewords that wait behind others have landed before a save. -/
def streamOf (g : Nat → Nat) : Option SReg :=
  if !flagAt (g 0) 32 then none
  else some { token := bitsAt (g 0) 0 32, slot := bitsAt (g 0) 34 4, bound := optOf (g 1), ended := flagAt (g 0) 33, early := [],
              buf := (List.range (min (g 2) 64)).map (fun j => wrap64 (g (j + 3))) }

def streamMask (j : Nat) : Nat :=
  if j = 0 then 2 ^ 38 - 1 else if j = 1 then allBits else if j = 2 then 127 else if j < 67 then allBits else 0

/-! ### Completion records -/

/-- The records of `s31`, oldest first: none of them is 0 (R48). -/
def compOf (l : List Nat) : List Word := (l.takeWhile (fun v => v ≠ 0)).map wrap64

/-! ### Deque entries -/

/-- A deque entry: pc, `p24` to `p31`, tags. -/
def dequeWord (e : Option DeqEntry) (j : Nat) : Nat :=
  match e with
  | none => 0
  | some e => match j with
    | 0 => e.pc.toNat
    | 9 => optCode e.frame % 2 ^ 31 + optCode e.parent % 2 ^ 31 * 2 ^ 31 + 2 ^ 63
    | j + 1 => (e.regs.getD j 0).toNat

def dequeOf (g : Nat → Nat) : Option DeqEntry :=
  if !flagAt (g 9) 63 then none
  else some ⟨wrap64 (g 0), (List.range 8).map (fun j => wrap64 (g (j + 1))), optOf (bitsAt (g 9) 0 31), optOf (bitsAt (g 9) 31 31)⟩

def dequeMask (j : Nat) : Nat := if j = 9 then allBits - 2 ^ 62 else allBits

/-! ### Channel ends -/

/-- A channel end's four doublewords. -/
def outWord (e : Option OutEnd) (j : Nat) : Nat :=
  match e with
  | none => 0
  | some e => match j with
    | 0 => e.peer * 2 ^ 24 + e.quantum + e.pidx * 2 ^ 56 + bitOf true 60 + bitOf e.joined 61 + bitOf e.closed 62 + bitOf e.hunger 63
    | 1 => e.look + e.seq * 2 ^ 32 + e.allow * 2 ^ 48
    | 2 => e.told
    | _ => e.floorK
def inWord (e : Option InEnd) (j : Nat) : Nat :=
  match e with
  | none => 0
  | some e => match j with
    | 0 => e.peer * 2 ^ 24 + e.cls + e.pidx * 2 ^ 56 + bitOf true 60 + bitOf e.joined 61 + bitOf e.closed 62 + bitOf e.asked 63
    | 1 => e.expect + bitOf e.zero 16 + bitOf e.due 17
    | 2 => e.promise
    | _ => e.handler.toNat

/-- An end as its words hold it. The messages of an outbound end whose allowance is out, and flits that an inbound end holds
until their gap fills, are no words of the image: they stay with the core's record. So do an inbound end's arrivals, which a save
moves to the spill log (R334). -/
def outOf (g : Nat → Nat) (old : Option OutEnd) : Option OutEnd :=
  if !flagAt (g 0) 60 then none
  else some { look := bitsAt (g 1) 0 32, quantum := bitsAt (g 0) 0 24, peer := bitsAt (g 0) 24 26, pidx := bitsAt (g 0) 56 4,
              told := g 2, floorK := g 3, hunger := flagAt (g 0) 63, joined := flagAt (g 0) 61, closed := flagAt (g 0) 62,
              allow := bitsAt (g 1) 48 4, seq := bitsAt (g 1) 32 16, unret := (old.map (·.unret)).getD [] }
def inOf (g : Nat → Nat) (old : Option InEnd) : Option InEnd :=
  if !flagAt (g 0) 60 then none
  else some { peer := bitsAt (g 0) 24 26, pidx := bitsAt (g 0) 56 4, cls := bitsAt (g 0) 0 4, promise := g 2,
              joined := flagAt (g 0) 61, zero := flagAt (g 1) 16, closed := flagAt (g 0) 62, handler := wrap64 (g 3),
              queue := (old.map (·.queue)).getD [], starts := (old.map (·.starts)).getD [], expect := bitsAt (g 1) 0 16,
              early := (old.map (·.early)).getD [], asked := flagAt (g 0) 63, due := flagAt (g 1) 17 }

def outMask (j : Nat) : Nat :=
  if j = 0 then 2 ^ 50 - 1 + (allBits - (2 ^ 56 - 1)) else if j = 1 then 2 ^ 52 - 1 else allBits
def inMask (j : Nat) : Nat :=
  if j = 0 then 15 + (2 ^ 50 - 2 ^ 24) + (allBits - (2 ^ 56 - 1)) else if j = 1 then 2 ^ 18 - 1 else allBits

/-! ### Stream-table entries saved open -/

def pairWord (e : Option StreamEntry) (j : Nat) : Nat :=
  match e with
  | none => 0
  | some e => if j = 0 then e.stream + e.dest * 2 ^ 8 else e.next + e.outst * 2 ^ 16 + bitOf e.openWait 24 + bitOf true 25

def pairOf (g : Nat → Nat) : Option StreamEntry :=
  if !flagAt (g 1) 25 then none
  else some ⟨bitsAt (g 0) 0 4, bitsAt (g 0) 8 56, bitsAt (g 1) 0 16, bitsAt (g 1) 16 7, flagAt (g 1) 24⟩

def pairMask (j : Nat) : Nat := if j = 0 then allBits - 240 else 2 ^ 23 - 1 + 2 ^ 24 + 2 ^ 25

/-! ### Slots -/

/-- The state with a code of R96. -/
def TState.ofCode : Nat → TState
  | 1 => .ready
  | 2 => .parked
  | 3 => .dropped
  | 4 => .exited
  | 5 => .stopped
  | _ => .empty
def TState.code' : TState → Nat
  | .empty => 0 | .ready => 1 | .parked => 2 | .dropped => 3 | .exited => 4 | .stopped => 5

/-- The kind of a withdrawn request, as its slot's words name it. -/
def MemOp.code : MemOp → Nat
  | .lds => 1 | .ldf => 2 | .sts => 3 | .stf => 4 | .feset => 5 | .feclr => 6 | .feq => 7 | .load _ => 8 | .vload => 9
  | .store => 10 | .vstore => 11 | .rst _ => 12 | .atomic _ _ _ _ => 13 | .swait _ => 14 | .tkfirst _ => 15 | .accrd _ _ _ => 16
  | .frecrd _ _ => 17 | .sseq _ => 18 | .mst => 19 | .pref => 20 | .cclean => 21 | .cinval => 22 | .fetch => 23
  | .launch _ => 24 | .pgfill _ => 25 | .bankalloc _ => 26 | .ctxsave _ => 27 | .engWord _ _ => 28 | .sendMsg _ _ _ => 29
  | .tickCmd _ _ => 30 | .areaCmd _ _ _ => 31

/-- The registers that a slot's withdrawn requests leave pending, wherever they are kept, with those an image had set:
`p0`–`p31` below, `v0`–`v31` above. -/
def pendBits (t : Thread) (rs : List Req) : Nat :=
  let on (i : Nat) : Bool := rs.any (fun r => if i < 32 then r.dst = some i else r.vdst = some (i - 32)) || flagAt t.pend i
  (List.range 64).foldl (fun a i => a + bitOf (on i) i) 0

/-- A request that a slot of an image can hold: a synchronising access to a remote bank (R336), a read of an array. -/
def Req.inImage (r : Req) : Bool :=
  !r.stage.performed && (match r.op with
    | .lds => true
    | .ldf => true
    | .sts => true
    | .tkfirst _ => true
    | .accrd _ _ _ => true
    | _ => false)

/-- What a request asks for besides its registers: its address, the count of a `TKFIRST`, the place of an `ACCRD`. -/
def Req.param (r : Req) : Nat :=
  match r.op with
  | .tkfirst k => k
  | .accrd t row col => t + row * 2 ^ 8 + col * 2 ^ 16
  | _ => (r.pieces.head?.map (·.addr)).getD 0 % 2 ^ 64

/-- The words of a withdrawn request: kind, destination, refusal count, cluster and segment, parameter, data, bundle. -/
def reqWord (r : Req) (j : Nat) : Nat :=
  match j with
  | 0 => r.op.code + optCode r.dst % 2 ^ 8 * 2 ^ 8 + r.refusals % 2 ^ 16 * 2 ^ 16 + r.cl % 2 ^ 23 * 2 ^ 32 +
      r.seg % 8 * 2 ^ 56 + bitOf (decide (r.space = .remote)) 59
  | 1 => r.param
  | 2 => (r.pieces.head?.map (·.data)).getD 0 % 2 ^ 64
  | _ => r.bundle.toNat

/-- The operation that a kind and a parameter name. -/
def MemOp.ofCode (c p : Nat) : Option MemOp :=
  match c with
  | 1 => some .lds
  | 2 => some .ldf
  | 3 => some .sts
  | 15 => some (.tkfirst p)
  | 16 => some (.accrd (bitsAt p 0 8) (bitsAt p 8 8) (bitsAt p 16 8))
  | _ => none

/-- The class that such an operation counts in (R103). -/
def MemOp.imageCls : MemOp → Option Cls
  | .lds => some .ld
  | .ldf => some .ld
  | .sts => some .st
  | _ => none

/-- The withdrawn request that a slot's words hold, over what its record kept. -/
def reqOf (g : Nat → Nat) (old : Req) : Option Req :=
  (MemOp.ofCode (bitsAt (g 0) 0 8) (g 1)).map (fun op =>
    let cl := bitsAt (g 0) 32 23
    let bank : Bool := op.imageCls.isSome
    { old with op := op, dst := optOf (bitsAt (g 0) 8 8), refusals := bitsAt (g 0) 16 16, cl := cl, seg := bitsAt (g 0) 56 3,
               space := if !bank then .none else if flagAt (g 0) 59 then .remote else .scratch, bundle := wrap64 (g 3),
               cls := op.imageCls,
               pieces := if bank then [⟨g 1, scratchKey cl (g 1), 8, g 2, 0, false⟩] else [] })

/-- The withdrawn request of a slot's words. -/
def withdrawnWord (rs : List Req) (j : Nat) : Nat := ((rs.find? Req.inImage).map (fun r => reqWord r j)).getD 0

/-- The outstanding operations of a thread with the counters that its words give (R103): those its record lists, as far as the
counters go. -/
def outsOf (l : List Out) (n : Cls → Nat) : List Out :=
  let part (c : Cls) : List Out :=
    let mine := l.filter (fun o => o.cls = c)
    mine.take (n c) ++ List.replicate (n c - mine.length) ⟨0, c, false⟩
  if [Cls.ld, .st, .cp, .mx].all (fun c => (l.filter (fun o => o.cls = c)).length = n c) then l
  else part .ld ++ part .st ++ part .cp ++ part .mx

/-- A slot's first 256 bytes: pc, state, `icnt`, `allow`, tags, counters, pending bits, partly written commands, held bundle
with its popped values, page fault, withdrawn request: `rs` are those the slot keeps, `all` those of its log too. -/
def slotWord (t : Thread) (rs all : List Req) (j : Nat) : Nat :=
  let h := t.reissue
  let vals := (h.map (·.vals)).getD []
  match j with
  | 0 => t.pc.toNat
  | 1 => t.state.code' + bitOf t.handler 3 + t.reason % 16 * 2 ^ 8 + bitOf t.barrier 12 + bitOf h.isSome 13 + bitOf t.entSeg 14 +
      t.code % 2 ^ 8 * 2 ^ 24
  | 2 => t.icnt % 2 ^ 64
  | 3 => t.allow.toNat
  | 4 => optCode t.frame % 2 ^ 32 + optCode t.parent % 2 ^ 32 * 2 ^ 32
  | 5 => t.count .ld + t.count .st * 2 ^ 8 + t.count .cp * 2 ^ 16 + t.count .mx * 2 ^ 24
  | 6 => pendBits t all
  | 7 => t.cart.length + t.matx.length * 2 ^ 8 + vals.length * 2 ^ 16
  | 8 => (h.map (fun r => r.addr.toNat)).getD 0
  | 9 => (h.map (fun r => r.npc.toNat)).getD 0
  | 10 => (h.map (fun r => r.icnt % 2 ^ 64)).getD 0
  | 18 => (vals.zipIdx).foldl (fun a (v, i) => a + v.1 % 2 ^ 8 * 2 ^ (8 * i)) 0
  | 26 => t.dropVa % 2 ^ 64
  | 27 => t.dropBits % 2 ^ 16
  | 28 => withdrawnWord rs 0
  | 29 => withdrawnWord rs 1
  | 30 => withdrawnWord rs 2
  | 31 => withdrawnWord rs 3
  | j => if j < 18 then (t.cart.getD (j - 11) 0).toNat
    else if j < 22 then ((vals.map (·.2)).getD (j - 19) 0).toNat
    else if j < 26 then (t.matx.getD (j - 22) 0).toNat
    else 0

def slotMask (j : Nat) : Nat :=
  match j with
  | 1 => 15 + (2 ^ 15 - 2 ^ 8) + (2 ^ 32 - 2 ^ 24)
  | 5 => 2 ^ 32 - 1
  | 7 => 7 + 7 * 2 ^ 8 + 7 * 2 ^ 16
  | 18 => 2 ^ 24 - 1
  | 27 => 2 ^ 16 - 1
  | 28 => 2 ^ 60 - 1 - 2 ^ 55
  | _ => allBits

/-- A slot as its first words hold it. What the words do not name (suppliers, which operations are outstanding, what a held
bundle had read besides its pops) stays with the thread's record. -/
def slotOf (g : Nat → Nat) (t : Thread) : Thread :=
  let held : Reissue :=
    { addr := wrap64 (g 8), npc := wrap64 (g 9), icnt := g 10,
      vals := (List.range (min (bitsAt (g 7) 16 3) 3)).map (fun i => (bitsAt (g 18) (8 * i) 8, wrap64 (g (19 + i)))),
      srcs := (t.reissue.map (·.srcs)).getD [], vsrcs := (t.reissue.map (·.vsrcs)).getD [] }
  { t with
    pc := wrap64 (g 0), state := TState.ofCode (bitsAt (g 1) 0 3), handler := flagAt (g 1) 3, reason := bitsAt (g 1) 8 4,
    barrier := flagAt (g 1) 12, entSeg := flagAt (g 1) 14, code := bitsAt (g 1) 24 8, icnt := g 2, allow := wrap64 (g 3),
    frame := optOf (bitsAt (g 4) 0 32), parent := optOf (bitsAt (g 4) 32 32),
    cart := (List.range (bitsAt (g 7) 0 3)).map (fun i => wrap64 (g (11 + i))),
    matx := (List.range (min (bitsAt (g 7) 8 3) 4)).map (fun i => wrap64 (g (22 + i))),
    reissue := if flagAt (g 1) 13 then some held else none,
    dropVa := g 26, dropBits := bitsAt (g 27) 0 16, pend := g 6,
    outs := outsOf t.outs (fun c => match c with
      | .ld => bitsAt (g 5) 0 8
      | .st => bitsAt (g 5) 8 8
      | .cp => bitsAt (g 5) 16 8
      | .mx => bitsAt (g 5) 24 8) }

/-! ### Spilled deque entries (R277, R292) -/

/-- Where a core's spilled entries lie. -/
def Region.dequeSpill (r : Region) (c : Core) : Nat :=
  r.spillBase + 64 * r.field 34 + 80 * r.field 33 * (c.team * r.coresPerTeam + c.pos)

/-- A spilled entry is written; a page that cannot be written stops the region, as one does in a save (R334). -/
def State.spillWord (s : State) (r : Region) (va v : Nat) : State :=
  match s.writeVa r 0 va 8 v with
  | some s => s
  | none => s.modRegion r.id (fun r => { r with stopDue := true })

/-- Doubleword j of a core's k-th spilled entry, oldest first: its VA, and whether it is poisoned. -/
def Region.spillVa (r : Region) (c : Core) (k j : Nat) : Nat := r.dequeSpill c + 80 * k + 8 * j
def State.spillBad (s : State) (r : Region) (c : Core) (k j : Nat) : Bool := k < c.spilled && s.dwBad r 0 (r.spillVa c k j)

/-- The spilled entries of a core's deque, its oldest, are written to the spill area, oldest first; `bad` says which words are
poisoned (R341). -/
def State.storeSpill (s : State) (r : Region) (c : Core) (bad : Nat → Nat → Bool) : State :=
  (List.range c.spilled).foldl (fun s k => (List.range 10).foldl (fun s j =>
      let s := s.spillWord r (r.spillVa c k j) (dequeWord (c.deque.reverse[k]?) j)
      if bad k j then
        (match s.translate r 0 (r.spillVa c k j) true false with
          | .pa pa _ _ => { s with poison := NatSet.add s.poison (s.fwd pa / 8) }
          | _ => s)
      else s) s) s

/-- A deque of a region with its spilled entries as the spill area holds them. -/
def State.dequeAt (s : State) (r : Region) (c : Core) : List DeqEntry :=
  let there (k : Nat) : DeqEntry :=
    (dequeOf (fun j => (s.dwVa r 0 (r.spillVa c k j)).getD 0)).getD (c.deque.reverse.getD k ⟨0, [], none, none⟩)
  c.deque.take (c.deque.length - c.spilled) ++ ((List.range c.spilled).map there).reverse

/-- The deque of a core. -/
def State.fullDeque (s : State) (cid : Nat) : List DeqEntry :=
  match s.regionOf cid with
  | none => (s.core cid).deque
  | some r => s.dequeAt r (s.core cid)

/-- An entry at the near end; the oldest of a full hardware part moves to the spill area (R292). -/
def Core.dequePush (c : Core) (e : DeqEntry) : Core :=
  { c with deque := e :: c.deque, spilled := if c.deque.length - c.spilled = 64 then c.spilled + 1 else c.spilled }

/-- The entry at a place from the near end leaves; entries move back when the hardware part empties (R292). -/
def Core.dequeDrop (c : Core) (i : Nat) : Core :=
  let l := c.deque.eraseIdx i
  let n := if c.deque.length - c.spilled ≤ i then c.spilled - 1 else c.spilled
  { c with deque := l, spilled := if l.length = n then n - min 64 n else n }

/-- A change of a core's deque, through the spill area where entries are spilled: `src` says where the entry now at a place of
the spill area stood. -/
def State.changeDeque (s : State) (cid : Nat) (src : Nat → Nat) (f : Core → Core) : State :=
  let c := f { s.core cid with deque := s.fullDeque cid }
  let t := s.setCore cid c
  match s.regionOf cid with
  | none => t
  | some r => t.storeSpill r c (fun k j => s.spillBad r (s.core cid) (src k) j)

/-- Where the entries of the spill area stood before the entry at a place from the near end left. -/
def Core.spillFrom (c : Core) (i k : Nat) : Nat := if k < c.deque.length - 1 - i then k else k + 1

/-- An entry joins a core's deque. -/
def State.pushEntry (s : State) (cid : Nat) (e : DeqEntry) : State := s.changeDeque cid id (fun c => c.dequePush e)

/-- The entry at a place from the near end leaves a core's deque. -/
def State.dropEntry (s : State) (cid i : Nat) : State := s.changeDeque cid ((s.core cid).spillFrom i) (fun c => c.dequeDrop i)

/-- The oldest entry leaves the n-th deque that released cores of a region have left; an empty one is gone (R287, R295). -/
def State.dropLeft (s : State) (r : Region) (n : Nat) : State :=
  match r.left[n]? with
  | none => s
  | some (cid, c) =>
    let i := c.deque.length - 1
    let c' := ({ c with deque := s.dequeAt r c } : Core).dequeDrop i
    let l := if c'.deque.isEmpty then r.left.eraseIdx n else r.left.set n (cid, c')
    (s.setRegion r.id { r with left := l }).storeSpill r c' (fun k j => s.spillBad r c (c.spillFrom i k) j)

/-- The spilled entries that leave the spill area as the entry at a place from the near end leaves the deque. -/
def Core.spillGone (c : Core) (i : Nat) : List Nat :=
  let b := c.deque.length - 1 - i
  if b < c.spilled then [b] else (List.range c.spilled).filter (fun k => (c.dequeDrop i).spilled ≤ k)

/-- The first poisoned word among them (R341, R342). -/
def State.spillFault (s : State) (r : Region) (c : Core) (i : Nat) : Option Flt :=
  (c.spillGone i).findSome? (fun k => ((List.range 10).find? (s.spillBad r c k)).map (fun j => poisonFlt (r.spillVa c k j)))

/-! ### Frame records (R277, R291) -/

/-- The lowest record of a region that no frame holds. -/
def Region.freeRecord (r : Region) : Nat :=
  ((List.range (r.frames.length + 1)).find? (fun k => !r.frames.any (fun (_, f) => f.place = k))).getD 0

/-- The doublewords of a frame's record: tag, count and core, then what its 64 bytes hold of a saved continuation. -/
def Frame.words (tag : Nat) (f : Frame) : List Nat :=
  [tag + 1, f.pending % 2 ^ 16 + f.core % 2 ^ 26 * 2 ^ 16 + bitOf f.saved.isSome 63,
   (f.saved.map (fun c => c.pc.toNat)).getD 0, (f.saved.map (fun c => optCode c.parent)).getD 0] ++
  (List.range 4).map (fun j => (f.saved.map (fun c => (c.regs.getD j 0).toNat)).getD 0)

/-- The place of a frame's record: that of its own, else the one it would be given. -/
def Region.recordOf (r : Region) (tag : Nat) : Nat := ((Table.find r.frames tag).map (·.place)).getD r.freeRecord

/-- The first VA of a region's spill area whose path from a die is down, among spilled entries of a core and frame records (R6). -/
def State.spillCut (s : State) (r : Region) (die : Nat) (c : Core) (entries places : List Nat) : Option Nat :=
  (entries.map (fun k => (r.spillVa c k 0, 80)) ++ places.map (fun k => (r.spillBase + 64 * k, 64))).findSome? (fun (e : Nat × Nat) =>
    s.pathCut r die e.1 e.2)

def State.writeFrame (s : State) (r : Region) (k : Nat) (ws : List Nat) : State :=
  (ws.zipIdx).foldl (fun s (v, j) => s.spillWord r (r.spillBase + 64 * k + 8 * j) v) s

/-- A frame's record changes, in the region and in its spill area. -/
def State.setFrame (s : State) (rid tag : Nat) (f : Frame) : State :=
  match s.region? rid with
  | none => s
  | some r => (s.setRegion rid { r with frames := Table.set r.frames tag f }).writeFrame r f.place (f.words tag)

/-- A frame's record is free again. -/
def State.freeFrame (s : State) (rid tag : Nat) : State :=
  match s.region? rid with
  | none => s
  | some r => match Table.find r.frames tag with
    | none => s
    | some f => (s.setRegion rid { r with frames := Table.erase r.frames tag }).writeFrame r f.place (List.replicate 8 0)

end Sys2Proof.Machine
end

