-- ==== Sys2Proof/Machine/Tasks.lean ====
section
/-! DEFINITION. Fork-join tasks (R291 to R295) and the configuration of queue registers (R296). -/

namespace Sys2Proof.Machine

/-- The instruction issues in a forkjoin region (R291). -/
def State.forkHere (s : State) : Bool := match s.regionOf s.bun.cid with | some r => r.kind = .forkjoin | none => false

/-- Entries a core's deque can hold: 64 and its spill (R291). -/
def Region.dequeCap (r : Region) : Nat := 64 + r.field 33

/-- `SPAWN`s of a core on their way to its deque. -/
def State.spawning (s : State) (cid : Nat) : Nat :=
  (s.wbs.filter (fun w => w.cid = cid && (match w.act with | .spawn _ _ _ => true | _ => false))).length

/-- What an instruction's work in the spill area meets: a path that is down stops its thread (R340). -/
def State.onSpill (s : State) (entries places : List Nat) (go : Res) : Res :=
  match (s.regionOf s.bun.cid).bind (fun r => s.spillCut r (dieOf s.bun.cid) s.myCore entries places) with
  | some a => .fault (linkFlt a)
  | none => go

/-- The place of a frame's record, where it has one. -/
def State.recordAt (s : State) (f : Option Nat) : List Nat :=
  (f.bind (fun f => (s.regionOf s.bun.cid).bind (fun r => Table.find r.frames f))).toList.map (·.place)

/-- The entry that a further `SPAWN` of a core moves to the spill area (R292). -/
def State.overflows (s : State) (cid : Nat) : List Nat :=
  if (s.core cid).deque.length + s.spawning cid < 64 + (s.core cid).spilled then [] else [(s.core cid).spilled]

/-- `SPAWN` (R292): the entry is pushed at write-back, with `p24` to `p31` as the bundle leaves them. -/
def execSpawn (off : BitVec 24) (s : State) : Out' :=
  run (.spawn off) s (fun s =>
    match s.regionOf s.bun.cid with
    | none => .fault notHere
    | some r =>
      if r.kind ≠ .forkjoin then .fault notHere
      else if r.dequeCap ≤ s.myCore.deque.length + s.spawning s.bun.cid then .fault (refused (wrap64 r.dequeCap))
      else s.onSpill (s.overflows s.bun.cid) []
        (let t := s.me
        let f := t.frame.getD s.frameTag
        let s := if t.frame.isNone then { s with frameTag := s.frameTag + 1 } else s
        let pc := s.bun.npc
        let s := s.wb (.spawn pc f t.parent)
        .ok ((s.modMe (fun t => { t with parent := some f, frame := none, supplier := .deque s.bun.cid pc })).goto
          (branchTarget s.bun.addr off.toInt))))

/-- `SYNC` (R294): decided at write-back, where the record is freed or the continuation saved. -/
def execSync (s : State) : Out' :=
  run .sync s (fun s => 
    if s.forkHere then s.onSpill [] (s.recordAt s.me.frame) (.ok (s.wb (.sync s.bun.npc))) else .fault notHere)

/-- The smallest scope that holds two cores (R223, R293). -/
def commonScope (a b : Nat) : Scope :=
  if a = b then .core else if clOf a = clOf b then .clu else if dieOf a = dieOf b then .die else .pkg

/-- The registers `p24` to `p31` of a thread. -/
def State.taskRegs (s : State) (cid slot : Nat) : List Word := (List.range 8).map (fun k => s.reg cid slot (24 + k))

/-- Writes `p24` to `p31` in the write-back cycle. -/
def State.wbTaskRegs (s : State) (l : List Word) : State :=
  (l.zipIdx).foldl (fun s (v, k) => s.wb (.gpr (24 + k) v)) s

/-- The thread goes on with a continuation (R293, R294). -/
def takeTask (e : DeqEntry) (f p : Option Nat) (s : State) : State :=
  ((s.modMe (fun t => { t with frame := f, parent := p })).wbTaskRegs e.regs).goto e.pc

/-- A release of the thread at a scope can be performed now (R217). -/
def State.releaseReady (s : State) (sc : Scope) : Bool :=
  !s.reqs.any (fun r => r.cid = s.bun.cid && r.slot = s.bun.slot && !r.dropped &&
    (!r.stage.performed || r.deps.any (fun d => match s.req? d with | some q => !q.stage.performed | none => false))) &&
  s.pinsReady s.bun.cid (s.pinsBelow s.bun.cid s.bun.slot sc) (some s.bun.slot)

/-- A child of frame p has ended away from its continuation (R293): the count falls, a waiting continuation is resumed
here, or the thread ends. -/
def childEnds (p : Nat) (s : State) : Res :=
  let frames := ((s.region? s.rid).map (·.frames)).getD []
  let stop (s : State) : Res := .ok (if s.bun.slot = 0 then s.wb .exit else s.wb (.treap s.bun.slot))
  match Table.find frames p with
  | none => stop s
  | some fr =>
    let sc := commonScope s.bun.cid fr.core
    if !s.releaseReady sc then .park 0
    else s.onSpill [] [fr.place] <|
      let s := s.widenPins s.bun.cid s.bun.slot sc
      let n := fr.pending - 1
      match n, fr.saved with
      | 0, some c => .ok (takeTask c c.frame c.parent (s.freeFrame s.rid p))
      | _, _ => stop (s.setFrame s.rid p { fr with pending := n })

/-- `TASKEND` (R293). -/
def effTaskend (s : State) : Res :=
  let t := s.me
  let pend := (t.frame.bind (fun f => (s.region? s.rid).bind (fun r => Table.find r.frames f))).map (·.pending)
  if !s.forkHere then .fault notHere
  else if 0 < pend.getD 0 then .ok ((s.wb (.sync s.bun.addr)).goto s.bun.addr)
  else match t.parent with
    | none => .ok (s.wb .exit)
    | some p =>
      match (s.fullDeque s.bun.cid).find? (fun e => e.frame = some p) with
      | some e =>
        if s.myCore.dequeFrozen then .fault ⟨fQueueFrozen, 0, e.pc, wrap64 (256 + coreOf s.bun.cid)⟩
        else match (s.regionOf s.bun.cid).bind (fun r => s.spillFault r s.myCore ((s.fullDeque s.bun.cid).idxOf e)) with
        | some f => .fault f
        | none => s.onSpill (s.myCore.spillGone ((s.fullDeque s.bun.cid).idxOf e)) [] <|
          let s := s.dropEntry s.bun.cid ((s.fullDeque s.bun.cid).idxOf e)
          .ok (takeTask e (some p) e.parent (s.modMe (fun t => { t with supplier := .deque s.bun.cid e.pc })))
      | none => childEnds p s

def execTaskend (s : State) : Out' := run .taskend s effTaskend

/-! ### Steals (R223, R295) -/

/-- A deque from which a thief may take an entry: a placed core's, or one that a released core of the region left. -/
inductive Victim where
  | core (c : Nat)
  | left (n : Nat)
  deriving DecidableEq, Repr

/-- A deque that holds an entry and is not frozen. -/
def Core.stealable (c : Core) : Bool := !c.deque.isEmpty && !c.dequeFrozen

/-- The deque of a region that a core's number names. -/
def State.victimAt (s : State) (r : Region) (c : Nat) : Option Victim :=
  if (s.core c).region = some r.id && (s.core c).stealable then some (.core c)
  else (r.left.findIdx? (fun e => e.1 = c && e.2.stealable)).map .left

/-- The victim of a core: the first deque with an entry that is not frozen, in the order of R295. -/
def State.victim (s : State) (rid cid : Nat) : Option Victim :=
  (s.region? rid).bind (fun r =>
    let cl := clOf cid
    let near := (List.range 16).map (fun k => 32 * cl + (coreOf cid + k) % 16)
    match near.findSome? (s.victimAt r) with
    | some v => some v
    | none =>
      let all := (s.cores.filter (fun e => e.2.region = some rid)).map (·.1) ++ r.left.map (·.1)
      let cand := (all.foldl NatSet.add []).filter (fun c => clOf c ≠ cl && (s.victimAt r c).isSome)
      -- nearest cluster first, ties to the lower die, cluster and core
      (cand.foldl (fun best c => match best with
        | none => some c
        | some b => if gridDist cl (clOf c) < gridDist cl (clOf b) then some c else some b) none).bind (s.victimAt r))

/-- A core may try a steal now (R295). -/
def State.mayTry (s : State) (cid : Nat) : Bool :=
  match s.regionOf cid with
  | none => false
  | some r =>
    let c := s.core cid
    r.kind = .forkjoin && !r.det && r.state < 4 && !c.away && c.starting.isNone && coreOf cid < 16 && c.stealAt ≤ s.cyc &&
    (List.range 16).all (fun k => (s.thread cid k).state ≠ .ready) && (s.handlerSlot cid false).isSome &&
    r.frames.length < r.field 34

/-- The victim core's release can be performed: its stores are, and its pins can be widened (R223). -/
def State.handOver (s : State) (thief victim : Nat) : Bool :=
  thief = victim ||
  (!s.reqs.any (fun r => r.cid = victim && r.op.writes && !r.stage.performed) &&
    (List.range 16).all (fun k => s.pinsReady victim (s.pinsBelow victim k (commonScope thief victim)) none))

/-- The thief reaches its victim's deque, and what the steal changes in the spill area (R6). -/
def State.stealPath (s : State) (rid thief victim : Nat) (c : Core) : Bool :=
  s.clustersLinked (clOf thief) (clOf victim) && (s.region? rid).all (fun r =>
    (s.spillCut r (dieOf thief) c (c.spillGone (c.deque.length - 1))
      (((c.deque.getLast?).bind (·.frame)).toList.map r.recordOf)).isNone)

/-- A thief tries as soon as it may; over a path that is down it waits (log entry 99). -/
def canSteal (s : State) (cid : Nat) : Bool :=
  s.mayTry cid && (match (s.core cid).region with
    | some rid => (match s.victim rid cid with
        | some (.core v) => s.handOver cid v && s.stealPath rid cid v (s.core v)
        | some (.left n) => (((s.region? rid).bind (·.left[n]?)).all (fun e => s.stealPath rid cid e.1 e.2))
        | none => true)
    | none => false)

/-- The oldest entry of a victim's deque starts in the thief's lowest empty slot; one that is poisoned in the spill area stops
there (R342, log entry 120). -/
def State.steal (s : State) (rid cid : Nat) (v : Victim) (slot : Nat) : State :=
  let from' : Option (Region × Nat × Core) := (s.region? rid).bind (fun r => match v with
    | .core c => some (r, c, s.core c)
    | .left n => (r.left[n]?).map (fun x => (r, x.1, x.2)))
  match from' with
  | none => s
  | some (r, vc, c) => match (s.dequeAt r c).getLast? with
  | none => s
  | some e =>
    let bad := s.spillFault r c (c.deque.length - 1)
    let s := match v with
      | .core _ => ((List.range 16).foldl (fun (s : State) k => s.widenPins vc k (commonScope cid vc)) s).dropEntry vc (c.deque.length - 1)
      | .left n => s.dropLeft r n
    let s := match e.frame, s.region? rid with
      | some f, some r => s.setFrame rid f (match Table.find r.frames f with
          | some fr => { fr with pending := fr.pending + 1, core := cid }
          | none => ⟨r.freeRecord, 1, cid, none⟩)
      | _, _ => s
    let s := s.startThread cid slot e.pc (fun t => { t with
      handler := true, frame := e.frame, parent := e.parent, supplier := .deque vc e.pc,
      regs := (e.regs.zipIdx).foldl (fun l (w, k) => Table.put 0 l (24 + k) w) t.regs })
    match bad with
    | some f => s.stopStarted cid slot f e.pc
    | none => s

/-- `STEAL_ATTEMPT` (R295): once every 64 cycles. -/
def execStealAttempt (cid : Nat) (s : State) : Out' :=
  .next (if canSteal s cid then
    let s := s.modCore cid (fun c => { c with stealAt := s.cyc + 64 })
    match (s.core cid).region, s.handlerSlot cid false with
    | some rid, some k => (match s.victim rid cid with
      | some v => s.steal rid cid v k
      | none => s)
    | _, _ => s
  else s)

/-! ### Queue registers (R296) -/

/-- A configuration of the queue is on its way. -/
def State.configuring (s : State) (cid k : Nat) : Bool :=
  s.wbs.any (fun w => w.cid = cid && (match w.act with | .qcfg j v => j = k && v.toNat % 32 ≠ 0 | _ => false))

/-- `QCFG` (R296). -/
def execQcfg (a : Reg) (k : Fin 4) (s : State) : Out' :=
  run (.qcfg a k) s (fun s =>
    let v := s.src a
    let n := v.toNat
    let depth := n % 32
    if n / 2 ^ 9 ≠ 0 || n / 2 ^ 5 % 8 ≠ 0 || 16 < depth then .fault (refused v)
    else if depth ≠ 0 && ((s.myCore.queue? k.val).isSome || s.configuring s.bun.cid k.val) then .fault (refused v)
    else .ok (s.wb (.qcfg k.val v)))

end Sys2Proof.Machine
end

