-- ==== Sys2Proof/Machine/FaultOps.lean ====
section
/-! DEFINITION. Reading fault records and thawing (R329, R330), the tinker's context instructions (R337, R338), and the
pager's instructions (R194, R195). -/

namespace Sys2Proof.Machine

/-! ### FRECRD and QTHAW -/

/-- `FRECRD` (R329): the record is read when the result returns. -/
def execFrecrd (d b : Reg) (w : Fin 8) (s : State) : Out' :=
  run (.frecrd d b w) s (fun s =>
    let v := s.src b
    let n := v.toNat
    let src := n / 2 ^ 62
    if n / 2 ^ 32 % 2 ^ 29 ≠ 0 || (src ≠ 0 && n / 2 ^ 61 % 2 = 1) || (src = 0 && 15 < n % 2 ^ 32) then .fault (refused v)
    else
      let e : Ea := ⟨.none, s.myCl, 0, 0⟩
      .ok (s.addReq { s.newReq (.frecrd v w.val) e 0 [] with dst := some d.val, cls := some .ld, ord := .acq .sys }))

/-- The selector of `QTHAW` (R330): the core it names. -/
def thawCore (v : Word) : Nat := coordCid (v.toNat % 2 ^ 26)

/-- `QTHAW` (R330): the thaw takes effect at write-back. A core that no path reaches stops the thread (R340); there is no ea to name
(log entry 136). -/
def execQthaw (a : Reg) (s : State) : Out' :=
  run (.qthaw a) s (fun s =>
    let v := s.src a
    let n := v.toNat
    let k := n / 2 ^ 32 % 4
    let deque : Bool := n / 2 ^ 63 = 1
    let cid := thawCore v
    if n / 2 ^ 34 % 2 ^ 29 ≠ 0 || n / 2 ^ 26 % 2 ^ 6 ≠ 0 || (deque && k ≠ 0) then .fault (refused v)
    else if coordPkg (n % 2 ^ 26) ≠ s.host.pkgId || !coordOk (n % 2 ^ 26) then .fault (refused v)
    else if (s.core cid).region ≠ some s.rid then .fault (refused v)
    else if !deque && ((s.core cid).queue? k).isNone then .fault (refused v)
    else if !s.clustersLinked s.myCl (clOf cid) then .fault (linkFlt 0)
    else .ok (s.wb (.qthaw cid deque k)))

/-! ### Core images (R338) -/

/-- Bytes of a core image. -/
def imageBytes : Nat := 0xD000

/-- The header's doublewords (log entry 30 gives their order): block address, region id, team, core index, `vmode`, wake
bits. -/
def imageHeader (r : Region) (sv : SavedCore) : List Nat :=
  [r.block, r.id, sv.core.team, sv.core.pos, if sv.core.long then 1 else 0,
   (sv.threads.filter (fun e => e.2.woken)).foldl (fun m e => m + 2 ^ e.1) 0]

def headerMask (j : Nat) : Nat :=
  if j < 2 then allBits else if j < 4 then 2 ^ 32 - 1 else if j = 4 then 1 else if j = 5 then 2 ^ 16 - 1 else 0

/-- Doubleword at offset o of a slot's 2,048 bytes, with the slot's withdrawn requests. -/
def slotImage (t : Thread) (rs all : List Req) (o : Nat) : Nat :=
  if o < 256 then slotWord t rs all (o / 8)
  else if o < 512 then (Table.get (0 : Word) t.regs ((o - 256) / 8)).toNat
  else if o < 640 then
    let g := Table.get SegReg.zero t.segs ((o - 512) / 16)
    if o / 8 % 2 = 0 then g.base.toNat else g.lr.toNat
  else if o < 1024 then 0
  else dwOf (Table.get (0 : SVec) t.vregs ((o - 1024) / 32)).toNat (o / 8 % 4)

/-- The hardware part of a core's deque, oldest first (R292). -/
def Core.dequeHw (c : Core) : List DeqEntry := (c.deque.take (c.deque.length - c.spilled)).reverse

/-- Doubleword at offset o of a core image (R338). -/
def imageWord (r : Region) (sv : SavedCore) (o : Nat) : Nat :=
  let c := sv.core
  if o < 0x100 then (imageHeader r sv).getD (o / 8) 0
  else if o < 0x200 then (Table.get (0 : Word) c.regs ((o - 0x100) / 8)).toNat
  else if o < 0x600 then dwOf (Table.get (0 : SVec) c.yregs ((o - 0x200) / 32)).toNat (o / 8 % 4)
  else if o < 0xA00 then queueWord (c.queue? ((o - 0x600) / 256)) ((o - 0x600) % 256 / 8)
  else if o < 0x1400 then streamWord (c.stream? ((o - 0xA00) / 640)) ((o - 0xA00) % 640 / 8)
  else if o < 0x1600 then (c.comp.getD ((o - 0x1400) / 8) 0).toNat
  else if o < 0x2A00 then dequeWord c.dequeHw[(o - 0x1600) / 80]? ((o - 0x1600) % 80 / 8)
  else if o < 0x2C00 then outWord (c.outEnd? ((o - 0x2A00) / 32)) (o / 8 % 4)
  else if o < 0x2E00 then inWord (c.inEnd? ((o - 0x2C00) / 32)) (o / 8 % 4)
  else if o < 0x3000 then pairWord c.streamTab[(o - 0x2E00) / 16]? (o / 8 % 2)
  else if o < 0x5000 then (if c.long then dwOf (Table.get (0 : LVec) c.wregs ((o - 0x3000) / 512)).toNat (o / 8 % 64) else 0)
  else
    let k := (o - 0x5000) / 2048
    slotImage (Table.get Thread.fresh sv.threads k) (sv.reqs.filter (fun q => q.slot = k))
      ((sv.reqs ++ sv.logged).filter (fun q => q.slot = k)) ((o - 0x5000) % 2048)

/-- The bits at offset o of an image that are not reserved; the `w` area is only in long mode. -/
def imageMask (long : Bool) (o : Nat) : Nat :=
  if o < 0x100 then headerMask (o / 8)
  else if o < 0x600 then allBits
  else if o < 0xA00 then queueMask ((o - 0x600) % 256 / 8)
  else if o < 0x1400 then streamMask ((o - 0xA00) % 640 / 8)
  else if o < 0x1600 then allBits
  else if o < 0x2A00 then dequeMask ((o - 0x1600) % 80 / 8)
  else if o < 0x2C00 then outMask (o / 8 % 4)
  else if o < 0x2E00 then inMask (o / 8 % 4)
  else if o < 0x3000 then pairMask (o / 8 % 2)
  else if o < 0x5000 then (if long then allBits else 0)
  else
    let b := (o - 0x5000) % 2048
    if b < 256 then slotMask (b / 8) else if b < 640 then allBits else if b < 1024 then 0 else allBits

/-- Writes doublewords offset by offset through a region's tables; none where a page is missing. -/
def writeDwFn (s : State) (r : Region) (die va : Nat) (f : Nat → Nat) : Nat → Option State
  | 0 => some s
  | n + 1 => (writeDwFn s r die va f n).bind (fun s => s.writeVa r die (va + 8 * n) 8 (f (8 * n)))

/-- What is saved of a core: itself, its threads, its banks' registers, its withdrawn requests. -/
def State.savedCore (s : State) (cid : Nat) : SavedCore :=
  { cid := cid, core := s.core cid, threads := (List.range 16).map (fun k => (k, s.thread cid k)), banks := [],
    reqs := s.reqs.filter (fun q => q.cid = cid && !q.dropped), logged := [] }

/-- Every slot of a core becomes empty. -/
def State.emptySlots (s : State) (cid : Nat) : State :=
  (List.range 16).foldl (fun s k => s.setThread cid k Thread.fresh) s

/-! ### CTXSAVE and CTXLOAD (R337) -/

/-- The spill log of a displaced team that a request meets is full. -/
def State.targetFull (s : State) (r : Req) : Bool :=
  match s.displacedTarget r with
  | some (n, _, _) => (match (s.region? r.rid).bind (fun g => (Table.find g.teams n).map (fun t => (g, t))) with
    | some (g, t) => decide (g.logCap ≤ t.log.length)
    | none => false)
  | none => false

/-- A request that a save does not wait for (R334 to R336): refused because its target is displaced, or held behind that;
at the park table of a remote bank; a `TKFIRST` or `ACCRD` that waits for entries the save holds; a late result that waits
for room in a queue which nothing pops. -/
def Req.stuck (s : State) (r : Req) : Bool :=
  match r.stage with
  | .refused _ => (s.displacedTarget r).isSome || (r.scratchy && r.op.isSync)
  | .parked => true
  | .held => s.targetFull r
  | .sent => (match r.op with
    | .tkfirst _ => !r.deps.isEmpty
    | .accrd _ _ _ => !r.deps.isEmpty
    | _ => false)
  | .served => !s.lateRoom r
  | _ => false

/-- What a save keeps or waits for: the requests of running threads, and the stores of ended ones, which complete (R100,
R178). -/
def Req.kept (r : Req) : Bool := !r.dropped || r.op.writes

/-- Withdrawn at a save: such a request, or one that waits behind it in its thread's order. -/
def Req.withdrawn (s : State) (r : Req) : Bool :=
  r.stuck s ||
  ((r.stage = .sent || r.stage = .unsent || r.stage = .held) &&
    s.reqs.any (fun e => e.cid = r.cid && e.slot = r.slot && e.id < r.id && e.kept && e.stuck s))

/-- The pins of a core can be widened at `.sys`: no store before one of them is unperformed but those withdrawn. -/
def State.pinsDrained (s : State) (cid : Nat) : Bool :=
  (List.range 16).all (fun k => (s.pinsBelow cid k .sys).all (fun p => p.holders.all (fun h =>
    !s.unperformed cid (h.1 % 16) (fun r => r.op.writes && r.id < h.2 && !r.withdrawn s))))

/-- Step 3 of R334 is complete for a core. -/
def State.drained (s : State) (cid : Nat) : Bool :=
  !s.reqs.any (fun r => r.cid = cid && r.kept && !r.withdrawn s) && !s.wbs.any (fun w => w.cid = cid) &&
  !s.arrivals.any (fun a => a.cid = cid) && s.pinsDrained cid

/-- Step 2 of R334 is complete for some cores of a region on a cluster: no copy of theirs has begun and is not complete (R243),
no matrix step of theirs and no tick entry of the region executes (R276), and every landed byte is counted. -/
def State.settled (s : State) (rid cl : Nat) (cores : List Nat) : Bool :=
  let k := s.cluster cl
  !k.copies.any (fun r => cores.contains r.cmd.cid) &&
  !k.mxRun.toList.any (fun r => cores.contains r.cmd.cid) &&
  !k.tkRun.toList.any (fun r => r.1.rid = rid) &&
  !s.tallies.any (fun x => cores.contains x.cmd.cid)

/-- The operand of the context instructions: the image's VA and the core. -/
def ctxVa (v : Word) : Nat := v.toNat / 2 ^ 12 % 2 ^ 45 * 2 ^ 12
def ctxCore (cl : Nat) (v : Word) : Nat := 32 * cl + v.toNat % 16

/-- Keeps a saved core in its team, replacing an older save. -/
def keepSaved (l : List SavedCore) (sv : SavedCore) : List SavedCore := l.filter (fun x => x.cid ≠ sv.cid) ++ [sv]

/-- The pairs of a core with no store outstanding are closed (R178): each sends its close flit. -/
def State.shutPairs (s : State) (cid : Nat) : State :=
  let shut := (s.core cid).streamTab.filter (fun e => e.outst = 0)
  { s.modCore cid (fun c => { c with streamTab := c.streamTab.filter (fun e => e.outst ≠ 0) }) with
    closeFlits := s.closeFlits ++ shut.map (fun e => (cid, e.stream, e.dest)) }

/-- `CTXSAVE` (R337): the stream table is closed first (R178). A path to the image that is down stops the tinker (R340); lines of it
that are pinned or owned are waited for (R220, R222). -/
def effCtxsave (a : Reg) (s : State) : Res :=
  let v := s.src a
  let c := ctxCore s.myCl v
  match s.regionOf c with
  | none => .fault (refused v)
  | some r =>
    if v.toNat / 16 % 2 ^ 8 ≠ 0 then .fault (refused v)
    else if !(s.core c).away || !s.settled r.id s.myCl [c] || !s.drained c then .park 0
    else match s.pathCut r (dieOf c) (ctxVa v) imageBytes with
    | some a => .fault (linkFlt a)
    | none =>
      if !s.rangeClear r (dieOf c) (ctxVa v) imageBytes then .park 0 else
      let s := s.shutPairs c
      let old := ((s.team? r.id (s.core c).team).bind (fun t => t.saved.find? (fun x => x.cid = c))).map (·.banks)
      let sv := { s.savedCore c with banks := old.getD [] }
      match writeDwFn s r (dieOf c) (ctxVa v) (imageWord r sv) (imageBytes / 8) with
      | none => .fault (pageDenied 0 (ctxVa v))
      | some s =>
        let s := (s.emptySlots c).modTeam r.id (s.core c).team (fun t => { t with saved := keepSaved t.saved sv })
        let e : Ea := ⟨.none, s.myCl, 0, 0⟩
        .ok (s.addReq { s.newReq (.ctxsave c) e 0 [] with cls := some .st, stage := .served })

def execCtxsave (a : Reg) (s : State) : Out' := run (.ctxsave a) s (effCtxsave a)

/-- A doubleword of an image in memory, and a wide register from it. -/
def imgAt (s : State) (r : Region) (die va o : Nat) : Nat := (s.dwVa r die (va + o)).getD 0
def imgWide (s : State) (r : Region) (die va o n : Nat) : Nat :=
  (List.range n).foldr (fun j acc => imgAt s r die va (o + 8 * j) + 2 ^ 64 * acc) 0

/-- The first doubleword of an area that cannot be read, or is poisoned (R341). -/
def imgFault (s : State) (r : Region) (die va n : Nat) : Option Flt :=
  (List.range (n / 8)).findSome? (fun j => match s.translate r die (va + 8 * j) false false with
    | .pa pa _ _ => (s.poisoned (s.fwd pa) 8).map (fun _ => poisonFlt (va + 8 * j))
    | _ => some (pageDenied 0 (va + 8 * j)))

/-- A slot as its image holds it, over what its record kept; a refusal of its page meanwhile stays (R195). -/
def loadSlot (s : State) (r : Region) (die va k : Nat) (t : Thread) : Thread :=
  let b := 0x5000 + 2048 * k
  let t' := slotOf (fun j => imgAt s r die va (b + 8 * j)) t
  if t'.state = .empty then Thread.fresh else
  { t' with
    dropBits := if t.state = .dropped && 2 ^ 8 ≤ t.dropBits then t.dropBits else t'.dropBits,
    woken := t.woken || flagAt (imgAt s r die va 40) k,
    regs := ((List.range 32).drop 1).foldl (fun l i => Table.put 0 l i (wrap64 (imgAt s r die va (b + 256 + 8 * i)))) [],
    segs := (List.range 8).foldl (fun l i => Table.put SegReg.zero l i
      ⟨wrap64 (imgAt s r die va (b + 512 + 16 * i)), wrap64 (imgAt s r die va (b + 520 + 16 * i))⟩) [],
    vregs := (List.range 32).foldl (fun l i => Table.put 0 l i (BitVec.ofNat 256 (imgWide s r die va (b + 1024 + 32 * i) 4))) [] }

/-- The present items among numbered ones, as a table. -/
def tableOf {α : Type} (n : Nat) (f : Nat → Option α) : List (Nat × α) :=
  (List.range n).filterMap (fun k => (f k).map (fun x => (k, x)))

/-- A core as its image holds it, over what its record kept: spilled deque entries stay where they are (R292). -/
def loadCore (s : State) (r : Region) (die va : Nat) (c : Core) : Core :=
  let at' (o : Nat) (j : Nat) : Nat := imgAt s r die va (o + 8 * j)
  let long : Bool := at' 0 4 % 2 = 1
  { c with
    team := at' 0 2, pos := at' 0 3, long := long, vmodeWait := [], vmodeBusy := none,
    regs := (List.range 32).foldl (fun l i => Table.put 0 l i (wrap64 (at' 0x100 i))) [],
    yregs := (List.range 32).foldl (fun l i => Table.put 0 l i (BitVec.ofNat 256 (imgWide s r die va (0x200 + 32 * i) 4))) [],
    queues := tableOf 4 (fun k => queueOf (at' (0x600 + 256 * k))),
    streams := tableOf 4 (fun k => streamOf (at' (0xA00 + 640 * k))),
    comp := compOf ((List.range 64).map (at' 0x1400)),
    deque := (((List.range 64).filterMap (fun k => dequeOf (at' (0x1600 + 80 * k)))).reverse) ++ c.deque.drop (c.deque.length - c.spilled),
    outEnds := tableOf 16 (fun k => outOf (at' (0x2A00 + 32 * k)) (c.outEnd? k)),
    inEnds := tableOf 16 (fun k => inOf (at' (0x2C00 + 32 * k)) (c.inEnd? k)),
    streamTab := (List.range 32).filterMap (fun k => pairOf (at' (0x2E00 + 16 * k))),
    wregs := if long then (List.range 16).foldl (fun l i =>
      Table.put 0 l i (BitVec.ofNat 4096 (imgWide s r die va (0x3000 + 512 * i) 64))) [] else [] }

/-- The first page of an area that is missing (R334). -/
def imgMissing (s : State) (r : Region) (die va n : Nat) : Option Flt :=
  (List.range (n / 65536 + 2)).findSome? (fun i =>
    let a := max va ((va / 65536 + i) * 65536)
    if va + n ≤ a then none
    else match s.translate r die a false false with
      | .pa _ _ _ => none
      | _ => some (pageDenied 0 a))

/-- An image is in long mode. -/
def imgLong (s : State) (r : Region) (die va : Nat) : Bool := imgAt s r die va 32 % 2 = 1

/-- An image is valid: it is one of this region's, its state codes are known, and its reserved bits are 0 (R338). -/
def imageValid (s : State) (r : Region) (die va : Nat) : Bool :=
  imgAt s r die va 8 = r.id &&
  (List.range 16).all (fun k => imgAt s r die va (0x5008 + 2048 * k) % 8 < 6) &&
  (List.range (imageBytes / 8)).all (fun j =>
    imgAt s r die va (8 * j) &&& (allBits - imageMask (imgLong s r die va) (8 * j)) = 0)

/-- The saved state of a core, set again from its image (R336, R337). -/
def State.loadSaved (s : State) (r : Region) (die va : Nat) (sv : SavedCore) : State :=
  (List.range 16).foldl (fun x k => x.setThread sv.cid k (loadSlot s r die va k (Table.get Thread.fresh sv.threads k)))
    (s.setCore sv.cid (loadCore s r die va sv.core))

/-- A read of an array goes on behind commands and entries; it reads now where there are none. -/
def Cluster.readAgain (k : Cluster) (q : Req) (ids : List Nat) : Req :=
  if ids.isEmpty then { q with deps := [], stage := .served, result := (k.arrayRead q.op).getD 0 }
  else { q with deps := ids, stage := .sent }

/-- A withdrawn request is sent again; an `ACCRD` waits for those of its commands that are not complete (R245). A late result that
waited for room goes on waiting. -/
def State.again (s : State) (q : Req) : Req :=
  let k := s.cluster (clOf q.cid)
  if q.stage = .served then q
  else match q.op with
    | .accrd _ _ _ => k.readAgain q (q.deps.filter (fun d => k.mxIds.contains d))
    | _ => { q with stage := .sent }

/-- Places a request behind those of smaller numbers. -/
def byNumber (r : Req) : List Req → List Req
  | [] => [r]
  | e :: t => if r.id < e.id then r :: e :: t else e :: byNumber r t

/-- Once everything of a core is sent again, its requests stand in their order, and a `TKFIRST` that waited issues again: behind the
entries of the array, and behind its thread's own commands that still wait in the port (R217, R272, R276). -/
def State.readsBehind (s : State) (cores : List Nat) : State :=
  let own (q : Req) : List Nat := s.reqs.filterMap (fun r => if r.cid = q.cid && r.slot = q.slot && r.id < q.id then
    (match r.op with | .tickCmd _ id => some id | _ => none) else none)
  let behind (q : Req) : Req := match q.op with
    | .tkfirst _ => if q.stage = .sent then (s.cluster (clOf q.cid)).readAgain q ((s.cluster (clOf q.cid)).tkIds ++ own q) else q
    | _ => q
  let mine (q : Req) : Bool := cores.contains q.cid
  { s with reqs := s.reqs.filter (fun q => !mine q) ++ ((s.reqs.filter mine).map behind).foldl (fun l q => byNumber q l) [] }

/-- A request of a slot of which no record stands. -/
def State.blankReq (s : State) (rid cid slot : Nat) : Req :=
  { id := s.nextId, cid := cid, slot := slot, rid := rid, bundle := 0, icnt := (s.thread cid slot).icnt, now := s.nowOf cid slot,
    op := .lds, ord := .plain, space := .none, cl := 0, seg := 0, pieces := [], lane := 0, dst := none, vdst := none, long := false,
    cls := none, buffered := false, stage := .sent, refusals := 0, seqn := none, dest := 0, result := 0, nulled := false,
    deps := [], nc := false, afTag := none, dropped := false, born := s.cyc, age := s.nextId, reach := none }

/-- A request takes one of the operations that a thread's counters name and its record does not. -/
def Thread.claimOut (t : Thread) (q : Req) : Thread :=
  match q.cls.bind (fun c => t.outs.findIdx? (fun o => o = ⟨0, c, false⟩)) with
  | some i => { t with outs := t.outs.modify i (fun o => { o with id := q.id }) }
  | none => t

/-- The withdrawn request in the image of slot k of a core is sent again, unless it is still under way (R336, R338). -/
def State.resendSlot (s : State) (r : Region) (die va : Nat) (sv : SavedCore) (k : Nat) : State :=
  let kept := sv.reqs.find? (fun q => q.slot = k && q.inImage)
  let g (j : Nat) : Nat := imgAt s r die va (0x5000 + 2048 * k + 8 * (28 + j))
  match reqOf g (kept.getD (s.blankReq r.id sv.cid k)) with
  | none => s
  | some q =>
    if (s.thread sv.cid k).state = .empty || (s.req? q.id).isSome then s
    else ({ s with nextId := s.nextId + 1, reqs := s.reqs ++ [s.again q] } : State).modThread sv.cid k (fun t => t.claimOut q)

/-- The same for every slot. -/
def State.resendImage (s : State) (r : Region) (die va : Nat) (sv : SavedCore) : State :=
  (List.range 16).foldl (fun s k => s.resendSlot r die va sv k) s

/-- 16 `w` registers are free for a core of the tinker's cluster that returns in long mode, in the tinker's turn among the
parked requests (R250, R336). -/
def State.longRoom (s : State) (cid : Nat) : Bool := (s.core cid).long || longFree s

/-- The lines of a VA range, for a reader that recalls them itself. -/
def State.vaKeys (s : State) (r : Region) (die va n : Nat) : List Nat :=
  (vaLines va n).filterMap (fun a => match s.translate r die a false false with
    | .pa pa _ _ => some (lineOf (s.fwd pa))
    | _ => none)

/-- `CTXLOAD` (R337): an image that cannot be read, or is poisoned, faults; one in long mode parks for a grant, and one whose lines
are pinned or owned until they are free. -/
def effCtxload (a : Reg) (s : State) : Res :=
  let v := s.src a
  let c := ctxCore s.myCl v
  let va := ctxVa v
  match s.regionOf c with
  | none => .fault (refused v)
  | some r =>
    let occupied := (List.range 16).any (fun k => (s.thread c k).state ≠ .empty)
    if v.toNat / 16 % 2 ^ 8 ≠ 0 || occupied then .fault (refused v)
    else match s.pathCut r (dieOf c) va imageBytes with
    | some a => .fault (linkFlt a)
    | none =>
      if !s.rangeClear r (dieOf c) va imageBytes then .park 0
      else match imgFault s r (dieOf c) va imageBytes with
      | some f => .read (s.vaKeys r (dieOf c) va imageBytes) (.fault f)
      | none =>
        if !imageValid s r (dieOf c) va then .read (s.vaKeys r (dieOf c) va imageBytes) (.fault (refused v))
        else if imgLong s r (dieOf c) va && !s.longRoom c then .read (s.vaKeys r (dieOf c) va imageBytes) (.park 6 .vmode)
        else
          let kept := ((s.team? r.id (s.core c).team).map (·.saved)).bind (fun l => l.find? (fun x => x.cid = c))
          let sv := kept.getD (s.savedCore c)
          let s := s.vaSeen r (dieOf c) va imageBytes
          .ok (((s.loadSaved r (dieOf c) va sv).resendImage r (dieOf c) va sv).readsBehind [c]).modeAsked

def execCtxload (a : Reg) (s : State) : Out' := run (.ctxload a) s (effCtxload a)

/-- `ERET` (R337). -/
def execEret (s : State) : Out' := run .eret s (fun s => .ok (endService s s.myCl))

/-! ### Pagers (R194, R195) -/

/-- Ends the registrations that p names: held upcalls are discarded, threads dropped there stop (R194). -/
def State.endRegs (s : State) (rid : Nat) (p : Pager → Bool) : State :=
  match s.region? rid with
  | none => s
  | some r =>
    let gone := r.pagers.filter p
    let inGone (u : Upcall) : Bool := gone.any (fun q => q.base ≤ u.page && u.page < q.base + q.pages)
    let s := s.setRegion rid { r with pagers := r.pagers.filter (fun q => !p q), upcalls := r.upcalls.filter (fun u => !inGone u) }
    gone.foldl (fun s q =>
      let s := s.modSaved rid (q.base * 65536) ((q.base + q.pages) * 65536) (Thread.deny 5)
      (s.droppedIn rid (q.base * 65536) ((q.base + q.pages) * 65536)).foldl (fun s (c, k) =>
      stopDropped s c k (pageDenied 5 (s.thread c k).dropVa)) s) s

/-- Two page ranges overlap. -/
def pagesMeet (b n : Nat) (p : Pager) : Bool := b < p.base + p.pages && p.base < b + n

/-- `PGREG` (R194). Where both operands or neither is at fault, word 5 shows a (log entry 141). -/
def execPgreg (a b : Reg) (s : State) : Out' :=
  run (.pgreg a b) s (fun s =>
    let va := s.src a
    let vb := s.src b
    let base := va.toNat / 2 ^ 16 % 2 ^ 41
    let q := va.toNat % 4
    let n := vb.toNat / 2 ^ 16 % 2 ^ 41
    let bad (v : Word) : Bool := v.toNat / 2 ^ 57 ≠ 0 || v.toNat / 4 % 2 ^ 14 ≠ 0
    let mine (p : Pager) : Bool := p.cid = s.bun.cid && p.slot = s.bun.slot && p.base = base
    match s.regionOf s.bun.cid with
    | none => .fault notHere
    | some r =>
      if bad va then .fault (refused va)
      else if bad vb || vb.toNat % 4 = 3 then .fault (refused vb)
      else if n = 0 then
        if r.pagers.any mine then .ok (s.endRegs r.id mine) else .fault (refused va)
      else if 2 ^ 41 < base + n || r.pagers.any (pagesMeet base n) || 8 ≤ r.pagers.length || (s.myCore.queue? q).isNone then
        .fault (refused va)
      else .ok (s.setRegion r.id { r with pagers := r.pagers ++
        [⟨s.bun.cid, s.bun.slot, base, n, vb.toNat % 2 = 1, vb.toNat / 2 % 2 = 1, q⟩] }))

/-- `PGFILL` (R195): checked here, done by the tinker (`PGFILL_COMPLETE`). -/
def execPgfill (a b : Reg) (s : State) : Out' :=
  run (.pgfill a b) s (fun s =>
    let va := s.src a
    let vb := s.src b
    let page := va.toNat / 65536
    let mine : Bool := match s.regionOf s.bun.cid with
      | some r => r.pagers.any (fun p => p.cid = s.bun.cid && p.slot = s.bun.slot && p.base ≤ page && page < p.base + p.pages)
      | none => false
    if va.toNat % 65536 ≠ 0 || !mine then .fault (refused va)
    else if vb.toNat % 65536 ≠ 0 || 2 ^ 57 ≤ vb.toNat then .fault (refused vb)
    else
      let e : Ea := ⟨.none, s.myCl, va.toNat, va⟩
      .ok (s.addReq { s.newReq (.pgfill vb.toNat) e 0 [⟨va.toNat, 0, 0, 0, 0, false⟩] with cls := some .st }))

end Sys2Proof.Machine
end

