-- ==== Sys2Proof/Machine/Launch.lean ====
section
/-! DEFINITION. Launching a region (R277 to R281, R288 to R290): the region control block, inheritance, the tests of
acceptance, and the instructions `LAUNCH` and `RWAIT`. -/

namespace Sys2Proof.Machine

/-! ### The region control block (R277) -/

/-- A field with a given bit: doubleword, lowest bit, width, and the value a root takes. -/
structure FieldSpec where
  bit : Nat
  dw : Nat
  lo : Nat
  width : Nat
  reset : Nat
  deriving DecidableEq, Repr

def fieldSpecs : List FieldSpec :=
  [⟨0, 0, 13, 1, 0⟩, ⟨1, 0, 12, 1, 0⟩, ⟨2, 0, 11, 1, 0⟩, ⟨3, 0, 10, 1, 0⟩, ⟨4, 0, 9, 1, 0⟩, ⟨5, 0, 8, 1, 0⟩, ⟨6, 0, 4, 3, 0⟩,
   ⟨7, 3, 0, 57, 0⟩, ⟨8, 4, 32, 32, 0⟩, ⟨9, 4, 0, 32, 0⟩, ⟨10, 5, 0, 64, 0⟩, ⟨11, 6, 0, 56, 0⟩,
   ⟨12, 7, 32, 16, 1⟩, ⟨13, 7, 16, 5, 16⟩, ⟨14, 7, 8, 5, 0⟩, ⟨15, 7, 0, 5, 1⟩] ++
  [⟨16, 8, 0, 64, 2 ^ 64 - 1⟩, ⟨17, 9, 0, 64, 2 ^ 64 - 1⟩, ⟨18, 10, 32, 32, 16384⟩, ⟨19, 10, 16, 16, 1024⟩,
   ⟨20, 10, 0, 16, 1024⟩, ⟨21, 11, 32, 16, 0⟩, ⟨22, 11, 16, 10, 0⟩, ⟨23, 11, 0, 10, 0⟩, ⟨24, 12, 0, 57, 0⟩,
   ⟨25, 13, 0, 57, 0⟩, ⟨26, 14, 0, 57, 0⟩, ⟨27, 15, 16, 40, 0⟩, ⟨28, 16, 35, 1, 0⟩, ⟨29, 16, 32, 3, 1⟩, ⟨30, 16, 0, 32, 0⟩] ++
  [⟨31, 18, 0, 64, 0⟩, ⟨32, 19, 0, 64, 0⟩, ⟨33, 20, 32, 16, 0⟩, ⟨34, 20, 0, 16, 0⟩, ⟨35, 24, 0, 64, 0⟩, ⟨36, 25, 0, 64, 0⟩,
   ⟨37, 26, 0, 64, 0⟩, ⟨38, 27, 0, 64, 0⟩, ⟨39, 28, 0, 64, 0⟩, ⟨40, 29, 0, 64, 0⟩, ⟨41, 30, 0, 64, 0⟩, ⟨42, 31, 0, 64, 0⟩,
   ⟨43, 21, 0, 57, 0⟩, ⟨44, 20, 16, 16, 16⟩]

/-- Bits of a doubleword that the block defines besides the fields with a given bit: kind and id, the given mask, parent,
winner, status. -/
def ownBits : Nat → List (Nat × Nat)
  | 0 => [(0, 3), (32, 16)]
  | 1 => [(0, 64)]
  | 2 => [(0, 57)]
  | 16 => [(40, 8)]
  | 17 => [(0, 9), (16, 48)]
  | _ => []

/-- The bits of doubleword d that may be set. -/
def definedBits (d : Nat) : List (Nat × Nat) :=
  ownBits d ++ (fieldSpecs.filter (fun f => f.dw = d)).map (fun f => (f.lo, f.width))

/-- A doubleword with every defined bit cleared. -/
def reservedOf (d v : Nat) : Nat := (definedBits d).foldl (fun v (lo, w) => v - v / 2 ^ lo % 2 ^ w * 2 ^ lo) v

/-- The doublewords of the block at a PA. -/
def State.blockDws (s : State) (pa : Nat) : List Nat := (List.range 32).map (fun i => s.dw (s.fwd (pa + 8 * i)))

/-- A reserved bit is set, or a given bit above 44 (R280 step 2). -/
def blockReserved (ds : List Nat) : Bool :=
  (ds.zipIdx.any (fun (v, d) => reservedOf d v ≠ 0)) || ds.getD 1 0 / 2 ^ 45 ≠ 0

/-- The effective fields (R279). -/
def effFields (ds : List Nat) (parent : Option Region) : List (Nat × Word) :=
  fieldSpecs.foldl (fun t f =>
    let own := ds.getD f.dw 0 / 2 ^ f.lo % 2 ^ f.width
    let v := if ds.getD 1 0 / 2 ^ f.bit % 2 = 1 then own
             else match parent with | some p => p.field f.bit | none => f.reset
    Table.set t f.bit (wrap64 v)) []

/-- The block as acceptance writes it back: effective fields, given bits 0 to 44, id, parent, status (R279). -/
def effBlock (r : Region) (ds : List Nat) : List Nat :=
  (List.range 32).map (fun d =>
    let fs := ((fieldSpecs.filter (fun f => f.dw = d)).map (fun f => r.field f.bit % 2 ^ f.width * 2 ^ f.lo)).foldl (· + ·) 0
    match d with
    | 0 => fs + ds.getD 0 0 % 8 + r.id * 2 ^ 32
    | 1 => 2 ^ 45 - 1
    | 2 => r.parent
    | 16 => fs + ds.getD 16 0 / 2 ^ 40 % 2 ^ 8 * 2 ^ 40
    | 17 => r.status
    | _ => fs)

/-! ### A region at acceptance -/

def kindOf : Nat → Option Kind
  | 0 => some .grid
  | 1 => some .event
  | 2 => some .forkjoin
  | 3 => some .tournament
  | _ => none

def Team.fresh : Team := { st := .waiting, cl := 0, cores := [], points := [], saved := [], arrays := none, log := [], longWait := none }

/-- An entrant at launch (R306, R314). -/
def Entrant.fresh : Entrant :=
  { live := true, score := 0, scored := false, rank := 255, ranked := 255, growths := 0, source := 255, roundOver := false }

def Region.fresh (id : Nat) (kind : Kind) (fields : List (Nat × Word)) (block pa : Nat) (parent : Option Region)
    (order : Nat) (launcher : Option Nat) : Region :=
  { id := id, kind := kind, block := block, blockPa := pa, root := parent.isNone,
    parent := (parent.map (·.block)).getD 0, parentRid := (parent.map (·.id)).getD 0, fields := fields, order := order,
    prio := (Table.get (0 : Word) fields 6).toNat, state := 1, retired := 0, overflow := 0, mail := [],
    launcher := launcher, notices := [], late := [], teams := [], records := [], total := 0, totalHit := none, pagers := [],
    upcalls := [], poolNext := 0, tableNext := 0, frames := [], left := [], floor := 0, sweeping := false, sweepDue := false,
    finalSweep := false, entrants := [], round := 0, roundOn := false, wakeDue := false, winner := 255, afCount := [], hold := none,
    farPkgs := [], stopDue := false }

/-! ### The tests of acceptance (R280) -/

/-- The first effective field out of its range. -/
def rangeBad (r : Region) : Option Nat :=
  if r.field 12 = 0 then some 12
  else if 16 < r.field 13 then some 13
  else if 16 < r.field 14 then some 14
  else if r.field 15 = 0 || 16 < r.field 15 then some 15
  else if r.field 18 = 0 then some 18
  else if r.field 19 = 0 then some 19
  else if r.field 20 = 0 then some 20
  else if 576 < r.field 22 + r.field 23 then some 23
  else if r.field 44 = 0 then some 44
  else none

/-- A segment entry of a load table is valid: a home-relative one for every core (R280, R284). -/
def segEntryOk (n b lr : Nat) : Bool :=
  n < 8 && (if b / 2 ^ 63 = 1 then
      b / 2 ^ 23 % 2 ^ 40 = 0 && lr / 2 ^ 56 % 8 = 1 &&
      (List.range 16).all (fun c => decide (b % 2 ^ 23 + 0x40000 * c < 2 ^ 23) && SegReg.valid ⟨wrap64 (homeBase b c), wrap64 lr⟩)
    else SegReg.valid ⟨wrap64 b, wrap64 lr⟩)

/-- The load table is readable and laid out as R284 says. -/
def imgOk (s : State) (r : Region) : Bool :=
  let img := r.field 43
  let dw (i : Nat) : Option Nat := s.dwVa r 0 (img + 8 * i)
  match dw 0, dw 1 with
  | some _, some h =>
    let g (i : Nat) : Nat := (dw i).getD 0
    img % 8 = 0 &&
    h / 2 ^ 29 = 0 && h / 2 ^ 4 % 16 = 0 && nSeg h ≤ 8 && nData h ≤ 8 && nBank h ≤ 48 && nChan h ≤ 32 && nHdl h ≤ 16 &&
    (List.range (hdlAt h + 2 * nHdl h)).all (fun i => (dw i).isSome) &&
    (List.range (nSeg h)).all (fun i => segEntryOk (g (2 + 3 * i)) (g (3 + 3 * i)) (g (4 + 3 * i))) &&
    (List.range (nData h)).all (fun i => g (dataAt h + 3 * i) < 8) &&
    (List.range (nBank h)).all (fun i => let b := g (bankAt h + 2 * i); b < 48 || b = 62 || b = 63) &&
    (List.range (nChan h)).all (fun i => g (chanAt h + 3 * i) < 32) &&
    (List.range (nHdl h)).all (fun i => g (hdlAt h + 2 * i) < 16)
  | _, _ => false

/-- The id of a live region (R280). -/
def State.liveId (s : State) (id : Nat) : Bool := match s.region? id with | some r => r.live | none => false

/-- The lowest free region id. -/
def State.freeId (s : State) : Option Nat := ((List.range 65536).drop 1).find? (fun i => !s.liveId i)

/-- What a launch meets: accepted with its region and block, or refused with what R280 reports. -/
inductive Accept where
  | ok (r : Region) (ds : List Nat)
  | refused (bit : Nat)

/-- The tests of R280 in order, on the block at a PA. `recs` is the number of launch records, 0 without; `prio` replaces
the block's. -/
def State.checkBlock (s : State) (pa block : Nat) (parent : Option Region) (recs : Nat) (prio : Option Nat)
    (launcher : Option Nat) : Accept :=
  let ds := s.blockDws pa
  let st := ds.getD 17 0 % 16
  let fields := effFields ds parent
  let fields := if recs = 0 then fields else Table.set fields 12 (wrap64 recs)
  let fields := match prio with | some p => Table.set fields 6 (wrap64 p) | none => fields
  let id := ds.getD 0 0 / 2 ^ 32 % 2 ^ 16
  if !(st = 0 || st = 4 || st = 5) || blockReserved ds then .refused 0xFF
  else match kindOf (ds.getD 0 0 % 8) with
  | none => .refused 0xFF
  | some kind =>
    let r := Region.fresh id kind fields block pa parent s.acceptNo launcher
    if recs ≠ 0 && kind ≠ .grid then .refused 0xFF
    else if r.lockstep && kind ≠ .event then .refused 4
    else match rangeBad r with
    | some b => .refused b
    | none =>
      if kind = .tournament && (r.field 29 = 0 || 6 < r.field 29) then .refused 29
      else match (if id = 0 then s.freeId else if s.liveId id then none else some id) with
      | none => .refused 0xFF
      | some id =>
        let r := { r with id := id }
        if r.field 43 ≠ 0 && !imgOk s r then .refused 43 else .ok r ds

/-! ### Acceptance -/

/-- The retirement bitmap at launch: skipped teams are set (R288, R290). -/
def State.initBitmap (s : State) (r : Region) (skipped : List Nat) : State :=
  if r.field 25 = 0 then s
  else (List.range ((r.nTeams + 7) / 8)).foldl (fun s i =>
    match s.translate r 0 (r.field 25 + i) true false with
    | .pa pa _ _ => s.homeWrite (s.fwd pa) 1 ((skipped.filter (fun t => t / 8 = i)).foldl (fun v t => v + 2 ^ (t % 8)) 0)
    | _ => s) s

/-- The region is accepted and queued (R279, R282, R288): the block is written back, the bitmap set up. Records give each
team's header words; one with rows 0 is skipped. -/
def State.acceptRegion (s : State) (r : Region) (ds : List Nat) (recs : List (List Word)) : State :=
  let skip (t : Nat) : Bool := match recs[t]? with | some rec => (rec.getD 1 0).toNat % 2 ^ 16 = 0 | none => false
  let skipped := (List.range r.nTeams).filter skip
  let r := { r with
    teams := (List.range r.nTeams).map (fun t => (t, { Team.fresh with st := if skip t then .retired else .waiting })),
    retired := skipped.length,
    records := recs.zipIdx.map (fun (rec, i) => (i, rec)),
    entrants := if r.kind = .tournament then (List.range r.nTeams).map (fun e => (e, Entrant.fresh)) else [],
    poolNext := 0, tableNext := 0 }
  let s := ((effBlock r ds).zipIdx).foldl (fun s (v, i) => s.homeWrite (s.fwd (r.blockPa + 8 * i)) 8 v) s
  let s := ({ s with acceptNo := s.acceptNo + 1, host := { s.host with locked := true } }).setRegion r.id r
  s.initBitmap r skipped

/-- Regions in a launch queue: some team still waits to be placed (R282). -/
def State.queued (s : State) (p : Nat) : Nat :=
  (s.regions.filter (fun (_, r) => r.live && r.prio = p && r.teams.any (fun (_, t) => t.st = .waiting))).length

/-! ### LAUNCH (R288, R290) -/

/-- Launch record i at a VA. -/
def State.launchRec (s : State) (r : Region) (die a i : Nat) : Option (List Word) :=
  (List.range 4).mapM (fun j => (s.dwVa r die (a + 32 * i + 8 * j)).map wrap64)

/-- The first VA of a range of doublewords that a walk does not reach. -/
def firstMiss (s : State) (r : Region) (die a : Nat) (write : Bool) : Nat → Option (Nat × Trans)
  | 0 => none
  | n + 1 =>
    match firstMiss s r die a write n with
    | some x => some x
    | none => match s.translate r die (a + 8 * n) write false with
      | .pa _ _ _ => none
      | x => some (a + 8 * n, x)

/-- What a launch reads first: its records and its block's VA and PA, or the VA whose page stands in the way. -/
inductive LaunchRead where
  | ok (recs : List (List Word)) (block pa : Nat)
  | miss (va bits : Nat)
  | denied (detail va : Nat)

def State.launchRead (s : State) (r : Region) (die a n : Nat) : LaunchRead :=
  match firstMiss s r die a false (4 * n) with
  | some (va, .denied d) => .denied d va
  | some (va, _) => .miss va 0
  | none =>
    let recs := (List.range n).filterMap (s.launchRec r die a)
    let block := if n = 0 then a else ((recs.headD []).getD 0 0).toNat % 2 ^ 57
    match s.translate r die block true false with
    | .pa pa _ _ => .ok recs block pa
    | .missing => .miss block 4
    | .denied d => .denied d block

/-- The first record that is malformed or names another block (R290). -/
def recordBad (recs : List (List Word)) (block : Nat) : Option Nat :=
  (recs.zipIdx.find? (fun (rec, _) => (rec.getD 0 0).toNat ≠ block || block % 256 ≠ 0)).map (·.2)

/-- At issue: the values. The launch then waits in the port as a release and reads its records and block through the
page tables; the thread issues nothing until it has read them (log entry 104). -/
def effLaunch (a b : Reg) (s : State) : Res :=
  let va := s.src a
  let vb := s.src b
  let n := vb.toNat
  if 65535 < n then .fault (refused vb)
  else if (n = 0 && va.toNat % 256 ≠ 0) || va.toNat % 32 ≠ 0 || 2 ^ 57 ≤ va.toNat then .fault (refused va)
  else match s.regionOf s.bun.cid with
  | none => .fault notHere
  | some _ =>
    let e : Ea := ⟨.global, s.myCl, va.toNat, va⟩
    .ok (walk s { s.newReq (.launch n) e 0 [⟨va.toNat, 0, 8, 0, 0, false⟩] with cls := some .st, ord := .rel .sys })

def execLaunch (a b : Reg) (s : State) : Out' := run (.launch a b) s (effLaunch a b)

/-- A refusal's fault (R288): block address, offending field, record. -/
def launchFlt (block bit record : Nat) : Flt := ⟨fIllegalOperand, wrap64 block, 0, wrap64 (bit + record * 2 ^ 32)⟩

/-- What the launch comes to at its ordering point: it has still to wait for a line that it reads, or only for room in its
queue; a missing page, the region with its records, or its thread's fault. -/
inductive LaunchAns where
  | blocked
  | wait
  | miss (va bits : Nat)
  | go (r : Region) (ds : List Nat) (recs : List (List Word))
  | fail (f : Flt)

/-- The reads of a launch's records, and those of its block at a PA: VA, key and bytes of each. -/
def State.recordReads (s : State) (r : Region) (die a n : Nat) : List (Nat × Nat × Nat) :=
  (List.range n).filterMap (fun i => match s.translate r die (a + 32 * i) false false with
    | .pa pa _ _ => some (a + 32 * i, s.fwd pa, 32)
    | _ => none)
def State.blockReads (s : State) (block pa : Nat) : List (Nat × Nat × Nat) :=
  [(block, s.fwd pa, 128), (block + 128, s.fwd (pa + 128), 128)]

def State.launchAns (s : State) (q : Req) (p : Piece) : LaunchAns :=
  match q.op, s.region? q.rid with
  | .launch n, some r =>
    match s.readsMeet q.cid q.slot (s.recordReads r (dieOf q.cid) p.addr n) with
    | .wait => .blocked
    | .stop f => .fail f
    | .go => match s.launchRead r (dieOf q.cid) p.addr n with
      | .denied d x => .fail (if s.walkUp q.cid x then pageDenied d x else linkFlt x)
      | .miss x bits => if s.walkUp q.cid x then .miss x bits else .fail (linkFlt x)
      | .ok recs block pa => match s.readsMeet q.cid q.slot (s.blockReads block pa) with
      | .wait => .blocked
      | .stop f => .fail f
      | .go =>
        match recordBad recs block with
        | some i => .fail (launchFlt block 0xFF (i + 1))
        | none => match s.checkBlock pa block (some r) n none (some q.cid) with
          | .refused b => .fail (launchFlt block b 0)
          | .ok c ds => if 1024 ≤ s.queued c.prio then .wait else .go c ds recs
  | _, _ => .wait

/-- What a launch has read: its records, and its block once they name one. -/
def State.launchReads (s : State) (q : Req) (p : Piece) : List (Nat × Nat × Nat) :=
  match q.op, s.region? q.rid with
  | .launch n, some r =>
    let recs := s.recordReads r (dieOf q.cid) p.addr n
    match s.readsMeet q.cid q.slot recs, s.launchRead r (dieOf q.cid) p.addr n with
    | .go, .ok _ block pa => recs ++ (match s.readsMeet q.cid q.slot (s.blockReads block pa) with
      | .go => s.blockReads block pa
      | _ => [])
    | .go, _ => recs
    | _, _ => []
  | _, _ => []

/-- Its reads, those of its walks among them, recall the grants of other cores and end their runs (R201), whether the launch is
accepted or refused. -/
def State.launchSeen (s : State) (q : Req) (p : Piece) : State :=
  (s.launchReads q p).foldl (fun t x => ((s.walkTo q.cid x.1).foldl (fun t l => t.lineSeen l q.cid) t).rangeSeen x.2.1 x.2.2 q.cid) s

/-- A launch's release is ready: it may read its records and block, or be performed once its queue has room. -/
def canLaunch (s : State) (id : Nat) : Bool :=
  match s.req? id with
  | some q => (match q.op, q.pieces with
    | .launch _, [p] => s.orderOk q p && (match s.launchAns q p with
      | .blocked => false
      | .wait => q.stage = .walking
      | _ => q.stage = .walking || q.stage = .sent)
    | _, _ => false)
  | none => false

/-- The thread of a launch that has read what it needs is eligible again. -/
def State.launchAwake (s : State) (q : Req) : State :=
  if q.stage ≠ .walking || q.dropped then s
  else s.modThread q.cid q.slot (fun t => { t with walking := false, reissue := none
                                                   state := if t.walking && t.state = .parked then .ready else t.state })

/-- The launch at its block's home slice (R280, R288): a missing page drops its thread, which issues it anew; a full queue
holds it. -/
def doLaunch (s : State) (id : Nat) : State :=
  match s.req? id with
  | none => s
  | some q => match q.pieces with
    | [p] =>
      (match s.launchAns q p with
        | .blocked => s
        | .wait => ((s.launchSeen q p).launchAwake q).setReq { q with stage := .sent }
        | .fail f => ((s.launchSeen q p).launchAwake q).failReq q f
        | .miss va bits =>
          let s := s.launchSeen q p
          if q.stage = .walking && s.liveReq q then (s.endReq q).dropThread q.rid q.cid q.slot va bits q.bundle q.icnt
          else (s.launchAwake q).failReq q (pageDenied 0 va)
        | .go r ds recs =>
          let s := (s.launchAwake q).widenPins q.cid q.slot .sys
          let s := (s.launchSeen q p).acceptRegion r ds recs
          s.pieceDone q 0 0 0)
    | _ => s

/-- `SLICE_ACCESS_PERFORM` (R197, R280): an access, or a launch, reaches its home slice. -/
def execSliceAccessPerform (id i : Nat) (s : State) : Out' :=
  .next (if canLaunch s id then doLaunch s id else slicePerform s id i)

/-! ### RWAIT (R289) -/

/-- An acquire of a thread waits in the port (R217): for its earlier acquires and releases, and for its writes into the
bytes it reads. -/
def State.acquireWaits (s : State) (cid slot va n : Nat) : Bool :=
  s.reqs.any (fun e => e.cid = cid && e.slot = slot && !e.dropped && (e.ord.isAcq || (!e.stage.performed &&
    (e.ord.relScope.isSome || (e.op.writes && e.space = .global && e.pieces.any (fun p => p.addr < va + n && va < p.addr + p.size))))))

def effRwait (a : Reg) (s : State) : Res :=
  let v := s.src a
  match s.regionOf s.bun.cid with
  | none => .fault notHere
  | some r =>
    if 2 ^ 57 ≤ v.toNat then .fault (refused v)
    else if s.acquireWaits s.bun.cid s.bun.slot v.toNat 256 then .park 0
    else match s.translate r (dieOf s.bun.cid) v.toNat false false with
    | .missing => if s.walkUp s.bun.cid v.toNat then .drop s v.toNat 0 else .fault (linkFlt v.toNat)
    | .denied d => .fault (if s.walkUp s.bun.cid v.toNat then pageDenied d v.toNat else linkFlt v.toNat)
    | .pa pa _ _ => match s.readsMeet s.bun.cid s.bun.slot [(v.toNat + 16, s.fwd (pa + 16), 8), (v.toNat + 136, s.fwd (pa + 136), 8)] with
      | .wait => .park 0
      | .stop f => .fault f
      | .go =>
        let st := s.dw (s.fwd (pa + 136)) % 16
        let lines := s.walkTo s.bun.cid v.toNat ++ [lineOf (s.fwd (pa + 16)), lineOf (s.fwd (pa + 136))]
        if v.toNat % 256 ≠ 0 || s.dw (s.fwd (pa + 16)) % 2 ^ 57 ≠ r.block then .read lines (.fault (refused v))
        else if st = 4 || st = 5 then .ok (lines.foldl (fun t l => t.lineSeen l s.bun.cid) s)
        else .read lines (.park 0)

def execRwait (a : Reg) (s : State) : Out' := run (.rwait a) s (effRwait a)

end Sys2Proof.Machine
end

