-- ==== Sys2Proof/Machine/Commands.lean ====
section
/-! DEFINITION. Engine commands at the entry of their queues: gathering words, rejection tests, follow-on pairs and stream
registers (R47, R226, R230 to R232, R235, R238, R241, R242, R274), and the counting of landed bytes (R231, R234). -/

namespace Sys2Proof.Machine

/-! ### Rejection tests (R47) -/

/-- Fields of word 1 of a matrix command (R238, R241). -/
def mxM (w : Nat) : Nat := w / 2 ^ 55
def mxRow0 (w : Nat) : Nat := w / 2 ^ 47 % 256
def mxAcc (w : Nat) : Nat := w / 2 ^ 45 % 4
def mxFlag (w : Nat) : Bool := w / 2 ^ 44 % 2 = 1
def mxRmCode (w : Nat) : Nat := w / 2 ^ 41 % 8
def mxSf (w : Nat) : Nat := w / 2 ^ 38 % 8
def mxKeep (w : Nat) : Nat := w / 2 ^ 32 % 16
def mxNk (w : Nat) : Nat := w / 2 ^ 16 % 2 ^ 16
def mxStep0 (w : Nat) : Nat := w % 2 ^ 16
/-- Fields of word 2: stride and address. -/
def mxStride (w : Nat) : Nat := w / 2 ^ 23 % 2 ^ 17
def mxAddr (w : Nat) : Nat := w % 2 ^ 23

/-- Integer format codes of matrix operands. -/
def intFmt (f : Nat) : Bool := f = 5 || f = 6

/-- The rows of a matrix command lie in its tile. -/
def rowsOk (w : Nat) : Bool := 1 ≤ mxM w && mxRow0 w + mxM w ≤ 256

/-- Feature 3, stochastic rounding, is accepted (R41). -/
def State.srOk (s : State) : Bool := s.host.featAccept.toNat / 2 ^ 3 % 2 = 1

/-- The format of A and of B of a matrix command, as sampled (R122, R237). -/
def Cmd.fmtA (c : Cmd) : Nat := fmtCode (c.fmtAt c.cl (mxAddr (c.word 2)))
def State.fmtB (s : State) (c : Cmd) : Nat := ((s.cluster c.cl).sf.getD (mxSf (c.word 1)) 0).toNat / 2 ^ 60

/-- Words of a matrix command that R238, R241 or R242 reject. -/
def State.mxWordsBad (s : State) (c : Cmd) : Bool :=
  let w1 := c.word 1
  let w2 := c.word 2
  let rm := mxRmCode w1
  match c.code with
  | 0x11 => w1 / 2 ^ 36 % 4 ≠ 0 || mxKeep w1 ≠ 0 || common w1 w2 rm
  | 0x12 => w1 / 2 ^ 36 % 4 ≠ 0 || !(mxKeep w1 = 4 || mxKeep w1 = 6 || mxKeep w1 = 12) || common w1 w2 rm
  | 0x13 => w1 % 2 ^ 39 ≠ 0 || !rowsOk w1 || rm = 7 || (rm = 5 && w1 / 2 ^ 40 % 2 = 1 && !s.srOk) || w2 / 2 ^ 40 ≠ 0
  | _ => w1 % 2 ^ 45 ≠ 0 || !rowsOk w1 || w2 ≠ 0
where
  common (w1 w2 rm : Nat) : Bool :=
    !rowsOk w1 || mxNk w1 = 0 || rm = 7 || (rm = 5 && !s.srOk) || w2 / 2 ^ 40 ≠ 0 ||
    (intFmt c.fmtA && intFmt (s.fmtB c) && rm ≠ 0 && rm ≠ 6)

/-- The region holds the matrix array (R236), or the tick array (R265), of a cluster. -/
def State.holdsMx (s : State) (cid rid : Nat) : Bool := (s.cluster (clOf cid)).mxHolder = some rid
def State.holdsTk (s : State) (cid rid : Nat) : Bool := (s.cluster (clOf cid)).tkHolder = some rid

/-- The rejection of a matrix command, with its detail: tests in the order of R47. -/
def State.mxReject (s : State) (c : Cmd) (follow : Bool) : Option Nat :=
  let h := c.word 0
  if !(0x11 ≤ c.code && c.code ≤ 0x14) || (follow && 0x12 < c.code) then some 1
  else if hdrBad h || hdrFollow h || hdrSetFull h then some 1
  else if !s.holdsMx c.cid c.rid then some 10
  else if s.mxWordsBad c then some 1
  else none

/-- The rejection of a copy (R228 to R231). -/
def cpReject (c : Cmd) : Option Nat :=
  let w3 := c.word 3
  let d := placeOf (c.word 2)
  if !(1 ≤ c.code && c.code ≤ 5) || hdrBad (c.word 0) || placeBad (c.word 1) || placeBad (c.word 2) then some 1
  else if c.setFull && !d.scratchy then some 1
  else match c.code with
    | 1 => if w3 / 2 ^ 32 ≠ 0 then some 1 else none
    | 2 => none
    | 5 =>
      let ny := w3 / 2 ^ 44 % 16
      let nx := w3 / 2 ^ 40 % 16
      if w3 / 2 ^ 48 ≠ 0 || w3 / 2 ^ 32 % 256 ≠ 0 || ny = 0 || 12 < ny || nx = 0 || 12 < nx || !d.scratchy then some 1 else none
    | _ => if w3 / 2 ^ 24 % 2 = 1 || w3 / 2 ^ 25 % 2 ^ 16 = 0 then some 1 else none

/-- The rejection of a tick note (R274). -/
def State.tkReject (s : State) (c : Cmd) : Option Nat :=
  let h := c.word 0
  if c.code ≠ 0x20 || hdrBad h || hdrFollow h || hdrSetFull h then some 1
  else if !s.holdsTk c.cid c.rid then some 10
  else if h / 2 ^ 48 % 64 ≠ 0 then some 1
  else none

/-! ### Delivered bytes (R231, R234) -/

def State.tally? (s : State) (id : Nat) : Option Tally := s.tallies.find? (fun t => t.cmd.id = id)
def State.setTally (s : State) (t : Tally) : State :=
  { s with tallies := s.tallies.map (fun x => if x.cmd.id = t.cmd.id then t else x) }

/-- A command that moves a byte counter begins. -/
def State.tallyStart (s : State) (c : Cmd) : State :=
  if c.point.isSome then { s with tallies := s.tallies ++ [⟨c, (s.core c.cid).team, false, 0, 0, 0, false⟩] } else s

/-- Bytes of a command land; the cycle's end counts them. -/
def State.tallyLand (s : State) (id n : Nat) : State :=
  match s.tally? id with
  | none => s
  | some t => s.setTally { t with landed := t.landed + n }

/-- Bytes land at another cluster: their report is on its way. -/
def State.tallySend (s : State) (id n : Nat) : State :=
  match s.tally? id with
  | none => s
  | some t => { (s.setTally { t with coming := t.coming + 1 }) with reports := s.reports ++ [⟨id, n⟩] }

/-- The command's last byte has landed. -/
def State.tallyEnd (s : State) (id : Nat) : State :=
  match s.tally? id with
  | none => s
  | some t => s.setTally { t with finished := true }

/-- The bytes of a cycle count against the command's point; once its last byte is counted, STAGE_OVERFLOW reports what
counted nowhere (R234). -/
def State.tallySettle (s : State) (id : Nat) : State :=
  match s.tally? id with
  | none => s
  | some t =>
    let (s, ex, un) := match t.cmd.point with
      | none => (s, t.excess, 0)
      | some pt => s.landBytes t.cmd.rid t.team pt t.landed t.excess
    let t := { t with excess := ex, uncounted := t.uncounted + un, landed := 0 }
    if t.finished && t.coming = 0 then
      let s := { s with tallies := s.tallies.filter (fun x => x.cmd.id ≠ id) }
      if t.excess then s.writeRecord t.cmd.rid 1 (engRecord s fStageOverflow t.cmd.cid t.cmd.slot t.cmd.rid t.cmd.bundle 0
        t.cmd.token t.uncounted t.cmd.icnt t.cmd.now)
      else s
    else s.setTally t

/-- The order in which commands' bytes count (R234): by entry, of one cycle copies first. -/
def tallyBefore (a b : Cmd) : Bool :=
  a.entered < b.entered || (a.entered = b.entered &&
    ((a.code ≤ 5 && 5 < b.code) || ((a.code ≤ 5) = (b.code ≤ 5) && a.id < b.id)))
def insertTally (a : Tally) : List Tally → List Tally
  | [] => [a]
  | b :: t => if tallyBefore a.cmd b.cmd then a :: b :: t else b :: insertTally a t

/-- All landings of a cycle are counted, after its `RVBYTES` write-backs (R233, R234). -/
def State.settleLandings (s : State) : State :=
  (s.tallies.foldl (fun l t => insertTally t l) []).foldl (fun s t => s.tallySettle t.cmd.id) s

/-- `REMOTE_LANDING_REPORT` (R234), which arrives whatever has become of its path (log entry 99). -/
def execRemoteLandingReport (n : Nat) (s : State) : Out' :=
  .next (match s.reports[n]? with
    | none => s
    | some r =>
      let s := ({ s with reports := s.reports.eraseIdx n }).tallyLand r.cmd r.bytes
      match s.tally? r.cmd with
      | some t => s.setTally { t with coming := t.coming - 1 }
      | none => s)

/-! ### Entry (R226, R232, R235) -/

/-- A command of a thread, its words written by the bundle at `bundle` that observed `icnt`. -/
def State.mkCmd (s : State) (cid slot : Nat) (bundle : Word) (icnt : Nat) (words follow : List Word) : Cmd :=
  let c : Cmd := { id := s.nextId, cid := cid, slot := slot, rid := ((s.core cid).region).getD 0, bundle := bundle,
                   icnt := icnt, now := s.nowOf cid slot, words := words, entered := s.cyc, fmts := [], follow := follow,
                   followId := s.nextId + 1, followBundle := bundle, followIcnt := icnt, stream := none, step := 0, stopped := false, waits := false, area := none }
  { c with fmts := sampleFmts s c }

/-- The follow-on command of a pair: its issuing bundle is that of its own last word (R60). -/
def Cmd.followOn (c : Cmd) : Cmd :=
  { c with id := c.followId, words := c.follow, follow := [], stream := none, bundle := c.followBundle, icnt := c.followIcnt }

/-- The matrix command of a pair. -/
def State.followCmd (s : State) (c : Cmd) : Cmd := { c.followOn with fmts := sampleFmts s c.followOn }

/-- A copy samples the formats of both commands of a pair (R232). -/
def joinFmts (a b : List (Nat × Word)) : List (Nat × Word) := b.foldl (fun t (k, v) => Table.set t k v) a

/-- The stream register a copy is bound to (R235). -/
def Core.armed (c : Core) (slot token : Nat) : Option Nat :=
  (c.streams.find? (fun (_, q) => q.token = token && q.slot = slot && q.bound.isNone)).map (·.1)

/-- A copy that a stream register permits (R235). -/
def streamOk (pkg : Nat) (c : Cmd) : Bool :=
  let d := placeOf (c.word 2)
  d.space = 1 && d.addr % 8 = 0 && c.code ≠ 5 && c.geom.total * (c.sizes pkg).2 % 8 = 0

/-- The counters rise at the last word; the status list takes the command (R103, R107). -/
def State.enterHist (s : State) (c : Cmd) (eng : Nat) (k : Cls) : State :=
  (s.histEnter c.cid eng c.id c.token).modThread c.cid c.slot (fun t => t.addOut c.id k)

/-- A complete copy, or pair, enters the carter queue or is rejected; `first` tells the bundle of the copy's own last word. -/
def State.enterCopy (s : State) (cid slot : Nat) (first : Word × Nat) (bundle : Word) (icnt : Nat) (ws : List Word) : State :=
  let c := { s.mkCmd cid slot first.1 first.2 (ws.take 4) (ws.drop 4) with followBundle := bundle, followIcnt := icnt }
  let m := s.followCmd c
  let pair : Bool := !c.follow.isEmpty
  let bound := (s.core cid).armed slot c.token
  let rc := (cpReject c).orElse fun _ => if bound.isSome && !streamOk s.host.pkgId c then some 12 else none
  let rm := if pair then s.mxReject m true else none
  let s := { s with nextId := s.nextId + 2 }
  let s := s.enterHist c 0 .cp
  let s := if pair then s.enterHist m 1 .mx else s
  let detach (s : State) : State := match bound with
    | some k => s.modCore cid (fun x => { x with streams := Table.erase x.streams k })
    | none => s
  if rc.isSome || rm.isSome then
    let s := detach s
    let s := s.failCmd 0 c (rc.getD 9) 0
    if pair then s.failCmd 1 m (rm.getD 9) 0 else s
  else
    let s := match bound with
      | some k => s.modCore cid (fun x => { x with streams := x.streams.map (fun (e : Nat × SReg) =>
          (e.1, if e.1 = k then { e.2 with bound := some c.id } else e.2)) })
      | none => s
    s.modCluster (clOf cid) (fun x => x.addCopy { c with stream := bound, fmts := if pair then joinFmts c.fmts m.fmts else c.fmts })

/-- A complete matrix command enters its queue or is rejected. -/
def State.enterMx (s : State) (cid slot : Nat) (bundle : Word) (icnt : Nat) (ws : List Word) : State :=
  let c := s.mkCmd cid slot bundle icnt ws []
  let s := ({ s with nextId := s.nextId + 2 }).enterHist c 1 .mx
  match s.mxReject c false with
  | some d => s.failCmd 1 c d 0
  | none => s.modCluster (clOf cid) (fun x => x.addMx c)

/-- A word of `s30`: a tick note enters its queue or is rejected (R274). -/
def State.enterNote (s : State) (cid slot : Nat) (bundle : Word) (icnt : Nat) (w : Word) : State :=
  let c := s.mkCmd cid slot bundle icnt [w] []
  let s := ({ s with nextId := s.nextId + 2 }).enterHist c 2 .mx
  match s.tkReject c with
  | some d => s.failCmd 2 c d 0
  | none => s.modCluster (clOf cid) (fun x => x.addTick ⟨c.id, c.id, cid, slot, c.rid, bundle, icnt, c.now, .note c.token⟩)

/-- A command word is written to an engine queue (R47). -/
def State.pushWord (s : State) (cid slot q : Nat) (v : Word) (bundle : Word) (icnt : Nat) : State :=
  let t := s.thread cid slot
  if q = 28 then
    let ws := t.cart ++ [v]
    let first := if ws.length ≤ 4 then (bundle, icnt) else t.cartAt
    if ws.length = cartLen ws then (s.setThread cid slot { t with cart := [] }).enterCopy cid slot first bundle icnt ws
    else s.setThread cid slot { t with cart := ws, cartAt := first }
  else if q = 29 then
    let ws := t.matx ++ [v]
    if ws.length = 3 then (s.setThread cid slot { t with matx := [] }).enterMx cid slot bundle icnt ws
    else s.setThread cid slot { t with matx := ws }
  else s.enterNote cid slot bundle icnt v

/-! ### Records (R227) -/

/-- `ENGINE_COMPLETION_POST` (R226, R227): the oldest finished command that waits for room posts its record. -/
def canPost (s : State) (cid : Nat) : Bool := (s.core cid).comp.length < 64 && !(s.core cid).compWait.isEmpty

def execEngineCompletionPost (cid : Nat) (s : State) : Out' :=
  .next (if canPost s cid then
    match (s.core cid).compWait with
    | w :: rest =>
      (s.modCore cid (fun c => { c with compWait := rest })).postNow cid w ((s.core cid).region.getD 0)
    | [] => s
  else s)

/-! ### CPSTREAM and RVBYTES (R233, R235) -/

def execCpstream (b : Reg) (k : Fin 4) (s : State) : Out' :=
  run (.cpstream b k) s (fun s =>
    -- `s20` + k is no queue register (R77): that ground never holds; one in flight is no ground (log entry 118)
    if (s.myCore.stream? k.val).isSome then .fault notHere
    else .ok (s.wb (.cpstream k.val ((s.src b).toNat % 2 ^ 32))))

def execRvbytes (a : Reg) (pt : Point) (s : State) : Out' :=
  run (.rvbytes a pt) s (fun s =>
    let v := s.src a
    let p := s.myPoint pt.val
    if p.expect.isNone then .fault notHere
    else if 2 ^ 40 - 1 < v.toNat + p.bytes then .fault (refused v)
    else .ok (s.wb (.rvbytes pt.val v.toNat)))

end Sys2Proof.Machine
end

