-- ==== Sys2Proof/Machine/Special.lean ====
section
/-! DEFINITION. The special functions of R257: the exact value is formed in fixed point far beyond p bits, rounded to
the internal value y′ of p bits, and y′ is rounded once in the instruction's mode. -/

namespace Sys2Proof.Machine

/-- Fraction bits of the fixed-point values below. DESIGN CHOICE (log entry 5): y′ is the rounding of a value known
to about 2^−370, which decides every case unless the exact value lies closer than that to a rounding boundary. -/
def fixBits : Nat := 384

def fixOne : Int := 2 ^ fixBits

/-- Product and quotient of fixed-point numbers, rounded down. -/
def fixMul (a b : Int) : Int := a * b / fixOne
def fixDiv (a b : Int) : Int := a * fixOne / b

/-- m × 2^e as a fixed-point number, rounded down. -/
def fixOf (neg : Bool) (m : Nat) (e : Int) : Int :=
  let x : Int := m
  let x := if neg then -x else x
  let k := e + (fixBits : Int)
  if 0 ≤ k then x * 2 ^ k.toNat else x / 2 ^ (-k).toNat

/-- Σ z^i / i! from term n on, `fuel` terms; `t` is term n. -/
def expSeries : Nat → Nat → Int → Int → Int
  | 0, _, _, _ => 0
  | k + 1, n, t, z => t + expSeries k (n + 1) (fixMul t z / (n + 1)) z

/-- Σ z^(2i+1) / (2i + 1), `fuel` terms; `p` is z^(2n+1). -/
def atanhSeries : Nat → Nat → Int → Int → Int
  | 0, _, _, _ => 0
  | k + 1, n, p, zz => p / (2 * n + 1) + atanhSeries k (n + 1) (fixMul p zz) zz

def fixAtanh (z : Int) : Int := atanhSeries 140 0 z (fixMul z z)

/-- ln 2 = 2 atanh(1/3). -/
def fixLn2 : Int := 2 * fixAtanh (fixOne / 3)

/-- e^x as (fixed-point significand, power of two), for |x| below 2^13. -/
def fixExp (x : Int) : Int × Int :=
  let k := (x + fixLn2 / 2) / fixLn2
  (expSeries 90 0 fixOne (x - k * fixLn2), k)

/-- y′ (R257): a positive fixed-point value with a power of two, rounded to p bits, ties to even. -/
def toPrime (p : Nat) (neg : Bool) (v k : Int) : FRes :=
  let m := v.toNat
  if m = 0 then .num neg 0 0 false
  else
    let q : Int := (Nat.log2 m : Int) + 1 - p
    let (lo, num, t) := splitAt m 0 q
    .num neg (roundMag .rne neg lo num t false 0) (q + k - fixBits) false

/-- e^x (R257). -/
def spExp (p : Nat) (x : FV) : FRes :=
  match x with
  | .nan s f w => .nan s f w
  | .inf s => if s then .num false 0 0 false else .inf false
  | .num s m e =>
    if m = 0 then .num false 1 0 false
    else
      let big : Bool := 12 < e + (Nat.log2 m : Int)
      let x := if big then fixOf s 1 13 else fixOf s m e
      let (v, k) := fixExp x
      toPrime p false v k

/-- ln x (R257). -/
def spLog (p : Nat) (x : FV) : FRes :=
  match x with
  | .nan s f w => .nan s f w
  | .inf s => if s then .invalid else .inf false
  | .num s m e =>
    if m = 0 then .inf true
    else if s then .invalid
    else
      let k : Int := e + (Nat.log2 m : Int)
      let f := fixOf false m (-(Nat.log2 m : Int))
      let y := k * fixLn2 + 2 * fixAtanh (fixDiv (f - fixOne) (f + fixOne))
      if m = 2 ^ Nat.log2 m && k = 0 then .num false 0 0 false
      else if y < 0 then toPrime p true (-y) 0 else toPrime p false y 0

/-- tanh x (R257). Below 2^−40 the exact value rounds to x at p bits. -/
def spTanh (p : Nat) (x : FV) : FRes :=
  match x with
  | .nan s f w => .nan s f w
  | .inf s => .num s 1 0 false
  | .num s m e =>
    if m = 0 then .num s 0 0 false
    else if e + (Nat.log2 m : Int) < -40 then .num s m e false
    else
      let big : Bool := 12 < e + (Nat.log2 m : Int)
      let x := if big then fixOf true 1 13 else fixOf true m (e + 1)
      let (v, k) := fixExp x
      let t := if k ≤ 0 then v / 2 ^ (-k).toNat else v * 2 ^ k.toNat
      toPrime p s (fixDiv (fixOne - t) (fixOne + t)) 0

end Sys2Proof.Machine
end

