-- ==== Sys2Proof/Machine/Scratch.lean ====
section
/-! DEFINITION. Scratchpad memory: loads and stores (R128), full/empty words (R129 to R131), banks and pool roles (R117
to R119, R122, R123) and segments (R127). -/

namespace Sys2Proof.Machine

/-! ### Shapes of a memory operation -/

/-- A load of `a` bytes with a destination (R126, R128, R202). -/
def loadReq (op : MemOp) (ord : AOrd) (spaces : List Space) (rights : Nat) (d : Reg) (g : Seg) (off : Word) (a : Nat)
    (s : State) : Res :=
  match memCheck s g spaces rights off a a fMisaligned with
  | .error f => .fault f
  | .ok e => submit s { s.newReq op e g [pieceOf s e a 0 0] with dst := some d.val, cls := some .ld, ord := ord }

/-- A store of `a` bytes (R126, R128, R202, R209). -/
def storeReq (op : MemOp) (ord : AOrd) (spaces : List Space) (rights : Nat) (b : Reg) (g : Seg) (off : Word) (a : Nat)
    (s : State) : Res :=
  match memCheck s g spaces rights off a a fMisaligned with
  | .error f => .fault f
  | .ok e => submit s { s.newReq op e g [pieceOf s e a (s.src b).toNat 0] with cls := some .st, buffered := true, ord := ord }

def ldEff (sx : Bool) (a : Nat) (d x : Reg) (g : Seg) (imm : BitVec 9) (s : State) : Res :=
  loadReq (.load sx) .plain bankSpaces rightR d g (offOf (s.src x) imm a) a s
def stEff (a : Nat) (d x : Reg) (g : Seg) (imm : BitVec 9) (s : State) : Res :=
  storeReq .store .plain bankSpaces rightW d g (offOf (s.src x) imm a) a s

/-! ### LD and ST (R128) -/

def execLdB (d x : Reg) (g : Seg) (imm : BitVec 9) (s : State) : Out' := run (.ldB d x g imm) s (ldEff false 1 d x g imm)
def execLdH (d x : Reg) (g : Seg) (imm : BitVec 9) (s : State) : Out' := run (.ldH d x g imm) s (ldEff false 2 d x g imm)
def execLdW (d x : Reg) (g : Seg) (imm : BitVec 9) (s : State) : Out' := run (.ldW d x g imm) s (ldEff false 4 d x g imm)
def execLdD (d x : Reg) (g : Seg) (imm : BitVec 9) (s : State) : Out' := run (.ldD d x g imm) s (ldEff false 8 d x g imm)
def execLdBSx (d x : Reg) (g : Seg) (imm : BitVec 9) (s : State) : Out' := run (.ldBSx d x g imm) s (ldEff true 1 d x g imm)
def execLdHSx (d x : Reg) (g : Seg) (imm : BitVec 9) (s : State) : Out' := run (.ldHSx d x g imm) s (ldEff true 2 d x g imm)
def execLdWSx (d x : Reg) (g : Seg) (imm : BitVec 9) (s : State) : Out' := run (.ldWSx d x g imm) s (ldEff true 4 d x g imm)
def execStB (d x : Reg) (g : Seg) (imm : BitVec 9) (s : State) : Out' := run (.stB d x g imm) s (stEff 1 d x g imm)
def execStH (d x : Reg) (g : Seg) (imm : BitVec 9) (s : State) : Out' := run (.stH d x g imm) s (stEff 2 d x g imm)
def execStW (d x : Reg) (g : Seg) (imm : BitVec 9) (s : State) : Out' := run (.stW d x g imm) s (stEff 4 d x g imm)
def execStD (d x : Reg) (g : Seg) (imm : BitVec 9) (s : State) : Out' := run (.stD d x g imm) s (stEff 8 d x g imm)

/-! ### Full/empty operations (R130, R131) -/

def ldsEff (d x : Reg) (g : Seg) (imm : BitVec 9) (s : State) : Res :=
  loadReq .lds .plain bankSpaces (rightR + rightS) d g (offOf (s.src x) imm 8) 8 s
def ldfEff (d x : Reg) (g : Seg) (imm : BitVec 9) (s : State) : Res :=
  loadReq .ldf .plain bankSpaces (rightR + rightS) d g (offOf (s.src x) imm 8) 8 s
def stsEff (d x : Reg) (g : Seg) (imm : BitVec 9) (s : State) : Res :=
  storeReq .sts .plain bankSpaces (rightW + rightS) d g (offOf (s.src x) imm 8) 8 s
def stfEff (d x : Reg) (g : Seg) (imm : BitVec 9) (s : State) : Res :=
  storeReq .stf .plain bankSpaces (rightW + rightS) d g (offOf (s.src x) imm 8) 8 s

def execLds (d x : Reg) (g : Seg) (imm : BitVec 9) (s : State) : Out' := run (.lds d x g imm) s (ldsEff d x g imm)
def execLdf (d x : Reg) (g : Seg) (imm : BitVec 9) (s : State) : Out' := run (.ldf d x g imm) s (ldfEff d x g imm)
def execSts (d x : Reg) (g : Seg) (imm : BitVec 9) (s : State) : Out' := run (.sts d x g imm) s (stsEff d x g imm)
def execStf (d x : Reg) (g : Seg) (imm : BitVec 9) (s : State) : Out' := run (.stf d x g imm) s (stfEff d x g imm)

/-- A change of a full/empty bit: counted in no class, no buffer entry. -/
def bitReq (op : MemOp) (x : Reg) (g : Seg) (s : State) : Res :=
  match memCheck s g bankSpaces (rightW + rightS) (s.src x) 8 8 fMisaligned with
  | .error f => .fault f
  | .ok e => submit s (s.newReq op e g [pieceOf s e 8 0 0])

def execFeset (x : Reg) (g : Seg) (s : State) : Out' := run (.feset x g) s (bitReq .feset x g)
def execFeclr (x : Reg) (g : Seg) (s : State) : Out' := run (.feclr x g) s (bitReq .feclr x g)
def execFeq (d x : Reg) (g : Seg) (s : State) : Out' :=
  run (.feq d x g) s (fun s => loadReq .feq .plain bankSpaces rightS d g (s.src x) 8 s)

/-! ### Segments (R127) -/

/-- The parts of a base that `SEGNARROW` compares: the place in its space, and the cluster fields of a remote one. -/
def SegReg.place (g : SegReg) : Nat := if g.spaceCode = 2 then g.base.toNat % 2 ^ 23 else g.base.toNat
def SegReg.fields (g : SegReg) : Nat := if g.spaceCode = 2 then g.base.toNat / 2 ^ 32 else 0

/-- The new pair lies within the old one. -/
def SegReg.within (new old : SegReg) : Bool :=
  new.spaceCode = old.spaceCode && new.fields = old.fields && Nat.land new.rights old.rights = new.rights &&
  old.place ≤ new.place && new.place + new.limit ≤ old.place + old.limit

def execSegset (a b : Reg) (g : Seg) (s : State) : Out' :=
  run (.segset a b g) s (fun s =>
    let new : SegReg := ⟨s.src a, s.src b⟩
    if new.valid then .ok (s.wb (.segset g.val new.base new.lr)) else .fault notHere)

def execSegget (d : Reg) (g : Seg) (s : State) : Out' :=
  run (.segget d g) s (fun s =>
    let r := s.seg s.bun.cid s.bun.slot g.val
    .ok ((s.writeD d.val r.base).writeD (d.val + 1) r.lr))

def execSegnarrow (a b : Reg) (g : Seg) (s : State) : Out' :=
  run (.segnarrow a b g) s (fun s =>
    let new : SegReg := ⟨s.src a, s.src b⟩
    if new.valid && new.within (s.seg s.bun.cid s.bun.slot g.val) then .ok (s.wb (.segset g.val new.base new.lr))
    else .fault notHere)

/-! ### Formats and histograms (R122, R123) -/

/-- A format register value breaks R121. -/
def fmtBad (v : Word) : Bool :=
  let n := v.toNat
  n / 2 ^ 49 ≠ 0 || n / 2 ^ 11 % 2 ^ 21 ≠ 0 || n / 2 ^ 4 % 16 ≠ 0 || 10 ≤ fmtCode v || fmtRm v = 7 ||
  (fmtCode v = 4 && 131072 < fmtStrip v + (fmtStrip v + 47) / 48)

/-- A bank number that names a bank held by the region. -/
def ownBank (s : State) (v : Word) : Bool := v.toNat < 48 && s.bankHeld s.rid s.myCl v.toNat

def execBankfmt (a b : Reg) (s : State) : Out' :=
  run (.bankfmt a b) s (fun s =>
    let bank := s.src a
    let v := s.src b
    if !ownBank s bank then .fault (refused bank)
    else if fmtBad v then .fault (refused v)
    else if fmtRm v = 5 && s.host.featAccept.toNat / 2 ^ 3 % 2 = 0 then .fault (fltAt fFeatureAbsent 0)
    else .ok (s.wb (.bankfmt (bankKey s.myCl bank.toNat) v)))

/-- The count as it stands at the end of cycle issue + 2 is written at issue + 4. -/
def execHistrd (d b : Reg) (bin : Fin 64) (s : State) : Out' :=
  run (.histrd d b bin) s (fun s =>
    let bank := s.src b
    if !ownBank s bank then .fault (refused bank)
    else .ok (s.wb (.histsample (bankKey s.myCl bank.toNat) bin.val d.val) 2))

def execHistclr (a : Reg) (s : State) : Out' :=
  run (.histclr a) s (fun s =>
    let bank := s.src a
    if !ownBank s bank then .fault (refused bank) else .ok (s.wb (.histclr (bankKey s.myCl bank.toNat))))

/-! ### Pool roles (R117 to R119) -/

/-- Whose attached banks an allocation may take: the cores of the region, in a tournament those of the thread's entrant. -/
def State.poolCore (s : State) (cid : Nat) : Bool :=
  let c := s.core cid
  c.region = some s.rid && (match s.region? s.rid with
    | some r => r.kind ≠ .tournament || c.entrant = s.myCore.entrant
    | none => false)

/-- Pool banks attached to those cores whose role passes a test, ascending, as 0 to 15. -/
def State.poolBanks (s : State) (p : Role → Bool) : List Nat :=
  (List.range 16).filter (fun j => s.poolCore (32 * s.myCl + j) && p (s.bank (bankKey s.myCl (32 + j))).role)

/-- Pool banks of a cluster allocated to a region, those on their way to it included. -/
def Role.ownedBy (rid : Nat) : Role → Bool
  | .alloc r => r = rid
  | .leaving r (some _) => r = rid
  | .clearing (some r) => r = rid
  | .home => false
  | .free => false
  | .cache => false
  | .leaving _ none => false
  | .closing _ => false
  | .clearing none => false

def State.ownedBanks (s : State) (rid cl : Nat) : List Nat :=
  (List.range 16).filter (fun j => (s.bank (bankKey cl (32 + j))).role.ownedBy rid)

/-- Pool banks of a cluster that are allocated to a region now: a bank being cleared is not (R118). -/
def State.allocBanks (s : State) (rid cl : Nat) : List Nat :=
  (List.range 16).filter (fun j => (s.bank (bankKey cl (32 + j))).role = .alloc rid)

/-- The limits of a region in a cluster (R119). -/
def Cluster.limitsOf (c : Cluster) (rid : Nat) : PoolLim := (c.limits.find? (fun l => l.rid = rid)).getD ⟨rid, 0, 16, 16⟩

/-- The result word of `BANKALLOC` (R117): the mask, and the banks now in cache role. -/
def allocWord (s : State) (mask : Nat) : Word :=
  wrap64 (mask * 2 ^ 32 + maskOf ((List.range 16).filter (fun j => (s.bank (bankKey s.myCl (32 + j))).role = .cache)))

def execBankalloc (d b : Reg) (s : State) : Out' :=
  run (.bankalloc d b) s (fun s =>
    let v := s.src b
    let n := v.toNat
    let cl := s.myCl
    let lim := (s.cluster cl).limitsOf s.rid
    if 16 < n then .fault (refused v)
    else if n = 0 then putD d (allocWord s (maskOf (s.allocBanks s.rid cl))) s
    else
      let free := s.poolBanks (fun r => r = .free)
      let cache := s.poolBanks (fun r => r = .cache)
      let cand := free ++ cache.take (cache.length - lim.cacheMin)
      if cand.length < n || lim.scratchMax < (s.ownedBanks s.rid cl).length + n then putD d (allocWord s 0) s
      else
        let taken := cand.take n
        let rid := s.rid
        let id := s.nextId
        let late := taken.filter (fun j => cache.contains j)
        let s := taken.foldl (fun s j => s.modBank (bankKey cl (32 + j)) (fun x =>
          { x with role := if cache.contains j then .leaving rid (some id) else .alloc rid })) s
        let word := allocWord s (maskOf taken)
        if late.isEmpty then putD d word s
        else
          -- `d` is written once the last cache bank has left its role (R117)
          let e : Ea := ⟨.none, cl, 0, 0⟩
          .ok (s.addReq { s.newReq (.bankalloc (maskOf late)) e 0 [] with dst := some d.val, result := word.toNat }))

def execBankfree (a : Reg) (s : State) : Out' :=
  run (.bankfree a) s (fun s =>
    let v := s.src a
    let j := v.toNat
    if 32 ≤ j && j < 48 && (s.bank (bankKey s.myCl j)).role = .alloc s.rid then .ok (s.wb (.bankfree (bankKey s.myCl j)))
    else .fault (refused v))

/-- A limits word (R119). -/
def limitsOk (v : Word) : Bool :=
  let n := v.toNat
  n / 2 ^ 21 = 0 && n / 2 ^ 13 % 8 = 0 && n / 2 ^ 5 % 8 = 0 && n / 2 ^ 16 % 32 ≤ 16 && n / 2 ^ 8 % 32 ≤ 16 && n % 32 ≤ 16 &&
  n % 32 ≤ n / 2 ^ 8 % 32

def execPoolset (a : Reg) (s : State) : Out' :=
  run (.poolset a) s (fun s => if limitsOk (s.src a) then .ok (s.wb (.poolset (s.src a))) else .fault (refused (s.src a)))

end Sys2Proof.Machine
end

