-- ==== Sys2Proof/Machine/Global.lean ====
section
/-! DEFINITION. Global loads and stores (R202), cache operations (R203), acquiring loads and releasing stores (R217), and
atomics (R204 to R206, R319). -/

namespace Sys2Proof.Machine

/-! ### LDG and STG (R202) -/

def ldgEff (sx : Bool) (a : Nat) (d x : Reg) (g : Seg) (imm : BitVec 9) (s : State) : Res :=
  loadReq (.load sx) .plain lineSpaces rightR d g (offOf (s.src x) imm a) a s
def stgEff (a : Nat) (d x : Reg) (g : Seg) (imm : BitVec 9) (s : State) : Res :=
  storeReq .store .plain lineSpaces rightW d g (offOf (s.src x) imm a) a s

def execLdgB (d x : Reg) (g : Seg) (imm : BitVec 9) (s : State) : Out' := run (.ldgB d x g imm) s (ldgEff false 1 d x g imm)
def execLdgH (d x : Reg) (g : Seg) (imm : BitVec 9) (s : State) : Out' := run (.ldgH d x g imm) s (ldgEff false 2 d x g imm)
def execLdgW (d x : Reg) (g : Seg) (imm : BitVec 9) (s : State) : Out' := run (.ldgW d x g imm) s (ldgEff false 4 d x g imm)
def execLdgD (d x : Reg) (g : Seg) (imm : BitVec 9) (s : State) : Out' := run (.ldgD d x g imm) s (ldgEff false 8 d x g imm)
def execLdgBSx (d x : Reg) (g : Seg) (imm : BitVec 9) (s : State) : Out' := run (.ldgBSx d x g imm) s (ldgEff true 1 d x g imm)
def execLdgHSx (d x : Reg) (g : Seg) (imm : BitVec 9) (s : State) : Out' := run (.ldgHSx d x g imm) s (ldgEff true 2 d x g imm)
def execLdgWSx (d x : Reg) (g : Seg) (imm : BitVec 9) (s : State) : Out' := run (.ldgWSx d x g imm) s (ldgEff true 4 d x g imm)
def execStgB (d x : Reg) (g : Seg) (imm : BitVec 9) (s : State) : Out' := run (.stgB d x g imm) s (stgEff 1 d x g imm)
def execStgH (d x : Reg) (g : Seg) (imm : BitVec 9) (s : State) : Out' := run (.stgH d x g imm) s (stgEff 2 d x g imm)
def execStgW (d x : Reg) (g : Seg) (imm : BitVec 9) (s : State) : Out' := run (.stgW d x g imm) s (stgEff 4 d x g imm)
def execStgD (d x : Reg) (g : Seg) (imm : BitVec 9) (s : State) : Out' := run (.stgD d x g imm) s (stgEff 8 d x g imm)

/-! ### Acquire and release forms (R217) -/

def ldAcqEff (z : Size) (sx : Bool) (sc : Scope) (d x : Reg) (g : Seg) (s : State) : Res :=
  loadReq (.load sx) (.acq sc) bankSpaces rightR d g (s.src x) z.bytes s
def ldgAcqEff (z : Size) (sx : Bool) (sc : Scope) (d x : Reg) (g : Seg) (s : State) : Res :=
  loadReq (.load sx) (.acq sc) lineSpaces rightR d g (s.src x) z.bytes s
def stRelEff (z : Size) (sc : Scope) (d x : Reg) (g : Seg) (s : State) : Res :=
  storeReq .store (.rel sc) bankSpaces rightW d g (s.src x) z.bytes s
def stgRelEff (z : Size) (sc : Scope) (d x : Reg) (g : Seg) (s : State) : Res :=
  storeReq .store (.rel sc) lineSpaces rightW d g (s.src x) z.bytes s

def execLdAcq (z : Size) (sx : Bool) (sc : Scope) (d x : Reg) (g : Seg) (s : State) : Out' :=
  run (.ldAcq z sx sc d x g) s (ldAcqEff z sx sc d x g)
def execLdgAcq (z : Size) (sx : Bool) (sc : Scope) (d x : Reg) (g : Seg) (s : State) : Out' :=
  run (.ldgAcq z sx sc d x g) s (ldgAcqEff z sx sc d x g)
def execStRel (z : Size) (sc : Scope) (d x : Reg) (g : Seg) (s : State) : Out' :=
  run (.stRel z sc d x g) s (stRelEff z sc d x g)
def execStgRel (z : Size) (sc : Scope) (d x : Reg) (g : Seg) (s : State) : Out' :=
  run (.stgRel z sc d x g) s (stgRelEff z sc d x g)

/-! ### Cache operations (R203) -/

/-- `PREF` never faults: a check that fails, a missing or a denied page makes it a NOP. -/
def prefEff (x : Reg) (g : Seg) (s : State) : Res :=
  match memCheck s g lineSpaces rightR (s.src x) 1 1 fMisaligned with
  | .error _ => .ok s
  | .ok e => match submit s (s.newReq .pref e g [pieceOf s e 1 0 0]) with
    | .fault _ => .ok s
    | r => r

/-- `CCLEAN` and `CINVAL`, counted in `nst`. -/
def cacheReq (op : MemOp) (x : Reg) (g : Seg) (s : State) : Res :=
  match memCheck s g lineSpaces rightW (s.src x) 1 1 fMisaligned with
  | .error f => .fault f
  | .ok e => submit s { s.newReq op e g [pieceOf s e 1 0 0] with cls := some .st }

def execPref (x : Reg) (g : Seg) (s : State) : Out' := run (.pref x g) s (prefEff x g)
def execCclean (x : Reg) (g : Seg) (s : State) : Out' := run (.cclean x g) s (cacheReq .cclean x g)
def execCinval (x : Reg) (g : Seg) (s : State) : Out' := run (.cinval x g) s (cacheReq .cinval x g)

/-! ### Atomics (R204 to R206) -/

/-- The unwrapped slot index w := 16q + s (R318, R319). -/
def State.slotIndex (s : State) : Nat :=
  match s.region? s.rid with
  | some r => 16 * (s.myCore.team * r.coresPerTeam + s.myCore.pos) + s.bun.slot
  | none => s.bun.slot

/-- The t of a tagged `AFADD` (R319). -/
def State.afTime (s : State) : Nat :=
  match s.region? s.rid with
  | some r =>
    if r.kind ≠ .event then Config.endt
    else if s.me.handler then s.me.now
    else if s.myCore.attached then s.myCore.tileNow else Config.endt
  | none => Config.endt

/-- The checks of a deterministic region (R204, R319): a detail of DET_ATOMIC_RESULT. -/
def State.detBad (s : State) (op : Nat) (ret : Bool) : Option Nat :=
  match s.region? s.rid with
  | none => none
  | some r =>
    if !r.det then none
    else if op ≤ 9 then (if ret then some 0 else none)
    else if ret then some 1
    else if 2 ^ 32 - 1 ≤ r.nextAf s.slotIndex then some 3
    else none

/-- An atomic of operation code `op` (R204): segment, limit, alignment, the deterministic checks, then the request. -/
def atomicEff (op : Nat) (o : AOrd) (nret dw : Bool) (d x : Reg) (g : Seg) (s : State) : Res :=
  let a := if dw then 8 else 4
  match memCheck s g lineSpaces rightA (s.src x) a a fMisalignedAtomic with
  | .error f => .fault f
  | .ok e =>
    match s.detBad op (!nret) with
    | some detail => .fault (flt5 fDetAtomic (wrap64 detail))
    | none =>
      let cmp := if op = 9 then s.srcN (d.val + 1) else 0
      let r := { s.newReq (.atomic op (!nret) dw cmp) e g [pieceOf s e a (s.src d).toNat 0] with
        ord := o, dst := if nret then none else some d.val, cls := some (if nret then .st else .ld) }
      let det := match s.region? s.rid with | some r => r.det | none => false
      submit s (if op = 10 && det then { r with afTag := some (s.slotIndex, 0), dest := s.afTime } else r)

def execAadd (o : AOrd) (n dw : Bool) (d x : Reg) (g : Seg) (s : State) : Out' :=
  run (.aadd o n dw d x g) s (atomicEff 0 o n dw d x g)
def execAand (o : AOrd) (n dw : Bool) (d x : Reg) (g : Seg) (s : State) : Out' :=
  run (.aand o n dw d x g) s (atomicEff 1 o n dw d x g)
def execAor (o : AOrd) (n dw : Bool) (d x : Reg) (g : Seg) (s : State) : Out' :=
  run (.aor o n dw d x g) s (atomicEff 2 o n dw d x g)
def execAxor (o : AOrd) (n dw : Bool) (d x : Reg) (g : Seg) (s : State) : Out' :=
  run (.axor o n dw d x g) s (atomicEff 3 o n dw d x g)
def execAmin (o : AOrd) (n dw : Bool) (d x : Reg) (g : Seg) (s : State) : Out' :=
  run (.amin o n dw d x g) s (atomicEff 4 o n dw d x g)
def execAmax (o : AOrd) (n dw : Bool) (d x : Reg) (g : Seg) (s : State) : Out' :=
  run (.amax o n dw d x g) s (atomicEff 5 o n dw d x g)
def execAminu (o : AOrd) (n dw : Bool) (d x : Reg) (g : Seg) (s : State) : Out' :=
  run (.aminu o n dw d x g) s (atomicEff 6 o n dw d x g)
def execAmaxu (o : AOrd) (n dw : Bool) (d x : Reg) (g : Seg) (s : State) : Out' :=
  run (.amaxu o n dw d x g) s (atomicEff 7 o n dw d x g)
def execAxchg (o : AOrd) (n dw : Bool) (d x : Reg) (g : Seg) (s : State) : Out' :=
  run (.axchg o n dw d x g) s (atomicEff 8 o n dw d x g)
def execAcas (o : AOrd) (n dw : Bool) (d x : Reg) (g : Seg) (s : State) : Out' :=
  run (.acas o n dw d x g) s (atomicEff 9 o n dw d x g)
def execAfadd (o : AOrd) (n : Bool) (d x : Reg) (g : Seg) (s : State) : Out' :=
  run (.afadd o n d x g) s (atomicEff 10 o n false d x g)

end Sys2Proof.Machine
end

