-- ==== Sys2Proof/Machine/Streams.lean ====
section
/-! DEFINITION. Streams and remote stores (R169 to R184). -/

namespace Sys2Proof.Machine

/-- `RST` (R179): spaces scratch, remote, global and stack; the offset is x alone. -/
def rstEff (st : Fin 16) (z : Size) (d x : Reg) (g : Seg) (s : State) : Res :=
  storeReq (.rst st.val) .plain allSpaces rightW d g (s.src x) z.bytes s

def execRst (st : Fin 16) (z : Size) (d x : Reg) (g : Seg) (s : State) : Out' :=
  run (.rst st z d x g) s (rstEff st z d x g)

/-- `MST` (R183): global space; on a replicated page one copy for each die. -/
def mstEff (d x : Reg) (g : Seg) (imm : BitVec 9) (s : State) : Res :=
  storeReq .mst .plain [.global] rightW d g (offOf (s.src x) imm 8) 8 s

def execMst (d x : Reg) (g : Seg) (imm : BitVec 9) (s : State) : Out' := run (.mst d x g imm) s (mstEff d x g imm)

/-- What `SWAIT` reports of the thread's last `RST` on a stream (R180). -/
def lastWord : Option RstLast → Nat
  | some l => if l.refused then 2 ^ 63 else l.tag % 2 ^ 48
  | none => 0

/-- `SWAIT` (R180): with no `RST` of the stream outstanding its result is written at issue + 4. -/
def execSwait (d : Reg) (st : Fin 16) (s : State) : Out' :=
  run (.swait d st) s (fun s =>
    let last := Table.find s.me.lastRst st.val
    let busy := s.reqs.any (fun r => r.cid = s.bun.cid && r.slot = s.bun.slot && r.op = .rst st.val && !r.dropped)
    let e : Ea := ⟨.none, s.myCl, 0, 0⟩
    let r := { s.newReq (.swait st.val) e 0 [] with dst := some d.val, cls := some .ld, dest := (last.map (·.id)).getD 0,
                                                    result := lastWord last }
    if busy then .ok (s.addReq r)
    else .ok ((s.wb (.load d.val (wrap64 (lastWord last)) r.id)).modMe (fun t => t.addOut r.id .ld)))

/-- `SSEQ` (R181): the entry of a pair, for a cluster or for the home slice of a line. -/
def execSseq (d b : Reg) (st : Fin 16) (s : State) : Out' :=
  run (.sseq d b st) s (fun s =>
    let v := s.src b
    let n := v.toNat
    if n / 2 ^ 57 % 64 ≠ 0 then .fault (refused v)
    else if n / 2 ^ 63 = 0 then
      let w := n / 16 * 16 % 2 ^ 26
      if !coordOk w then .fault (refused v)
      else
        let cl := clOf (coordCid w)
        let dest := if coordPkg w = s.host.pkgId then cl else cl + 1024 * (coordPkg w + 1)
        putD d (wrap64 (seqWord s.myCore st.val dest)) s
    else
      let e : Ea := ⟨.global, s.myCl, n % 2 ^ 57, wrap64 (n % 2 ^ 57)⟩
      submit s { s.newReq (.sseq st.val) e 0 [pieceOf s e 1 0 0] with dst := some d.val })

end Sys2Proof.Machine
end

