-- ==== Sys2Proof/Machine/Floats.lean ====
section
/-! DEFINITION. Element operations of the floating-point and vector instructions (R57 to R64, R255 to R259), and the
stochastic bits of an issuing bundle (R60, R318). -/

namespace Sys2Proof.Machine

/-! ### Stochastic bits (R60) -/

/-- The lane id of a slot (R60, R318): the task lane in a deterministic region, elsewhere cluster, core and slot. -/
def State.laneId (s : State) (rid cid slot : Nat) : Nat :=
  match s.region? rid with
  | some r =>
    if r.det then (16 * ((s.core cid).team * r.coresPerTeam + (s.core cid).pos) + slot) % 2 ^ 16
    else cluOf cid % 256 * 256 + coreOf cid % 16 * 16 + slot
  | none => cluOf cid % 256 * 256 + coreOf cid % 16 * 16 + slot

/-- The counter C of (3.5). -/
def State.srgCounter (s : State) (rid cid slot icnt : Nat) : Nat :=
  rid % 2 ^ 16 * 2 ^ 48 + s.laneId rid cid slot * 2 ^ 32 + icnt % 2 ^ 32

/-- SRG for element e of the bundle in progress. -/
def State.srgNow (s : State) (e : Nat) : Nat :=
  srg s.myCore.seed.toNat (s.srgCounter s.rid s.bun.cid s.bun.slot s.me.icnt) e

/-- The payload of a NaN generated by the bundle in progress in a lane (R62). -/
def State.nanNow (s : State) (lane : Nat) : Nat := nanPayload s.bun.addr.toNat lane

/-! ### Float elements -/

/-- What an element's one rounding depends on: mode, SRG output, NaN payload. -/
structure FEnv where
  rm : Rm
  r : Nat
  payload : Nat

def Fmt.un (f : Fmt) (env : FEnv) (g : FV → FRes) (x : Nat) : Nat := f.finish env.rm env.r env.payload (g (f.decode x))
def Fmt.bin (f : Fmt) (env : FEnv) (g : FV → FV → FRes) (x y : Nat) : Nat :=
  f.finish env.rm env.r env.payload (g (f.decode x) (f.decode y))
/-- x × y + z with one rounding (R69). -/
def Fmt.fma (f : Fmt) (env : FEnv) (x y z : Nat) : Nat :=
  f.finish env.rm env.r env.payload (exactDot env.rm [(f.decode x, f.decode y)] (some (f.decode z)))

/-- The lesser or greater, −0 below +0; a NaN decides (R63, R256). -/
def Fmt.minMax (f : Fmt) (greater : Bool) (x y : Nat) : Nat :=
  let a := f.decode x
  let b := f.decode y
  match firstNan [a, b] with
  | some (.nan s fr fb) => f.quiet s fr fb
  | _ =>
    let xFirst : Bool := match a.compare b with
      | .lt => true
      | .gt => false
      | .eq => a.neg || !b.neg
    if xFirst = greater then y else x

/-- The sign set by a function of the old one; a NaN is quieted with its sign (R256). -/
def Fmt.withSign (f : Fmt) (g : Bool → Bool) (x : Nat) : Nat :=
  match f.decode x with
  | .nan s fr fb => f.quiet s fr fb
  | v => x % f.signBit + (if g v.neg then f.signBit else 0)

/-- Bits of the internal significand of the special functions (R257). -/
def spBits (f : Fmt) : Nat := if f.fb = 52 then 66 else 41

def Fmt.rcp (f : Fmt) (x : FV) : FRes := exactDiv f (.num false 1 0) x

/-! ### Integer elements -/

/-- A lane as an integer. -/
def intVal (bits : Nat) (signed : Bool) (x : Nat) : Int :=
  if signed && 2 ^ (bits - 1) ≤ x then (x : Int) - 2 ^ bits else x

/-- fin_b of R255: the low b bits of the clamped result. -/
def finB (m : IntMod) (bits : Nat) (x : Int) : Nat := (clampMod m bits x % 2 ^ bits).toNat

/-! ### Conversions (R259) -/

/-- The types of `VCVT` and `VCVT.S`. -/
inductive NumTy where
  | fl (f : Fmt)
  | int (bits : Nat) (signed : Bool)
  deriving DecidableEq, Repr

/-- The range of an integer type. -/
def intLo (bits : Nat) (signed : Bool) : Int := if signed then -(2 ^ (bits - 1)) else 0
def intHi (bits : Nat) (signed : Bool) : Int := if signed then 2 ^ (bits - 1) - 1 else 2 ^ bits - 1

def convert (dst src : NumTy) (rm : Rm) (r x : Nat) : Nat :=
  if dst = src then x
  else match src, dst with
    | .fl f, .fl g => g.fromFV rm r (f.decode x)
    | .fl f, .int b sg => (roundInt rm r (intLo b sg) (intHi b sg) (f.decode x) % 2 ^ b).toNat
    | .int b sg, .fl g => g.fromInt rm r (intVal b sg x)
    | .int b sg, .int c tg => (max (intLo c tg) (min (intHi c tg) (intVal b sg x)) % 2 ^ c).toNat

def NumTy.bits : NumTy → Nat
  | .fl f => f.bits
  | .int b _ => b

end Sys2Proof.Machine

namespace Sys2Proof

open Machine

def VT.num : VT → NumTy
  | .fl t => .fl t.fmt
  | .int t => .int t.bits t.signed
def ST.num : ST → NumTy
  | .fl t => .fl t.fmt
  | .int t => .int t.bits t.signed
def VArith.vtype : VArith → VT
  | .fl t _ => .fl t
  | .int t _ => .int t
def VAbs.vtype : VAbs → VT
  | .fl t => .fl t
  | .int t _ => .int t
def VCmp.vtype : VCmp → VT
  | .fl t _ => .fl t
  | .int t _ => .int t

end Sys2Proof
end

