-- ==== Sys2Proof/Machine/Copy.lean ====
section
/-! DEFINITION. The carter (R222, R226, R228 to R232, R235, R365): the checks of a copy as it begins, the landing of its
bytes, and its end. -/

namespace Sys2Proof.Machine

/-! ### Elements (R229) -/

/-- An integer as an exact value. -/
def intFV (i : Int) : FV := .num (i < 0) i.natAbs 0

/-- Width and signedness of an integer format code (R121). -/
def intOf : Nat → Option (Nat × Bool)
  | 5 => some (8, true)
  | 6 => some (8, false)
  | 7 => some (16, true)
  | 8 => some (32, true)
  | 9 => some (64, true)
  | _ => none

/-- The exact value of an element of a format, an MK8 one with its block's scale byte (R54, R229). -/
def fmtValue (fmt bits scale : Nat) : FV :=
  match flFmt fmt, intOf fmt with
  | some f, _ => f.decode bits
  | none, some (w, sg) => intFV (intVal w sg bits)
  | none, none => mk8Value scale bits

/-- round(x, fmt, rm) for a format other than MK8 (R57, R59, R64), as bits. -/
def fmtBits (fmt : Nat) (rm : Rm) (r : Nat) (v : FV) : Nat :=
  match flFmt fmt, intOf fmt with
  | some f, _ => f.fromFV rm r v
  | none, some (w, sg) => (roundInt rm r (intLo w sg) (intHi w sg) v % 2 ^ w).toNat
  | none, none => 0

/-- SRG for element e of a command (R60). -/
def State.srgCmd (s : State) (c : Cmd) (e : Nat) : Nat :=
  srg (s.core c.cid).seed.toNat (s.srgCounter c.rid c.cid c.slot c.icnt) e

/-! ### Ends -/

/-- One end of a copy: its place, cluster, format code and element size. -/
structure CEnd where
  p : Place
  cl : Nat
  fmt : Nat
  size : Nat
  deriving DecidableEq, Repr

/-- The source end, and the destination end at a cluster. -/
def Cmd.ends (c : Cmd) (pkg dcl : Nat) : CEnd × CEnd :=
  let a := placeOf (c.word 1)
  let b := placeOf (c.word 2)
  let fs := c.endFmt a (a.cluster pkg c.cl)
  let fd := c.endFmt b dcl
  let (ws, wd) := sizesOf fs fd
  (⟨a, a.cluster pkg c.cl, fs, ws⟩, ⟨b, dcl, fd, wd⟩)

/-- The command converts (R229). -/
def converts (a b : CEnd) : Bool := !byteCopy a.fmt b.fmt

/-- Row ranges of an end in bytes: the place's address counted. -/
def rowRanges (g : Geom) (e : CEnd) (first : Nat → Nat) : List (Nat × Nat) :=
  if g.len = 0 then [] else (List.range g.rows).map (fun r => (e.p.addr + first r * e.size, g.len * e.size))

/-- The displaced team to whose log an engine access to a bank goes (R335); a team's own commands reach its banks
while its save settles them (R334). -/
def State.displacedFor (s : State) (c : Cmd) (cl b : Nat) : Option Nat :=
  match s.displacedOwner c.rid cl b with
  | some t => if (s.core c.cid).region = some c.rid && (s.core c.cid).team = t then none else some t
  | none => none

/-- The bank may be touched by a command (R115, R118, R228): held, held by a displaced team, or closing since its
entry. -/
def State.engHolds (s : State) (c : Cmd) (cl b : Nat) : Bool :=
  cl < 576 && b < 48 && (s.cluster cl).resetAt.isNone && (s.bankOk c.rid cl b ||
    ((s.bank (bankKey cl b)).role = .closing c.rid && c.id < (s.bank (bankKey cl b)).closeMark))

/-! ### Checks at the begin (R228, R365) -/

/-- A check passes, fails with a detail and an address, meets a missing page in a pager's range, or waits for a path. -/
inductive Check where
  | pass
  | wait
  | bad (detail addr : Nat)
  | page (va : Nat) (write : Bool)
  deriving DecidableEq, Repr

def Check.and (c : Check) (d : Unit → Check) : Check :=
  match c with
  | .pass => d ()
  | _ => c

def checkIf (ok : Bool) (detail addr : Nat) : Check := if ok then .pass else .bad detail addr

/-- Every bank that an end's bytes touch is held (3). -/
def checkHeld (s : State) (c : Cmd) (e : CEnd) (rows : List (Nat × Nat)) : Check :=
  if !e.p.scratchy then .pass
  else checkIf (e.p.rangeOk && rows.all (fun (lo, n) =>
    (List.range ((e.p.sa + (lo - e.p.addr) + n - 1) / 2 ^ 17 + 1 - (e.p.sa + (lo - e.p.addr)) / 2 ^ 17)).all (fun i =>
      s.engHolds c e.cl (bankOfSa (e.p.sa + (lo - e.p.addr)) + i)))) 3 e.p.addr

/-- One bank, element capacity, stack range and ownership (4). -/
def checkRange (s : State) (c : Cmd) (e : CEnd) (conv : Bool) (rows : List (Nat × Nat)) : Check :=
  if e.p.scratchy then
    let cap := if conv && e.fmt = 4 then fmtStrip (c.fmtAt e.cl e.p.sa) else 2 ^ 17
    checkIf (rows.all (fun (lo, n) => e.p.sa % 2 ^ 17 + (lo - e.p.addr) + n ≤ cap)) 4 e.p.addr
  else if e.p.space = 3 then
    checkIf (rows.all (fun (lo, n) => decide (lo + n ≤ stackBytes) &&
      (match s.region? c.rid with | some r => r.ownsStack lo n | none => false))) 4 e.p.addr
  else .pass

/-- The bounds of a broadcast (4). -/
def checkBcst (s : State) (c : Cmd) : Check :=
  if c.code ≠ 5 then .pass
  else
    let (_, row0, col0, here) := c.corner s.host.pkgId
    checkIf (here && row0 + c.spanY ≤ 12 && col0 + c.spanX ≤ 12) 4 (placeOf (c.word 2)).addr

/-- The pages of a VA range: the first that fails (5), or waits for its pager, or for a path of its walk (R6). -/
def checkPages (s : State) (r : Region) (die : Nat) (write : Bool) : Nat → Nat → Nat → Check
  | 0, _, _ => .pass
  | fuel + 1, va, n =>
    if n = 0 then .pass
    else if 2 ^ 57 ≤ va then .bad 5 va
    else
      let part := min n (65536 - va % 65536)
      if !s.walkPath r die va then .wait
      else match s.translate r die va write false with
      | .pa _ _ _ => checkPages s r die write fuel (va + part) (n - part)
      | .missing => if (r.pagerFor va).isSome then .page va write else .bad 5 va
      | .denied _ => .bad 5 va

def checkTrans (s : State) (c : Cmd) (e : CEnd) (write : Bool) (rows : List (Nat × Nat)) : Check :=
  if e.p.space ≠ 0 then .pass
  else match s.region? c.rid with
    | none => .bad 5 e.p.addr
    | some r => rows.foldl (fun k (lo, n) => k.and (fun _ => checkPages s r (dieOf c.cid) write (n / 65536 + 2) lo n)) .pass

/-- MK8 and reserved formats at global and stack ends (2). -/
def checkFmt (e : CEnd) : Check := checkIf (e.p.scratchy || (e.p.fmt ≠ 4 && e.p.fmt < 10)) 2 e.p.addr

/-- Element alignment, and the block alignment of an MK8 destination (6). -/
def checkAlign (e : CEnd) (conv dst : Bool) : Check :=
  checkIf (e.p.addr % e.size = 0 && !(conv && dst && e.fmt = 4 && e.p.sa % 2 ^ 17 % 48 ≠ 0)) 6 e.p.addr

/-- Index values of a gather or scatter. -/
def Cmd.readIdx (s : State) (c : Cmd) : List Nat :=
  match c.geom.idx with
  | some (_, a) => (List.range c.geom.rows).map (fun r => s.read (scratchKey c.cl (a + 4 * r)) 4)
  | none => []

/-- The index area: bank held (3), range (4), alignment (6). -/
def checkIdx (s : State) (c : Cmd) : Check :=
  match c.geom.idx with
  | none => .pass
  | some (_, a) =>
    (checkIf (s.engHolds c c.cl (bankOfSa a)) 3 a).and fun _ =>
    (checkIf (a % 2 ^ 17 + 4 * c.geom.rows ≤ 2 ^ 17) 4 a).and fun _ =>
    checkIf (a % 4 = 0) 6 a

/-- A check of the source end, then of the destination end at every cluster. -/
def bothEnds (s : State) (c : Cmd) (idx : List Nat) (f : CEnd → Bool → Bool → List (Nat × Nat) → Check) : Check :=
  let pkg := s.host.pkgId
  let g := c.geom
  let ts := c.targets pkg
  let src := (c.ends pkg (ts.headD c.cl))
  (f src.1 (converts src.1 src.2) false (rowRanges g src.1 (g.srcRow idx))).and fun _ =>
  ts.foldl (fun k t => k.and (fun _ =>
    let (a, b) := c.ends pkg t
    f b (converts a b) true (rowRanges g b (g.dstRow idx)))) .pass

/-- All checks of a copy as it begins, in their order (R365). -/
def copyCheck (s : State) (c : Cmd) (idx : List Nat) : Check :=
  (checkIdx s c).and fun _ =>
  (bothEnds s c idx (fun e _ _ rows => checkHeld s c e rows)).and fun _ =>
  (bothEnds s c idx (fun e conv _ rows => checkRange s c e conv rows)).and fun _ =>
  (checkBcst s c).and fun _ =>
  (bothEnds s c idx (fun e _ dst rows => checkTrans s c e dst rows)).and fun _ =>
  (bothEnds s c idx (fun e _ _ _ => checkFmt e)).and fun _ =>
  bothEnds s c idx (fun e conv dst _ => checkAlign e conv dst)

/-! ### The end of a copy (R227, R232, R235) -/

/-- The stream register of a copy gets no more doublewords: it detaches once it is empty. A faulted copy's landed
doublewords are all popped first. -/
def State.endStream (s : State) (c : Cmd) : State :=
  match c.stream with
  | none => s
  | some k => s.modCore c.cid (fun x =>
      let l := x.streams.map (fun (e : Nat × SReg) => (e.1, if e.1 = k && e.2.bound = some c.id 
        then { e.2 with ended := true, buf := e.2.buf ++ e.2.early.map (·.2), early := [] } else e.2))
      { x with streams := l.filter (fun (_, q) => !(q.ended && q.buf.isEmpty)) })

/-- A copy finishes: with a detail and an address when it faulted. -/
def State.endCopy (s : State) (c : Cmd) (fail : Option (Nat × Nat)) : State :=
  let s := s.modCluster c.cl (fun x => { x with copies := x.copies.filter (fun r => r.cmd.id ≠ c.id) })
  let s := (s.endStream c).tallyEnd c.id
  match fail with
  | none =>
    let s := s.doneCmd 0 c
    if c.follow.isEmpty then s else s.modCluster c.cl (fun x => { x with ready := x.ready ++ [c.followOn] })
  | some (d, a) =>
    let s := s.failCmd 0 c d a
    if c.follow.isEmpty then s else s.failCmd 1 c.followOn 9 0

/-! ### The begin (R222, R226) -/

/-- The copy that begins next: the first of the queue whose core is not being saved (R334). -/
def Cluster.nextCopy (c : Cluster) (s : State) : Option Cmd := c.copyQ.find? (fun x => !(s.core x.cid).away)

/-- No bank that a copy reads belongs to a displaced team (R335). -/
def copyReadable (s : State) (c : Cmd) : Bool :=
  let a := placeOf (c.word 1)
  (!a.scratchy || (s.displacedFor c (a.cluster s.host.pkgId c.cl) (bankOfSa a.sa)).isNone) &&
  (match c.geom.idx with
    | some (_, x) => (s.displacedFor c c.cl (bankOfSa x)).isNone
    | none => true)

def canBeginCopy (s : State) (cl code : Nat) : Bool :=
  let x := s.cluster cl
  x.copies.length < 8 && (match x.nextCopy s with | some c => c.code = code && copyReadable s c | none => false)

/-- Lines that the copy will write leave every L1, granted ones with their atomics (R222). -/
def State.takeLines (s : State) (run : CopyRun) : State :=
  if (placeOf (run.cmd.word 2)).scratchy then s
  else
    let mine := (s.banks.flatMap (fun (_, b) => b.lines.map (·.line))).filter (fun l => run.owns s (128 * l))
    mine.foldl (fun s l => (s.returnGrant l).invalidate l none) s

/-- A poisoned word of the index area. -/
def idxPoison (s : State) (c : Cmd) : Option Nat :=
  match c.geom.idx with
  | some (_, a) => (s.poisoned (scratchKey c.cl a) (4 * c.geom.rows)).map (fun k => k - scratchKey c.cl 0)
  | none => none

/-- The checks of an executing copy: it may land bytes, waits for a page, or ends. -/
def State.checkCopy (s : State) (run : CopyRun) : State :=
  let c := run.cmd
  let put (s : State) (run : CopyRun) : State :=
    s.modCluster c.cl (fun x => { x with copies := x.copies.map (fun r => if r.cmd.id = c.id then run else r) })
  match copyCheck s c run.idx with
  | .bad d a => s.endCopy c (some (d, a))
  | .wait => put s { run with waitPage := some (2 ^ 48) }
  | .page va w =>
    if run.waitPage = some (va / 65536) then
      (match s.region? c.rid with
        | some r => if r.upcalls.any (fun u => u.page = va / 65536) then s else s.endCopy c (some (5, va))
        | none => s.endCopy c (some (5, va)))
    else (put s { run with waitPage := some (va / 65536) }).upcall c.rid (va / 65536) (if w then 4 else 0)
  | .pass =>
    match idxPoison s c with
    | some a => s.endCopy c (some (8, a))
    | none =>
      let run := { run with waitPage := none }
      (put s run).takeLines run

/-- The copy begins: an empty one is done (R231). -/
def beginCopy (s : State) (cl : Nat) : State :=
  match (s.cluster cl).nextCopy s with
  | none => s
  | some c =>
    let s := s.modCluster cl (fun x => { x with copyQ := x.copyQ.filter (fun y => y.id ≠ c.id) })
    let s := s.tallyStart c
    if c.geom.total = 0 then s.endCopy c none
    else
      let run : CopyRun := ⟨c, 0, c.geom.total * (c.targets s.host.pkgId).length, c.readIdx s, none, s.nextId⟩
      (({ s with nextId := s.nextId + 1 } : State).modCluster cl (fun x => { x with copies := x.copies ++ [run] })).checkCopy run

def execCpLin (cl : Nat) (s : State) : Out' := .next (if canBeginCopy s cl 1 then beginCopy s cl else s)
def execCp2d (cl : Nat) (s : State) : Out' := .next (if canBeginCopy s cl 2 then beginCopy s cl else s)
def execCpGath (cl : Nat) (s : State) : Out' := .next (if canBeginCopy s cl 3 then beginCopy s cl else s)
def execCpScat (cl : Nat) (s : State) : Out' := .next (if canBeginCopy s cl 4 then beginCopy s cl else s)
def execCpBcst (cl : Nat) (s : State) : Out' := .next (if canBeginCopy s cl 5 then beginCopy s cl else s)

/-! ### Landing (R226, R229, R231) -/

/-- What the carter meets at an address: a PA or scratch key, or a failure. -/
inductive Spot where
  | key (k : Nat)
  | fail (detail addr : Nat)

/-- The place of a byte of an end, for a command. -/
def State.spot (s : State) (c : Cmd) (e : CEnd) (a : Nat) (write : Bool) : Spot :=
  if e.p.scratchy then .key (scratchKey e.cl (a % 2 ^ 23))
  else if e.p.space = 3 then .key (stackBase s.host.pkgId c.cl + a)
  else match s.region? c.rid with
    | none => .fail 5 a
    | some r =>
      match s.translate r (dieOf c.cid) a write false with
      | .pa pa _ _ => .key (s.fwd pa)
      | _ => .fail 5 a

/-- The carter reaches the entries of its walk to an address of an end (R6). -/
def State.spotPath (s : State) (c : Cmd) (e : CEnd) (a : Nat) : Bool :=
  e.p.space ≠ 0 || (s.region? c.rid).all (fun r => s.walkPath r (dieOf c.cid) a)

/-- A copy may read, or write, an end's place now (R6, R220, R222): scratch over an open path, a line that no other engine
owns. The carter is one agent, and of two carters that own a line the one whose copy began first goes first. -/
def State.copyReads (s : State) (run : CopyRun) (e : CEnd) (k : Nat) : Bool :=
  if e.p.scratchy then s.clustersLinked run.cmd.cl e.cl else s.engClear run.cmd.cid k (fun r => r.cmd.cl = run.cmd.cl)
def State.copyWrites (s : State) (run : CopyRun) (e : CEnd) (k : Nat) : Bool :=
  if e.p.scratchy then s.clustersLinked run.cmd.cl e.cl
  else s.engClear run.cmd.cid k (fun r => r.cmd.cl = run.cmd.cl || run.began < r.began) && !s.reachedFirst run k

/-- The source value of element `off` of a copy: bits and scale, and its key; no value while the copy waits, or a failure. -/
def State.srcBits (s : State) (run : CopyRun) (a : CEnd) (conv : Bool) (off : Nat) :
    Except (Option (Nat × Nat)) (Nat × Nat × Nat) :=
  let c := run.cmd
  let adr := a.p.addr + off * a.size
  if !s.spotPath c a adr then .error none
  else match s.spot c a adr false with
  | .fail d x => .error (some (d, x))
  | .key k =>
    if !s.copyReads run a k then .error none
    else match s.poisoned k a.size with
    | some w => .error (some (8, adr + w - k))
    | none =>
      if conv && a.fmt = 4 then
        let sa := a.p.sa + off
        let sc := sa / 2 ^ 17 * 2 ^ 17 + fmtStrip (c.fmtAt a.cl a.p.sa) + sa % 2 ^ 17 / 48
        match s.poisoned (scratchKey a.cl sc) 1 with
        | some _ => .error (some (8, (adr - a.p.sa % 2 ^ 23 - off + sc) / 8 * 8))
        | none => .ok (s.read k 1, (s.byte (scratchKey a.cl sc)).toNat, k)
      else .ok (s.read k a.size, 0, k)

/-- Elements e, e + 1, … of one MK8 destination block, in the copy's order. -/
def blockSpan (g : Geom) (idx : List Nat) (base total : Nat) : Nat → Nat → List Nat
  | 0, _ => []
  | fuel + 1, e =>
    let at' (i : Nat) : Nat := base + g.dstRow idx (i / g.len) + i % g.len
    e :: (if e + 1 < total && at' e < at' (e + 1) && at' e / 48 = at' (e + 1) / 48 then blockSpan g idx base total fuel (e + 1) else [])

/-- Bytes e, e + 1, … of a copy from raw bytes that land in one element of w bytes, side by side; at' gives their addresses. -/
def byteSpan (at' : Nat → Nat) (w total : Nat) : Nat → Nat → List Nat
  | 0, _ => []
  | fuel + 1, e =>
    e :: (if e + 1 < total && at' (e + 1) = at' e + 1 && at' e / w = at' (e + 1) / w then byteSpan at' w total fuel (e + 1) else [])

/-- Bytes of an element that a raw copy lands whole: an element of a bank that counts (R70, R229). -/
def rawElem (a b : CEnd) : Nat := if b.p.scratchy && a.fmt = 0 && (flFmt b.fmt).isSome then elemBytes b.fmt else 1

/-- Values up to the first that fails. -/
def upTo {ε α : Type} (f : Nat → Except ε α) : List Nat → List α × Option ε
  | [] => ([], none)
  | e :: t => match f e with
    | .error x => ([], some x)
    | .ok v => let (l, x) := upTo f t; (v :: l, x)

/-- What lands at once: an element, or the elements of one MK8 block: writes (address, size, bits) in the destination's
own addresses, the bytes that count, the copy's next element, and the keys that were read. -/
structure CUnit where
  writes : List (Nat × Nat × Nat)
  bytes : Nat
  next : Nat
  reads : List Nat

def State.nextUnit (s : State) (run : CopyRun) (a b : CEnd) (e : Nat) : Except (Option (Nat × Nat)) CUnit :=
  let c := run.cmd
  let g := c.geom
  let conv := converts a b
  let srcOff (i : Nat) : Nat := g.srcRow run.idx (i / g.len) + i % g.len
  let dstOff (i : Nat) : Nat := g.dstRow run.idx (i / g.len) + i % g.len
  let rm := c.endRm b.p b.cl
  if conv && b.fmt = 4 then
    let bank := b.p.sa / 2 ^ 17 * 2 ^ 17
    let es := blockSpan g run.idx (b.p.sa % 2 ^ 17) g.total 48 e
    match es.mapM (fun i => (s.srcBits run a conv (srcOff i)).map (fun (v, sc, k) => (i, fmtValue a.fmt v sc, k))) with
    | .error x => .error x
    | .ok vs =>
      let sc := blockScale (vs.map (·.2.1))
      let first := b.p.sa % 2 ^ 17 + dstOff e
      .ok ⟨vs.map (fun (i, v, _) => (b.p.addr + dstOff i, 1, blockCode sc rm (s.srgCmd c i) v)) ++
             [(b.p.addr - b.p.sa + bank + fmtStrip (c.fmtAt b.cl b.p.sa) + first / 48, 1, sc)],
           es.length, e + es.length, vs.map (·.2.2)⟩
  else if conv || rawElem a b = 1 then
    match s.srcBits run a conv (srcOff e) with
    | .error x => .error x
    | .ok (v, sc, k) =>
      let v := if conv then fmtBits b.fmt rm (s.srgCmd c e) (fmtValue a.fmt v sc) else v
      .ok ⟨[(b.p.addr + dstOff e * b.size, b.size, v)], b.size, e + 1, [k]⟩
  else
    let es := byteSpan (fun i => b.p.sa % 2 ^ 17 + dstOff i) (rawElem a b) g.total 8 e
    match upTo (fun i => s.srcBits run a false (srcOff i)) es with
    | (_, some none) => .error none
    | ([], some x) => .error x
    | (vs, _) => .ok ⟨[(b.p.addr + dstOff e, vs.length, vs.foldr (fun (v, _, _) acc => v + 256 * acc) 0)], vs.length, e + vs.length,
        vs.map (·.2.2)⟩

/-- The copy writes no byte of [lo, lo + n) after element pos, its scale bytes counted. -/
def lastWrite (run : CopyRun) (b : CEnd) (conv : Bool) (strip pos lo n : Nat) : Bool :=
  (run.restRows b.size pos).all (fun (a, m) =>
    !(decide (a < lo + n ∧ lo < a + m)) &&
    !(conv && b.fmt = 4 &&
      (let x := b.p.addr - b.p.sa % 2 ^ 17 + strip
       let first := (a - (b.p.addr - b.p.sa % 2 ^ 17)) / 48
       let last := (a + m - 1 - (b.p.addr - b.p.sa % 2 ^ 17)) / 48
       decide (x + first < lo + n ∧ lo < x + last + 1))))

/-- The words of a unit whose last written byte lands with it. -/
def finishedWords (run : CopyRun) (b : CEnd) (conv : Bool) (strip : Nat) (u : CUnit) : List Nat :=
  (((u.writes.flatMap (fun (a, n, _) => [a / 8, (a + n - 1) / 8])).foldl NatSet.add [])).filter (fun w =>
    lastWrite run b conv strip u.next (8 * w) 8)

/-- One write of a copy; none while it has to wait (R6, R220, R222, R335). -/
def State.engWrite (s : State) (run : CopyRun) (b : CEnd) (a n v : Nat) (full : Bool) : Except (Option (Nat × Nat)) State :=
  let c := run.cmd
  if b.p.scratchy then
    let sa := a % 2 ^ 23
    if !s.copyWrites run b (scratchKey b.cl sa) then .error none
    else match s.displacedFor c b.cl (bankOfSa sa) with
    | some t =>
      (match s.logAppend c.rid t (.write b.cl sa n v (if full then 1 else 0) c.cid false) with
        | some s => .ok s
        | none => .error none)
    | none =>
      let s := s.scratchWrite b.cl sa n v
      .ok (if full then ((s.setFull (scratchKey b.cl sa) true).setFull (scratchKey b.cl (sa + n - 1)) true) else s)
  else if !s.spotPath c b a then .error none
  else match s.spot c b a true with
    | .key k =>
      if !s.copyWrites run b k then .error none
      else .ok ((s.returnGrant (lineOf k)).lineWrite engineCid false k n v)
    | .fail d x => .error (some (d, x))

/-- Doublewords by rising address. -/
def insertDw (a : Nat × Word) : List (Nat × Word) → List (Nat × Word)
  | [] => [a]
  | b :: t => if a.1 < b.1 then a :: b :: t else b :: insertDw a t

/-- Landed doublewords reach a stream register in ascending address order (R235): those that no lower one precedes any more
are queued. -/
def SReg.landed (r : SReg) (ws : List (Nat × Word)) (due : Nat → Bool) : SReg :=
  let l := ws.foldl (fun l w => insertDw w l) r.early
  { r with buf := r.buf ++ (l.filter (fun w => due w.1)).map (·.2), early := l.filter (fun w => !due w.1) }

/-- How a unit's landing ends. -/
inductive Landing where
  | ok (s : State) (next bytes : Nat)
  | wait
  | hold
  | fail (s : State) (detail addr : Nat)

/-- The writes of a unit, one after another. -/
def writeUnit (run : CopyRun) (b : CEnd) (full : List Nat) : List (Nat × Nat × Nat) → State → Except (Option (Nat × Nat) × State) State
  | [], s => .ok s
  | (a, n, v) :: t, s =>
    -- a word turns full with the last write into it
    let last (w : Nat) : Bool := full.contains w && !(t.any (fun (x, m, _) => x / 8 ≤ w && w ≤ (x + m - 1) / 8))
    match s.engWrite run b a n v (last (a / 8) || last ((a + n - 1) / 8)) with
    | .ok s => writeUnit run b full t s
    | .error e => .error (e, s)

/-- The next unit of a copy lands if it fits in `room` bytes. -/
def State.landUnit (s : State) (run : CopyRun) (room : Nat) : Landing :=
  let c := run.cmd
  let total := c.geom.total
  let k := run.pos / total
  let cl := (c.targets s.host.pkgId).getD k c.cl
  let (a, b) := c.ends s.host.pkgId cl
  let conv := converts a b
  let e := run.pos % total
  if !copyReadable s c then .wait
  else match s.nextUnit run a b e with
    | .error none => .wait
    | .error (some (d, x)) => .fail s d x
    | .ok u =>
      if room < u.bytes then .wait
      else
        let strip := fmtStrip (c.fmtAt b.cl b.p.sa)
        let fin := if c.setFull || c.stream.isSome then finishedWords run b conv strip u else []
        let isData (w : Nat) : Bool := u.writes.any (fun (x, n, _) => x / 8 ≤ w && w ≤ (x + n - 1) / 8) &&
          !(conv && b.fmt = 4 && decide (b.p.addr - b.p.sa % 2 ^ 17 + strip ≤ 8 * w + 7))
        let fifo := fin.filter isData
        let rest := run.restRows b.size u.next
        let reg := c.stream.bind (fun q => Table.find (s.core c.cid).streams q)
        -- doublewords behind none that is still to land (R235)
        let due (w : Nat) : Bool := rest.all (fun (lo, _) => decide (8 * w < lo))
        let room64 : Bool := match reg with
          | some r => r.buf.isEmpty || r.buf.length + ((r.early.map (·.1) ++ fifo).filter due).length ≤ 64
          | none => true
        if !room64 then .hold
        else match writeUnit run b (if c.setFull then fin else []) u.writes (if a.p.scratchy then s else u.reads.foldl State.engSees s) with
          | .error (none, _) => .wait
          | .error (some (d, x), s) => .fail s d x
          | .ok s =>
            let word (w : Nat) : Nat × Word := (w, wrap64 (s.read (scratchKey b.cl (8 * w % 2 ^ 23)) 8))
            let s := match c.stream with
              | some q => s.modCore c.cid (fun x => { x with streams := x.streams.map (fun (r : Nat × SReg) =>
                  (r.1, if r.1 = q && r.2.bound = some c.id then r.2.landed (fifo.map word) due else r.2)) })
              | none => s
            .ok s (k * total + u.next) u.bytes

/-- How a copy's part of a cycle ends. -/
inductive CopyTurn where
  | more | hold | done
  | fail (detail addr : Nat)
  deriving DecidableEq, Repr

/-- Bytes of one cycle at each target, counted for the command's rendezvous point (R231, R234). -/
def State.tallyAt (s : State) (c : Cmd) (cl n : Nat) : State :=
  if n = 0 || c.point.isNone then s
  else if cl = c.cl || !(placeOf (c.word 2)).scratchy then s.tallyLand c.id n else s.tallySend c.id n

/-- A copy lands what it can of `left` bytes; `got` bytes have landed at the target in this cycle so far. -/
def landCopy : Nat → State → CopyRun → Nat → Nat → State × CopyRun × Nat × CopyTurn
  | 0, s, run, left, got => (s.tallyAt run.cmd ((run.cmd.targets s.host.pkgId).getD (run.pos / run.cmd.geom.total) run.cmd.cl) got, run, left, .more)
  | fuel + 1, s, run, left, got =>
    let cl := (run.cmd.targets s.host.pkgId).getD (run.pos / run.cmd.geom.total) run.cmd.cl
    match s.landUnit run left with
    | .wait => (s.tallyAt run.cmd cl got, run, left, .more)
    | .hold => (s.tallyAt run.cmd cl got, run, left, .hold)
    | .fail s d a => (s.tallyAt run.cmd cl got, run, left, .fail d a)
    | .ok s next n =>
      let run' := { run with pos := next }
      if run.total ≤ next then (s.tallyAt run.cmd cl (got + n), run', left - n, .done)
      else if next % run.cmd.geom.total = 0 then landCopy fuel (s.tallyAt run.cmd cl (got + n)) run' (left - n) 0
      else landCopy fuel s run' (left - n) (got + n)

/-- Bytes that an `RVBYTES` announces for a copy's point are still to be added, and it issued no later than the copy's last word was
written: no byte of the copy lands before (R233). -/
def State.announcing (s : State) (c : Cmd) : Bool :=
  s.wbs.any (fun w => (match w.act with | .rvbytes pt _ => c.point = some pt | _ => false) && w.due ≤ c.entered + 4 &&
    (s.core w.cid).region = some c.rid && (s.core w.cid).team = (s.core c.cid).team)

/-- The copies of a cycle in turn (R226): one that waits for its stream register keeps the bytes that are left
(R235). -/
def landAll (cl : Nat) : List Nat → Nat → State → State
  | [], _, s => s
  | id :: t, left, s =>
    match (s.cluster cl).copies.find? (fun r => r.cmd.id = id) with
    | none => landAll cl t left s
    | some run =>
      if run.waitPage.isSome then landAll cl t left (s.checkCopy run)
      else if s.announcing run.cmd then landAll cl t left s
      else
        let (s, run, left, e) := landCopy 129 s run left 0
        let s := s.modCluster cl (fun x => { x with copies := x.copies.map (fun r => if r.cmd.id = id then run else r) })
        match e with
        | .more => landAll cl t left s
        | .hold => landAll cl t 0 s
        | .done => landAll cl t left (s.endCopy run.cmd none)
        | .fail d a => landAll cl t left (s.endCopy run.cmd (some (d, a)))

/-- `COPY_BYTES_LAND` (R226). -/
def execCopyBytesLand (cl : Nat) (s : State) : Out' :=
  .next (
    let x := s.cluster cl
    match (x.copies.find? (fun r => x.copyRr < r.began)).orElse (fun _ => x.copies.head?) with
    | none => s
    | some start =>
      let later := x.copies.dropWhile (fun r => r.began ≠ start.began)
      let order := later ++ x.copies.takeWhile (fun r => r.began ≠ start.began)
      landAll cl (order.map (fun r => r.cmd.id)) 128 (s.setCluster cl { x with copyRr := start.began }))

/-- What waits for a place in its queue enters, as far as there is room: before anything that comes later (R226, R232, R336). -/
def Cluster.reenter (x : Cluster) : Cluster :=
  let copies := 32 - x.copyQ.length
  let ticks := 16 - x.tkQ.length
  let n := 16 - x.mxQ.length
  { x with copyQ := x.copyQ ++ x.copyBack.take copies, copyBack := x.copyBack.drop copies,
           tkQ := x.tkQ ++ x.tkBack.take ticks, tkBack := x.tkBack.drop ticks,
           ready := x.ready.drop n, mxQ := x.mxQ ++ x.ready.take n }

/-- `FOLLOW_ON_ENTER` (R232): the follow-on commands whose copies have landed, and commands of restored teams, enter the matrix
queue at its tail, oldest first, as far as it has room; the other queues take theirs likewise. -/
def execFollowOnEnter (cl : Nat) (s : State) : Out' := .next (s.modCluster cl Cluster.reenter)

end Sys2Proof.Machine
end

