-- ==== Sys2Proof/Machine/Matrix.lean ====
section
/-! DEFINITION. The matrix array (R236 to R245, R365): matrix multiplication by K-steps, drains, zeroing, the save area,
stopped commands, and the instructions `ACCRD`, `MXSAVE` and `MXLOAD`. -/

namespace Sys2Proof.Machine

/-- The rounding mode of a code of R57. -/
def rmOfCode : Nat → Rm
  | 1 => .rtz | 2 => .rdn | 3 => .rup | 4 => .rna | 5 => .sr | 6 => .rsat | _ => .rne

/-! ### Fields of a multiplication -/

/-- A multiplication as its words and sampled registers give it (R237, R238). -/
structure Mx where
  tile : Nat
  row0 : Nat
  m : Nat
  zero : Bool
  rm : Nat
  keep : Nat
  nk : Nat
  step0 : Nat
  stride : Nat
  aAddr : Nat
  fa : Nat
  aStrip : Nat
  fb : Nat
  maskOff : Nat
  bStrip : Nat
  bBase : Nat
  deriving DecidableEq, Repr

def State.mx (s : State) (c : Cmd) : Mx :=
  let w1 := c.word 1
  let w2 := c.word 2
  let sf := ((s.cluster c.cl).sf.getD (mxSf w1) 0).toNat
  let fmt := c.fmtAt c.cl (mxAddr w2)
  { tile := mxAcc w1, row0 := mxRow0 w1, m := mxM w1, zero := mxFlag w1, rm := mxRmCode w1, keep := mxKeep w1,
    nk := mxNk w1, step0 := mxStep0 w1, stride := mxStride w2, aAddr := mxAddr w2, fa := fmtCode fmt,
    aStrip := fmtStrip fmt, fb := sf / 2 ^ 60, maskOff := sf / 2 ^ 39 % 2 ^ 19, bStrip := sf / 2 ^ 20 % 2 ^ 19,
    bBase := sf % 2 ^ 19 }

/-- Bytes of a column slice (R188). -/
def sliceBytes : Nat := 393216

/-- Values of column n of the stack window: `w` bytes at offset o. -/
def State.bRead (s : State) (cl n o w : Nat) : Nat := s.read (stackBase s.host.pkgId cl + sliceBytes * n + o) w

/-- The scratch address of A(m, 144 s + i). -/
def Mx.aAt (x : Mx) (m k : Nat) : Nat := x.aAddr + (m * x.stride + k) * elemBytes x.fa

/-- A(m, K) as an exact value, scale included. -/
def State.aVal (s : State) (cl : Nat) (x : Mx) (m k : Nat) : FV :=
  let a := x.aAt m k
  let sc := a / 2 ^ 17 * 2 ^ 17 + x.aStrip + a % 2 ^ 17 / 48
  fmtValue x.fa (s.read (scratchKey cl a) (elemBytes x.fa)) (if x.fa = 4 then (s.byte (scratchKey cl sc)).toNat else 0)

/-- The ones of the first i bits of a mask. -/
def onesBelow (mask : Nat) (i : Nat) : Nat := ((List.range i).filter (fun j => mask / 2 ^ j % 2 = 1)).length

/-- The mask of group g of column n (R237). -/
def State.maskAt (s : State) (cl : Nat) (x : Mx) (g n : Nat) : Nat := s.bRead cl n (x.maskOff + 2 * g) 2

/-- B(K, n) where it is kept, as an exact value. -/
def State.bVal (s : State) (cl : Nat) (x : Mx) (k n : Nat) : Option FV :=
  let w := elemBytes x.fb
  let sc := if x.fb = 4 then s.bRead cl n (x.bStrip + k / 48) 1 else 0
  if x.keep = 0 then some (fmtValue x.fb (s.bRead cl n (x.bBase + k * w) w) sc)
  else
    let g := k / 12
    let mask := s.maskAt cl x g n
    if mask / 2 ^ (k % 12) % 2 = 1 then
      some (fmtValue x.fb (s.bRead cl n (x.bBase + (g * x.keep + onesBelow mask (k % 12)) * w) w) sc)
    else none

/-! ### Checks of a K-step (R239, R365) -/

/-- Byte ranges that step s reads in every slice: values, scales, masks. -/
def Mx.bRanges (x : Mx) (st : Nat) : List (Nat × Nat) :=
  let w := elemBytes x.fb
  let k := 144 * (x.step0 + st)
  let g := 12 * (x.step0 + st)
  [if x.keep = 0 then (x.bBase + k * w, 144 * w) else (x.bBase + g * x.keep * w, 12 * x.keep * w)] ++
  (if x.fb = 4 then [(x.bStrip + k / 48, 3)] else []) ++
  (if x.keep = 0 then [] else [(x.maskOff + 2 * g, 24)])

/-- Lines of the stack window that step s reads, as keys of their first bytes; base is the window's PA. -/
def Mx.bLines (x : Mx) (base st : Nat) : List Nat :=
  ((List.range 96).flatMap (fun n => (x.bRanges st).flatMap (fun (o, k) =>
    let lo := base + sliceBytes * n + o
    (List.range ((lo + k - 1) / 128 + 1 - lo / 128)).map (fun i => 128 * (lo / 128 + i))))).foldl NatSet.add []

/-- The matrix array reads its lines of B now: their paths are up and no pin holds them (R220). It reads the column slices
directly (R188), so that a copy that has begun does not keep it from bytes which the copy has not yet written (R216, R300). -/
def State.bClear (s : State) (c : Cmd) (x : Mx) (st : Nat) : Bool :=
  (x.bLines (stackBase s.host.pkgId c.cl) st).all (fun k => (s.pinOf (lineOf k)).isNone && s.pathUp c.cid k)

/-- Byte ranges of A that step s reads, as scratch addresses: a row's elements, and its scales. -/
def Mx.aRanges (x : Mx) (st : Nat) : List (Nat × Nat) :=
  (List.range x.m).flatMap (fun m =>
    let a := x.aAt m (144 * st)
    (a, 144 * elemBytes x.fa) ::
      (if x.fa = 4 then [(a / 2 ^ 17 * 2 ^ 17 + x.aStrip + a % 2 ^ 17 / 48, 3)] else []))

/-- The least number of a list, where it has one. -/
def least : List Nat → Option Nat
  | [] => none
  | a :: t => some (t.foldl min a)

/-- The first byte of a range at or beyond a bound. -/
def beyond (lim : Nat) (r : Nat × Nat) : Option Nat := if r.1 + r.2 ≤ lim then none else some (max r.1 lim)

/-- The least poisoned word of some ranges at a key base. It is named by its own address (log entry 142). -/
def State.poisonIn (s : State) (base : Nat) (rs : List (Nat × Nat)) : Option Nat :=
  if s.poison.isEmpty then none
  else least (rs.filterMap (fun (a, n) => (s.poisoned (base + a) n).map (fun k => k - base)))

/-- A mask is not one of N kept positions (R239). -/
def maskBad (keep mask : Nat) : Bool := mask / 2 ^ 12 ≠ 0 || onesBelow mask 12 ≠ keep

/-- The check of step st: its detail and address. -/
def State.stepCheck (s : State) (c : Cmd) (x : Mx) (st : Nat) : Check :=
  let cl := c.cl
  let a0 := x.aAt 0 (144 * st)
  let cap := x.aAddr / 2 ^ 17 * 2 ^ 17 + (if x.fa = 4 then x.aStrip else 2 ^ 17)
  let rowRange (m : Nat) : Nat × Nat := (x.aAt m (144 * st), 144 * elemBytes x.fa)
  let bOut := least ((x.bRanges st).filterMap (beyond sliceBytes))
  let masks := if x.keep = 0 then none
    else least ((List.range 96).flatMap (fun n => ((List.range 12).filter (fun j =>
      maskBad x.keep (s.maskAt cl x (12 * (x.step0 + st) + j) n))).map (fun j =>
        sliceBytes * n + x.maskOff + 2 * (12 * (x.step0 + st) + j))))
  let pa := s.poisonIn (scratchKey cl 0) (x.aRanges st)
  let pb := s.poisonIn (stackBase s.host.pkgId cl) ((List.range 96).flatMap (fun n =>
    (x.bRanges st).map (fun (o, k) => (sliceBytes * n + o, k))))
  (checkIf (s.engHolds c cl (bankOfSa x.aAddr)) 3 a0).and fun _ =>
  (match least ((List.range x.m).filterMap (fun m => beyond cap (rowRange m))) with
    | some a => Check.bad 4 a
    | none => .pass).and fun _ =>
  (checkIf (x.fa ≠ 4 || (x.aAddr % 2 ^ 17 % 48 = 0 && x.stride % 48 = 0)) 6 a0).and fun _ =>
  (match bOut with | some a => Check.bad 4 a | none => .pass).and fun _ =>
  (match masks with | some a => Check.bad 7 a | none => .pass).and fun _ =>
  (match pa with | some a => Check.bad 8 a | none => .pass).and fun _ =>
  (match pb with | some a => Check.bad 8 a | none => .pass)

/-! ### A K-step (R65, R66, R239) -/

/-- An int32 word. -/
def int32Of (w : BitVec 32) : Int := w.toInt

/-- The exact integer behind a value. -/
def FV.toInt : FV → Int
  | .num s m e => let v : Int := m * (2 : Int) ^ e.toNat; if s then -v else v
  | _ => 0

/-- The new word of row m, column n in step st. -/
def State.mxCell (s : State) (c : Cmd) (x : Mx) (st : Nat) (as : List FV) (m n : Nat) (old : BitVec 32) : BitVec 32 :=
  let cl := c.cl
  let first : Bool := x.zero && st = 0
  let ps := (as.zipIdx).filterMap (fun (a, i) => (s.bVal cl x (144 * (x.step0 + st) + i) n).map (fun b => (a, b)))
  if intFmt x.fa then
    let v := ps.foldl (fun acc p => acc + p.1.toInt * p.2.toInt) (if first then 0 else int32Of old)
    if x.rm = 6 then BitVec.ofInt 32 (max (-(2 ^ 31)) (min (2 ^ 31 - 1) v)) else BitVec.ofInt 32 v
  else
    let rm := rmOfCode x.rm
    BitVec.ofNat 32 (Fmt.fp32.finish rm (s.srgCmd c ((st * 256 + m) * 96 + n)) (nanPayload c.bundle.toNat n)
      (exactDot rm ps (some (if first then .num false 0 0 else Fmt.fp32.decode old.toNat))))

/-- Sets a row of a tile. -/
def setRow (acc : List (Nat × BitVec 32)) (tile row : Nat) (f : Nat → BitVec 32) : List (Nat × BitVec 32) :=
  (List.range 96).foldl (fun t n => Table.put 0 t (accKey tile row n) (f n)) acc

/-- Step st is applied: every row from the accumulators as they were. -/
def State.mxApply (s : State) (c : Cmd) (x : Mx) (st : Nat) : State :=
  s.modCluster c.cl (fun k => { k with acc := (List.range x.m).foldl (fun t m =>
    let as := (List.range 144).map (fun i => s.aVal c.cl x m (144 * st + i))
    setRow t x.tile (x.row0 + m) (fun n => s.mxCell c x st as m n (k.accWord x.tile (x.row0 + m) n))) k.acc })

/-- Cycles of a K-step (R240). -/
def Mx.cycles (x : Mx) : Nat :=
  let rows := if x.keep = 0 then x.m else (x.m * x.keep + 11) / 12
  let wide (f : Nat) : Bool := f = 2 || f = 3
  if wide x.fa || wide x.fb then 4 * rows else rows

/-! ### The array executes (R226, R236, R240) -/

/-- The entry that begins next: the first of the queue that is not held (R243, R334). -/
def Cluster.nextMx (c : Cluster) (s : State) : Option Cmd :=
  c.mxQ.find? (fun x => !x.waits && !(s.core x.cid).away)

/-- The record of the copy that a follow-on command follows has been posted (R232). -/
def State.copyPosted (s : State) (c : Cmd) : Bool :=
  !(s.core c.cid).compWait.any (fun w => w.engine = 0 && w.id + 1 = c.id)

/-- The array is free and its next entry is of a kind. -/
def canBeginMx (s : State) (cl : Nat) (p : Cmd → Bool) : Bool :=
  let x := s.cluster cl
  x.mxRun.isNone && (match x.nextMx s with | some c => p c && s.copyPosted c | none => false)

/-- The entry leaves the queue. -/
def State.takeMx (s : State) (cl : Nat) (c : Cmd) : State :=
  s.modCluster cl (fun x => { x with mxQ := x.mxQ.filter (fun y => y.id ≠ c.id) })

/-- The executing command ends. -/
def State.endMx (s : State) (c : Cmd) (fail : Option (Nat × Nat)) : State :=
  let s := (s.modCluster c.cl (fun x => { x with mxRun := none })).tallyEnd c.id
  match fail with
  | none => s.doneCmd 1 c
  | some (d, a) => s.failCmd 1 c d a

/-- The formats of a multiplication (2): the stack format, then the mix. -/
def mxFmtOk (x : Mx) : Bool :=
  let fl (f : Nat) : Bool := f = 2 || f = 3 || f = 4
  (fl x.fa && fl x.fb) || (intFmt x.fa && intFmt x.fb)

/-- A multiplication begins: formats are checked, and its first step ends after 24 cycles and the step's own. A
resumed one is no longer stopped. -/
def beginMma (s : State) (cl : Nat) : State :=
  match (s.cluster cl).nextMx s with
  | none => s
  | some c =>
    let x := s.mx c
    let s := s.takeMx cl c
    let s := if c.stopped then s.modCluster cl (fun k => { k with mxprog := 0 }) else s
    if !mxFmtOk x then s.failCmd 1 c 2 x.aAddr
    else if x.nk ≤ c.step then s.doneCmd 1 c
    else s.modCluster cl (fun k => { k with mxRun := some ⟨{ c with stopped := false }, c.step, s.cyc + 24 + x.cycles⟩ })

def execMxMma (cl : Nat) (s : State) : Out' :=
  .next (if canBeginMx s cl (fun c => c.code = 0x11) then beginMma s cl else s)
def execMxSpmma (cl : Nat) (s : State) : Out' :=
  .next (if canBeginMx s cl (fun c => c.code = 0x12) then beginMma s cl else s)

/-- The executing command is of a kind and its step or row is due. -/
def mxDue (s : State) (cl : Nat) (p : Cmd → Bool) : Bool :=
  match (s.cluster cl).mxRun with
  | some run => p run.cmd && run.nextAt ≤ s.cyc
  | none => false

/-- The value of `mxprog` for a stopped command (R243). -/
def mxprogWord (c : Cmd) (step : Nat) : Word := wrap64 (2 ^ 63 + step % 2 ^ 16 * 2 ^ 32 + c.token)

/-- A command stops part-way and waits at the head of the queue for its team (R243). -/
def stopMx (k : Cluster) (c : Cmd) (step : Nat) : Cluster :=
  { k with mxRun := none, mxprog := mxprogWord c step, mxQ := { c with stopped := true, step := step, waits := true } :: k.mxQ }

/-- One K-step of the executing command (R239, R243). -/
def kStep (s : State) (cl : Nat) : State :=
  match (s.cluster cl).mxRun with
  | none => s
  | some run =>
    let c := run.cmd
    let x := s.mx c
    if (s.displacedFor c cl (bankOfSa x.aAddr)).isSome || !s.bClear c x run.step then s
    else match s.stepCheck c x run.step with
    | .bad d a => s.endMx c (some (d, a))
    | _ =>
      let s := ((x.bLines (stackBase s.host.pkgId cl) run.step).foldl State.engSees s).mxApply c x run.step
      let n := run.step + 1
      if x.nk ≤ n then s.endMx c none
      else if (s.core c.cid).away then (s.modCluster cl (fun k => stopMx k c n)).arrayDone c.id
      else s.modCluster cl (fun k => { k with mxRun := some { run with step := n, nextAt := s.cyc + x.cycles } })

def isMma (c : Cmd) : Bool := c.code = 0x11 || c.code = 0x12

/-- A save stops a multiplication whose next step does not execute yet: in the cycles before its first step (R240, R243), or while
the step waits for the bank of a displaced team. -/
def State.stopsEarly (s : State) (cl : Nat) : Option MxRun :=
  ((s.cluster cl).mxRun).filter (fun run => isMma run.cmd && (s.core run.cmd.cid).away &&
    (decide (s.cyc + (s.mx run.cmd).cycles < run.nextAt) || (s.displacedFor run.cmd cl (bankOfSa (s.mx run.cmd).aAddr)).isSome))

def execMxKStep (cl : Nat) (s : State) : Out' :=
  .next (match s.stopsEarly cl with
    | some run => (s.modCluster cl (fun k => stopMx k run.cmd run.step)).arrayDone run.cmd.id
    | none => if mxDue s cl isMma then kStep s cl else s)

/-! ### MX.DRAIN and MX.ZERO (R241, R242) -/

/-- Bytes of a destination element of a drain: raw takes the 32-bit words. -/
def drainSize (fmt : Nat) : Nat := if fmt = 0 then 4 else elemBytes fmt

/-- The checks of a drain as it begins. -/
def State.drainCheck (s : State) (c : Cmd) : Check :=
  let w1 := c.word 1
  let w2 := c.word 2
  let a := mxAddr w2
  let fmt := c.fmtA
  let sz := drainSize fmt
  let last := a % 2 ^ 17 + ((mxM w1 - 1) * mxStride w2 + 96) * sz
  let cap := if fmt = 4 then fmtStrip (c.fmtAt c.cl a) else 2 ^ 17
  (checkIf (s.engHolds c c.cl (bankOfSa a)) 3 a).and fun _ =>
  (checkIf (decide (last ≤ cap)) 4 a).and fun _ =>
  checkIf (a % sz = 0 && (fmt ≠ 4 || (a % 2 ^ 17 % 48 = 0 && mxStride w2 % 48 = 0))) 6 a

/-- The writes of row m of a drain: scratch addresses, sizes and bits. -/
def State.drainRow (s : State) (c : Cmd) (m : Nat) : List (Nat × Nat × Nat) :=
  let w1 := c.word 1
  let w2 := c.word 2
  let a := mxAddr w2
  let fmt := c.fmtA
  let k := s.cluster c.cl
  let rm := if w1 / 2 ^ 40 % 2 = 1 then rmOfCode (mxRmCode w1) else rmOfCode (fmtRm (c.fmtAt c.cl a))
  let word (n : Nat) : BitVec 32 := k.accWord (mxAcc w1) (mxRow0 w1 + m) n
  let val (n : Nat) : FV := if w1 / 2 ^ 39 % 2 = 1 then intFV (int32Of (word n)) else Fmt.fp32.decode (word n).toNat
  let dst (n : Nat) : Nat := a + (m * mxStride w2 + n) * drainSize fmt
  if fmt = 0 then (List.range 96).map (fun n => (dst n, 4, (word n).toNat))
  else if fmt = 4 then
    (List.range 2).flatMap (fun h =>
      let ns := (List.range 48).map (48 * h + ·)
      let sc := blockScale (ns.map val)
      ns.map (fun n => (dst n, 1, blockCode sc rm (s.srgCmd c (m * 96 + n)) (val n))) ++
        [(a / 2 ^ 17 * 2 ^ 17 + fmtStrip (c.fmtAt c.cl a) + dst (48 * h) % 2 ^ 17 / 48, 1, sc)])
  else (List.range 96).map (fun n => (dst n, elemBytes fmt, fmtBits fmt rm (s.srgCmd c (m * 96 + n)) (val n)))

/-- A drain or a zeroing begins: 24 cycles come before its first row. -/
def beginRows (s : State) (cl : Nat) : State :=
  match (s.cluster cl).nextMx s with
  | none => s
  | some c =>
    let s := s.takeMx cl c
    let s := if c.code = 0x13 then s.tallyStart c else s
    let start (s : State) : State := s.modCluster cl (fun k => { k with mxRun := some ⟨c, 0, s.cyc + 25⟩ })
    if c.code = 0x13 then
      match s.drainCheck c with
      | .bad d a => s.endMx c (some (d, a))
      | _ => start s
    else start s

/-- The place of a drain's writes. -/
def drainEnd (c : Cmd) : CEnd := ⟨⟨1, 0, mxAddr (c.word 2)⟩, c.cl, c.fmtA, drainSize c.fmtA⟩

/-- The next row. -/
def nextRow (s : State) (cl : Nat) : State :=
  match (s.cluster cl).mxRun with
  | none => s
  | some run =>
    let c := run.cmd
    let w1 := c.word 1
    let zero (s : State) : State := s.modCluster cl (fun k => { k with acc := setRow k.acc (mxAcc w1) (mxRow0 w1 + run.step) (fun _ => 0) })
    let goOn (s : State) : State :=
      if mxM w1 ≤ run.step + 1 then s.endMx c none
      else s.modCluster cl (fun k => { k with mxRun := some { run with step := run.step + 1, nextAt := s.cyc + 1 } })
    if c.code = 0x14 then goOn (zero s)
    else match writeUnit ⟨c, 0, 0, [], none, 0⟩ (drainEnd c) [] (s.drainRow c run.step) s with
      | .error _ => s
      | .ok t =>
        let t := t.tallyLand c.id (96 * drainSize c.fmtA)
        goOn (if mxFlag w1 then zero t else t)

def isDrain (c : Cmd) : Bool := c.code = 0x13
def isZero (c : Cmd) : Bool := c.code = 0x14

def execMxDrain (cl : Nat) (s : State) : Out' :=
  .next (if canBeginMx s cl isDrain then beginRows s cl else if mxDue s cl isDrain then nextRow s cl else s)
def execMxZero (cl : Nat) (s : State) : Out' :=
  .next (if canBeginMx s cl isZero then beginRows s cl else if mxDue s cl isZero then nextRow s cl else s)

/-! ### The save area (R243, R244) -/

/-- An area entry of a direction. -/
def areaOf (load : Bool) (c : Cmd) : Bool := match c.area with | some (l, _) => l = load | none => false

/-- Bytes of the area, and its 32-bit word at offset 4 i. -/
def areaBytes : Nat := 397312
def areaWord (k : Cluster) (i : Nat) : Nat :=
  let stopped := k.mxQ.find? (fun c => c.stopped)
  if i < 2 then k.mxprog.toNat / 2 ^ (32 * i) % 2 ^ 32
  else if i < 8 then ((stopped.map (fun c => c.word (i / 2 - 1))).getD 0) / 2 ^ (32 * (i % 2)) % 2 ^ 32
  else if i < 1024 then 0
  else (k.accWord ((i - 1024) / 24576) ((i - 1024) % 24576 / 96) ((i - 1024) % 96)).toNat

/-- A line of the area. -/
def areaLine (k : Cluster) (j : Nat) : Nat := (List.range 32).foldr (fun i acc => areaWord k (32 * j + i) + 2 ^ 32 * acc) 0

/-- The team that left a cluster with the region's arrays. -/
def Region.arrayTeam (r : Region) (cl : Nat) : Option (Nat × Team) :=
  r.teams.find? (fun (_, t) => t.cl = cl && (match t.arrays with | some a => a.mx || a.tk | none => false))

/-- The region whose tables an area is translated by: the thread's, for a tinker the array's holder, or for an `MXLOAD` the region
whose array it restores (log entry 123). -/
def State.areaRegion (s : State) (c : Cmd) : Option Region :=
  if !isSup c.cid then s.region? c.rid
  else match (s.cluster c.cl).mxHolder with
    | some h => s.region? h
    | none =>
      let away (r : Region) : Bool := r.live && (r.arrayTeam c.cl).any (fun e => e.2.arrays.any (fun a => a.mx))
      if areaOf true c then (s.regions.map (fun e => e.2)).find? away else none

/-- Lines j on of the area are written; the first VA that cannot be. -/
def saveArea (r : Region) (c : Cmd) (va : Nat) : Nat → Nat → State → State × Option Nat
  | 0, _, s => (s, none)
  | n + 1, j, s =>
    match s.translate r (dieOf c.cid) (va + 128 * j) true false with
    | .pa pa _ _ => saveArea r c va n (j + 1)
        ((s.returnGrant (lineOf (s.fwd pa))).lineWrite engineCid false (s.fwd pa) 128 (areaLine (s.cluster c.cl) j))
    | _ => (s, some (va + 128 * j))

/-- An area's lines are read; the first that is missing or poisoned, with its detail. -/
def loadArea (s : State) (r : Region) (c : Cmd) (va : Nat) : Nat → Nat → Except (Nat × Nat) (List Nat)
  | 0, _ => .ok []
  | n + 1, j =>
    match s.translate r (dieOf c.cid) (va + 128 * j) false false with
    | .pa pa _ _ =>
      (match s.poisoned (s.fwd pa) 128 with
        | some w => .error (8, va + 128 * j + (w - s.fwd pa))
        | none => (loadArea s r c va n (j + 1)).map (fun l => s.read (s.fwd pa) 128 :: l))
    | _ => .error (5, va + 128 * j)

/-- An area instruction has been performed, or faulted (R244): it leaves `nmx` and posts no completion record; what a tinker's
meets goes to the event log (log entry 123). -/
def State.endArea (s : State) (c : Cmd) (fail : Option (Nat × Nat)) : State :=
  let s := (s.doneFor c.cid c.slot c.id).arrayDone c.id
  match fail with
  | none => s
  | some (d, a) =>
    if isSup c.cid then s.logEvent 1 (detailCode d) (wrap64 a) (wrap64 d)
    else s.writeRecord c.rid 1 (engRecord s (detailCode d) c.cid c.slot c.rid c.bundle a 0 d c.icnt c.now)

/-- No pin holds a line of the area, no copy has still to write it, and its path is up (R6, R220, R222). -/
def areaFree (s : State) (r : Region) (c : Cmd) (va : Nat) (write : Bool) : Bool :=
  (List.range (areaBytes / 128)).all (fun j =>
    match s.translate r (dieOf c.cid) (va + 128 * j) write false with
    | .pa pa _ _ => s.engClear c.cid (s.fwd pa) (fun _ => false)
    | _ => true) && (s.pathCut r (dieOf c.cid) va areaBytes).isNone

/-- The reads of an area recall its granted lines (R201, R222). -/
def State.areaSeen (s : State) (r : Region) (c : Cmd) (va : Nat) : State :=
  (List.range (areaBytes / 128)).foldl (fun s j =>
    match s.translate r (dieOf c.cid) (va + 128 * j) false false with
    | .pa pa _ _ => s.engSees (s.fwd pa)
    | _ => s) s

/-- `MXSAVE` is performed. -/
def doMxsave (s : State) (cl : Nat) : State :=
  match (s.cluster cl).nextMx s with
  | none => s
  | some c =>
    match c.area, s.areaRegion c with
    | some (_, va), some r =>
      if va % 4096 ≠ 0 then (s.takeMx cl c).endArea c (some (1, va))
      else if !areaFree s r c va true then s
      else
        let (s, bad) := saveArea r c va (areaBytes / 128) 0 (s.takeMx cl c)
        s.endArea c (bad.map (fun a => (5, a)))
    | some (_, va), none => (s.takeMx cl c).endArea c (some (10, va))
    | none, _ => (s.takeMx cl c).endArea c none

def execMxsaveExecute (cl : Nat) (s : State) : Out' :=
  .next (if canBeginMx s cl (areaOf false) then doMxsave s cl else s)

/-- The stopped command that an area holds, as a command of the `MXLOAD`'s thread; for a supervisor's, as the team that
saved it knows it. Its
slot, bundle address and icnt are the `MXLOAD`'s (log entry 137). -/
def State.loadedCmd (s : State) (c : Cmd) (ws : List Word) (step : Nat) : Cmd :=
  let mine : Cmd := { c with id := s.nextId, words := ws, area := none, step := step, stopped := true, waits := false }
  let mine := { mine with fmts := sampleFmts s mine }
  if isSup c.cid then
    let saved := ((s.areaRegion c).map (fun r => r.teams.filterMap (fun (_, t) => t.arrays.bind (·.stopped)))).getD []
    match saved.find? (fun x => x.token = mine.token) with
    | some x => { x with words := ws, step := step, stopped := true, waits := true }
    | none => { mine with waits := true }
  else mine

/-- The area is valid (R244). -/
def areaValid (s : State) (c : Cmd) (lines : List Nat) : Bool :=
  let l0 := lines.headD 0
  let prog := l0 % 2 ^ 64
  let ws := (List.range 3).map (fun i => wrap64 (l0 / 2 ^ (64 * (i + 1)) % 2 ^ 64))
  let cmd := s.loadedCmd c ws (prog / 2 ^ 32 % 2 ^ 16)
  l0 / 2 ^ 256 = 0 && ((lines.take 32).drop 1).all (· = 0) && prog / 2 ^ 48 % 2 ^ 15 = 0 &&
  (if prog / 2 ^ 63 = 1 then
    isMma cmd && !hdrBad (cmd.word 0) && !hdrFollow (cmd.word 0) && !hdrSetFull (cmd.word 0) && !s.mxWordsBad cmd &&
      cmd.token = prog % 2 ^ 32 && prog / 2 ^ 32 % 2 ^ 16 ≤ mxNk (cmd.word 1)
   else ws.all (· = 0))

/-- The accumulators as an area holds them. -/
def areaAcc (lines : List Nat) : List (Nat × BitVec 32) :=
  ((lines.drop 32).zipIdx).foldl (fun t (l, j) => (List.range 32).foldl (fun t i =>
    Table.put 0 t (32 * j + i) (BitVec.ofNat 32 (l / 2 ^ (32 * i)))) t) []

/-- A supervisor's `MXLOAD` has placed the stopped command of a token: its team's restore places it no more (R243). -/
def Region.takenOver (r : Region) (token : Nat) : Region :=
  let drop (a : SavedArrays) : SavedArrays := { a with stopped := a.stopped.filter (fun x => decide (x.token ≠ token)) }
  { r with teams := r.teams.map (fun e => (e.1, { e.2 with arrays := e.2.arrays.map drop })) }

/-- A supervisor's `MXLOAD` restores the array of a region that is displaced from it: the region holds it again, and its team's
restore sets it no more. -/
def State.restoreHolder (s : State) (r : Region) (cl : Nat) : State :=
  let s := s.modCluster cl (fun k => { k with mxHolder := some r.id, sf := (List.range 8).map (fun i => wrap64 (r.field (35 + i))) })
  match r.arrayTeam cl with
  | some (n, _) => s.modTeam r.id n (fun t => { t with arrays := t.arrays.map (fun a => { a with mx := false }) })
  | none => s

/-- `MXLOAD` is performed: the whole area is read before anything changes. -/
def doMxload (s : State) (cl : Nat) : State :=
  match (s.cluster cl).nextMx s with
  | none => s
  | some c =>
    match c.area, s.areaRegion c with
    | some (_, va), some r =>
      if va % 4096 ≠ 0 then (s.takeMx cl c).endArea c (some (1, va))
      else if !areaFree s r c va false then s
      else
        let s := (s.takeMx cl c).areaSeen r c va
        match loadArea s r c va (areaBytes / 128) 0 with
        | .error (d, a) => s.endArea c (some (d, a))
        | .ok lines =>
          if !areaValid s c lines then s.endArea c (some (11, va))
          else
            let l0 := lines.headD 0
            let prog := l0 % 2 ^ 64
            let ws := (List.range 3).map (fun i => wrap64 (l0 / 2 ^ (64 * (i + 1)) % 2 ^ 64))
            let cmd := s.loadedCmd c ws (prog / 2 ^ 32 % 2 ^ 16)
            let stopped : Bool := prog / 2 ^ 63 = 1
            let s := { s with nextId := s.nextId + 1 }
            let s := if stopped && isSup c.cid then s.modRegion r.id (fun r => r.takenOver cmd.token) else s
            let s := if (s.cluster cl).mxHolder.isNone then s.restoreHolder r cl else s
            let s := s.modCluster cl (fun k => { k with acc := areaAcc lines, mxprog := wrap64 prog
                                                        mxQ := if stopped then cmd :: k.mxQ else k.mxQ })
            let s := if stopped && !isSup c.cid then s.histEnter c.cid 1 cmd.id cmd.token else s
            s.endArea c none
    | some (_, va), none => (s.takeMx cl c).endArea c (some (10, va))
    | none, _ => (s.takeMx cl c).endArea c none

def execMxloadExecute (cl : Nat) (s : State) : Out' :=
  .next (if canBeginMx s cl (areaOf true) then doMxload s cl else s)

/-! ### The instructions -/

/-- `MXSAVE` and `MXLOAD` (R244): the entry is made at write-back; a full queue parks the bundle. -/
def effArea (load : Bool) (a : Reg) (s : State) : Res :=
  if (s.holdsMx s.bun.cid s.rid || isSup s.bun.cid) && !s.engRoom s.myCl 29 then .park 2
  else
    let id := s.nextId
    .ok ((({ s with nextId := id + 1 }).modMe (fun t => t.addOut id .mx)).wb (.mxarea load (s.src a).toNat id))

def execMxsave (a : Reg) (s : State) : Out' := run (.mxsave a) s (effArea false a)
def execMxload (a : Reg) (s : State) : Out' := run (.mxload a) s (effArea true a)

/-- The entry of an area instruction (R244): a thread of another region faults. -/
def State.enterArea (s : State) (cid slot : Nat) (bundle : Word) (icnt : Nat) (load : Bool) (va id : Nat) : State :=
  let c : Cmd := { s.mkCmd cid slot bundle icnt [] [] with id := id, area := some (load, va), fmts := [] }
  if s.holdsMx cid c.rid || isSup cid then s.modCluster (clOf cid) (fun k => k.addMx c)
  else s.endArea c (some (10, va))

/-- `ACCRD` (R245). -/
def execAccrd (d b : Reg) (t : Fin 4) (s : State) : Out' :=
  run (.accrd d b t) s (fun s =>
    let v := s.src b
    let n := v.toNat
    if !s.holdsMx s.bun.cid s.rid then .fault (flt5 fIllegalOperand 0)
    else if 2 ^ 16 ≤ n || 95 < n % 256 then .fault (refused v)
    else
      .ok (s.addReq (s.arrayReq (.accrd t.val (n / 256) (n % 256)) d.val (s.cluster s.myCl).mxIds)))

/-! ### mxprog (R243) -/

/-- The write takes effect: the command is cancelled, or its step is set. -/
def State.writeMxprog (s : State) (cl : Nat) (v : Word) : State :=
  match (s.cluster cl).waiting with
  | none => s
  | some c =>
    if v.toNat / 2 ^ 63 = 0 then
      ((s.takeMx cl c).modCluster cl (fun k => { k with mxprog := 0 })).failCmd 1 c 13 0
    else s.modCluster cl (fun k => { k with mxprog := v, mxQ := k.mxQ.map (fun x =>
      if x.id = c.id then { x with step := v.toNat / 2 ^ 32 % 2 ^ 16 } else x) })

end Sys2Proof.Machine
end

