-- ==== Sys2Proof/Machine/Tick.lean ====
section
/-! DEFINITION. The tick array (R265 to R276): its instructions, the entries of its queue, races and notes. -/

namespace Sys2Proof.Machine

/-! ### Races (R267) -/

/-- The ticks at which column j's connected cells rise, 255 for an input that never rises. -/
def Cluster.column (k : Cluster) (a : Nat → Nat) (j : Nat) : List (Option Nat) :=
  ((List.range 64).filter (fun i => k.cell i j ≠ 255)).map (fun i => if a i = 255 then none else some (a i + k.cell i j))

/-- Output j of a race. -/
def Cluster.race (k : Cluster) (andMode : Bool) (a : Nat → Nat) (j : Nat) : Nat :=
  let c := k.column a j
  if andMode then
    if c.isEmpty || c.any (fun x => match x with | none => true | some t => decide (k.win ≤ t)) then 255
    else (c.filterMap id).foldl max 0
  else ((c.filterMap id).filter (fun t => decide (t < k.win))).foldl min 255

/-- All outputs, as the table that State keeps. -/
def outTable (o : Nat → Nat) : List (Nat × Byte) :=
  (List.range 64).foldl (fun t j => Table.put 255 t j (BitVec.ofNat 8 (o j))) []

/-! ### Execution of entries (R268, R270, R274) -/

/-- Cycles that an entry occupies the array. -/
def tickCycles (win : Nat) : TkOp → Nat
  | .win _ => 1
  | .reset => 1
  | .note _ => 1
  | .load _ _ n => 8 + n
  | .launch _ _ => 8 + (win + 3) / 4 + 2
  | .raced _ _ => 8 + (win + 3) / 4 + 2
  | .capt _ => 8

/-- An entry as the command that the holding and displacement tests know, numbered as it entered its queue (R118). -/
def TkEntry.cmd (e : TkEntry) : Cmd :=
  { id := e.mark, cid := e.cid, slot := e.slot, rid := e.rid, bundle := e.bundle, icnt := e.icnt, now := e.now, words := [],
    entered := 0, fmts := [], follow := [], followId := 0, followBundle := 0, followIcnt := 0, stream := none, step := 0, stopped := false, waits := false,
    area := none }

/-- The scratch bytes an entry reads, or writes. -/
def TkOp.bytes : TkOp → Option (Nat × Nat)
  | .load a _ n => some (a, 64 * n)
  | .launch a _ => some (a, 64)
  | .capt a => some (a, 64)
  | _ => none

/-- The entry faults (R270): bank no longer held, or a poisoned byte read. -/
def tickFault (s : State) (e : TkEntry) : Option (Nat × Nat) :=
  match e.op.bytes with
  | none => none
  | some (a, n) =>
    if !s.engHolds e.cmd (clOf e.cid) (bankOfSa a) then some (3, a)
    else match e.op with
      | .capt _ => none
      | _ => (s.poisoned (scratchKey (clOf e.cid) a) n).map (fun k => (8, k - scratchKey (clOf e.cid) 0))

/-- The bytes that a `TKCAPT` writes: the outputs (R270). -/
def State.captBytes (s : State) (e : TkEntry) : Nat := (List.range 64).foldr (fun j acc => (s.cluster (clOf e.cid)).outTick j + 256 * acc) 0

/-- They are appended to the log of a displaced team; none while that is full (R335). -/
def State.captLog (s : State) (e : TkEntry) (a t : Nat) : Option State :=
  s.logAppend e.rid t (.write (clOf e.cid) a 64 (s.captBytes e) 0 e.cid true)

/-- A `TKCAPT` that is refused: the log of its bank's displaced team takes nothing (R335). -/
def State.captRefused (s : State) (e : TkEntry) : Bool :=
  match e.op with
  | .capt a => (match s.displacedFor e.cmd (clOf e.cid) (bankOfSa a) with
    | some t => (s.captLog e a t).isNone
    | none => false)
  | _ => false

/-- The entry has to wait for its team's bank (R335). -/
def tickWaits (s : State) (e : TkEntry) : Bool :=
  match e.op.bytes, e.op with
  | none, _ => false
  | some _, .capt _ => s.captRefused e
  | some (a, _), _ => (s.displacedFor e.cmd (clOf e.cid) (bankOfSa a)).isSome

/-- A raw write of 64 bytes (R270): no histogram counts. -/
def State.captWrite (s : State) (e : TkEntry) (a : Nat) : State :=
  let cl := clOf e.cid
  match s.displacedFor e.cmd cl (bankOfSa a) with
  | some t => (s.captLog e a t).getD s
  | none =>
    let k := scratchKey cl a
    let s := s.write k 64 (s.captBytes e)
    ({ s with poison := cleanPoison s.poison k 64 }).stepBank (bankKey cl (bankOfSa a))

/-- The effect of an entry on the array and on scratch. -/
def tickEffect (s : State) (e : TkEntry) : State :=
  let cl := clOf e.cid
  let mem (a i : Nat) : Byte := s.byte (scratchKey cl (a + i))
  match e.op with
  | .win w => s.modCluster cl (fun k => { k with win := w })
  | .load a f n =>
    let set (t : List (Nat × Byte)) (i : Nat) : List (Nat × Byte) := Table.put 255 t (64 * f + i) (mem a i)
    s.modCluster cl (fun k => { k with cells := (List.range (64 * n)).foldl set k.cells })
  | .launch a m => s.modCluster cl (fun k => { k with outs := outTable (k.race m (fun i => (mem a i).toNat)), andMode := m })
  | .raced o m => s.modCluster cl (fun k => { k with outs := o, andMode := m })
  | .capt a => s.captWrite e a
  | .reset => s.modCluster cl (fun k => { k with outs := [] })
  | .note _ => s

/-- An entry ends: performed, or with a fault; a note posts its record (R270, R271, R274). -/
def State.endTick (s : State) (e : TkEntry) (fail : Option (Nat × Nat)) : State :=
  let s := (s.modCluster (clOf e.cid) (fun k => { k with tkRun := none })).arrayDone e.id
  match e.op with
  | .note token => s.finishCmd e.cid ⟨e.id, e.slot, 2, false, token, []⟩ e.rid
  | _ =>
    let s := s.doneFor e.cid e.slot e.id
    match fail with
    | none => s
    | some (d, a) => s.writeRecord e.rid 1 (engRecord s (detailCode d) e.cid e.slot e.rid e.bundle a 0 d e.icnt e.now)

def isNote : TkOp → Bool
  | .note _ => true
  | _ => false

/-- The entry that executes next. -/
def tickHead (s : State) (cl : Nat) : Option TkEntry :=
  ((s.cluster cl).tkQ.find? (fun e => !(s.core e.cid).away)).filter (fun e => !tickWaits s e)

/-- A step of the tick queue for notes, or for the other entries: one may begin, or is performed. -/
def canTick (s : State) (cl : Nat) (note : Bool) : Bool :=
  match (s.cluster cl).tkRun with
  | some (e, t) => isNote e.op = note && t ≤ s.cyc
  | none => match tickHead s cl with
    | some e => isNote e.op = note
    | none => false

/-- The step: an entry leaves the queue as it begins, and counts no more among its entries (R273, log entry 143). A race reads its
inputs as it starts, a `TKLOAD` reads and a `TKCAPT` writes its bytes at the end (R270, log entry 144); a `TKCAPT` that is refused
there is tried again 64 cycles later (R335). -/
def tickStep (s : State) (cl : Nat) : State :=
  match (s.cluster cl).tkRun with
  | some (e, _) =>
    match tickFault s e with
    | some f => s.endTick e (some f)
    | none =>
      if s.captRefused e then s.modCluster cl (fun k => { k with tkRun := some (e, s.cyc + Config.resendCycles) })
      else (tickEffect s e).endTick e none
  | none =>
    match tickHead s cl with
    | none => s
    | some e =>
      let s := s.modCluster cl (fun k => { k with tkQ := k.tkQ.filter (fun x => x.id ≠ e.id) })
      match tickFault s e with
      | some f => s.endTick e (some f)
      | none =>
        let k := s.cluster cl
        let op : TkOp := match e.op with
          | .launch a m => .raced (outTable (k.race m (fun i => (s.byte (scratchKey cl (a + i))).toNat))) m
          | op => op
        s.setCluster cl { k with tkRun := some ({ e with op := op }, s.cyc + tickCycles k.win e.op) }

def execTickNote (cl : Nat) (s : State) : Out' := .next (if canTick s cl true then tickStep s cl else s)
def execTickEntryExecute (cl : Nat) (s : State) : Out' := .next (if canTick s cl false then tickStep s cl else s)

/-! ### Instructions (R269 to R273) -/

/-- A tick address (R270): 8-aligned, its bytes in one bank held by the region. -/
def State.tickAddr (s : State) (v : Word) (n : Nat) : Bool :=
  let a := v.toNat
  a < scratchBytes && a % 8 = 0 && a % 2 ^ 17 + n ≤ 2 ^ 17 && s.bankOk s.rid s.myCl (bankOfSa a)

/-- A tick command (R265, R271): only in the region that holds the array; a full queue parks; a refused value faults. -/
def effTick (op : TkOp) (bad : Option Word) (s : State) : Res :=
  if !s.holdsTk s.bun.cid s.rid then .fault (flt5 fIllegalOperand 0)
  else if !s.engRoom s.myCl 30 then .park 2
  else match bad with
    | some v => .fault (refused v)
    | none =>
      let id := s.nextId
      .ok ((({ s with nextId := id + 1 }).modMe (fun t => t.addOut id .mx)).wb (.tick op id))

def refuseIf (b : Bool) (v : Word) : Option Word := if b then some v else none

def effTkwin (a : Reg) (s : State) : Res :=
  let v := s.src a
  effTick (.win v.toNat) (refuseIf (v.toNat < 1 || 255 < v.toNat) v) s
def execTkwin (a : Reg) (s : State) : Out' := run (.tkwin a) s (effTkwin a)

def effTkload (a b : Reg) (s : State) : Res :=
  let va := s.src a
  let vb := s.src b
  let f := vb.toNat % 64
  let n := vb.toNat / 2 ^ 8 % 128
  let badB : Bool := vb.toNat / 64 % 4 ≠ 0 || vb.toNat / 2 ^ 15 ≠ 0 || n < 1 || 64 < f + n
  effTick (.load va.toNat f n) ((refuseIf badB vb).orElse fun _ => refuseIf (!s.tickAddr va (64 * n)) va) s
def execTkload (a b : Reg) (s : State) : Out' := run (.tkload a b) s (effTkload a b)

def effTklaunch (m : Bool) (a : Reg) (s : State) : Res :=
  let v := s.src a
  effTick (.launch v.toNat m) (refuseIf (!s.tickAddr v 64) v) s
def execTklaunch (a : Reg) (s : State) : Out' := run (.tklaunch a) s (effTklaunch false a)
def execTklaunchAnd (a : Reg) (s : State) : Out' := run (.tklaunchAnd a) s (effTklaunch true a)

def effTkcapt (a : Reg) (s : State) : Res :=
  let v := s.src a
  effTick (.capt v.toNat) (refuseIf (!s.tickAddr v 64) v) s
def execTkcapt (a : Reg) (s : State) : Out' := run (.tkcapt a) s (effTkcapt a)

def effTkreset (s : State) : Res := effTick .reset none s
def execTkreset (s : State) : Out' := run .tkreset s effTkreset

/-- Tick entries that a `TKFIRST` of the thread in progress comes behind (R272): those of the array, and the thread's own commands
on their way to it, held in the port behind an acquire (R217) among them. -/
def State.tickIds (s : State) : List Nat :=
  let mine (cid slot : Nat) : Bool := cid = s.bun.cid && slot = s.bun.slot
  (s.cluster s.myCl).tkIds ++
  s.wbs.filterMap (fun w => if mine w.cid w.slot then (match w.act with | .tick _ id => some id | _ => none) else none) ++
  s.reqs.filterMap (fun r => if mine r.cid r.slot then (match r.op with | .tickCmd _ id => some id | _ => none) else none)

/-- `TKFIRST` (R272). -/
def execTkfirst (d b : Reg) (s : State) : Out' :=
  run (.tkfirst d b) s (fun s =>
    let v := s.src b
    if !s.holdsTk s.bun.cid s.rid then .fault (flt5 fIllegalOperand 0)
    else if v.toNat < 1 || 8 < v.toNat then .fault (refused v)
    else
      .ok (s.addReq (s.arrayReq (.tkfirst v.toNat) d.val s.tickIds)))

/-- The word of `TKSTAT` (R273). -/
def Cluster.tkstat (k : Cluster) : Nat :=
  (if k.andMode then 2 ^ 40 else 0) + k.win * 2 ^ 32 + k.rises.length * 2 ^ 24 + k.tkQ.length * 2 ^ 16 +
    (if k.tkRun.isSome then 1 else 0)

def execTkstat (d : Reg) (s : State) : Out' :=
  run (.tkstat d) s (fun s =>
    if !s.holdsTk s.bun.cid s.rid then .fault (flt5 fIllegalOperand 0)
    else .ok (s.writeD d.val (wrap64 (s.cluster s.myCl).tkstat)))

/-- A tick command's entry is made at its write-back. -/
def State.enterTick (s : State) (cid slot : Nat) (bundle : Word) (icnt : Nat) (op : TkOp) (id : Nat) : State :=
  let e : TkEntry := ⟨id, s.nextId, cid, slot, ((s.core cid).region).getD 0, bundle, icnt, s.nowOf cid slot, op⟩
  ({ s with nextId := s.nextId + 1 } : State).modCluster (clOf cid) (fun k => k.addTick e)

end Sys2Proof.Machine
end

