-- ==== Sys2Proof/Machine/Place.lean ====
section
/-! DEFINITION. Placing teams and ending regions (R17, R71, R80, R114, R282 to R284, R286, R287, R331): the start of tile
tasks, the release of cores, retirement, the end and the stop of a region. -/

namespace Sys2Proof.Machine

/-! ### The head of the launch queues (R282, R332, R343) -/

/-- The team is not held by the host (R343). -/
def Region.unheld (r : Region) (t : Nat) : Bool := match r.hold with | some j => t < j | none => true

/-- A region's first team that waits and is not held. -/
def Region.nextTeam (r : Region) : Option Nat :=
  (r.teams.find? (fun (t, x) => x.st = .waiting && r.unheld t)).map (·.1)

/-- Before in the order of placement. -/
def Region.before (a b : Region) : Bool := b.prio < a.prio || (a.prio = b.prio && a.order < b.order)

def firstRegion : List Region → Option Region
  | [] => none
  | a :: t => match firstRegion t with
    | none => some a
    | some b => if b.before a then some b else some a

/-- Live regions that are not being stopped. -/
def State.going (s : State) : List Region := (s.regions.map (·.2)).filter (fun r => r.live && !r.stopDue)

/-- The head: its region and team. -/
def State.head (s : State) : Option (Region × Nat) :=
  (firstRegion (s.going.filter (fun r => r.nextTeam.isSome))).bind (fun r => r.nextTeam.map (fun t => (r, t)))

/-- A displaced team that waits to be restored, of a priority at or above p, comes first (R332). -/
def State.restoreFirst (s : State) (p : Nat) : Bool :=
  s.going.any (fun r => p ≤ r.prio && r.teams.any (fun (t, x) => (x.st = .displaced || x.st = .saving) && r.unheld t))

/-- The owned part of the stack window (R189). -/
def Region.stackPart (r : Region) : Nat × Nat :=
  if r.field 22 = 0 then (0, if r.field 1 = 1 then stackBytes else 0) else (65536 * r.field 23, 65536 * r.field 22)

/-- Regions with a team placed on a cluster, or displaced from it. -/
def State.claims (s : State) (cl : Nat) : List Region :=
  (s.regions.map (·.2)).filter (fun r => r.live &&
    ((s.placedCores r.id cl).length ≠ 0 ||
      r.teams.any (fun (_, t) => t.cl = cl && (t.st = .placed || t.st = .saving || t.st = .displaced))))

/-- Two owned parts overlap. -/
def stackMeet (a b : Nat × Nat) : Bool := a.1 < b.1 + b.2 && b.1 < a.1 + a.2 && 0 < a.2 && 0 < b.2

/-- Free cores of a cluster, lowest first. -/
def State.freeCores (s : State) (cl : Nat) : List Nat :=
  if (s.cluster cl).resetAt.isSome then [] else ((List.range 16).map (32 * cl + ·)).filter (fun c => (s.core c).region.isNone)

/-- The cores that a team would take on a cluster; none where it does not fit (R282). -/
def State.teamCores (s : State) (r : Region) (cl : Nat) : Option (List Nat) :=
  let cs := (s.freeCores cl).take r.coresPerTeam
  let pool := (cs.filter (fun c => (s.bank (bankKey cl (32 + coreOf c))).role = .free)).length
  let clash := (s.claims cl).any (fun q => q.id ≠ r.id && stackMeet q.stackPart r.stackPart)
  if cl < 576 && cs.length = r.coresPerTeam && r.field 14 ≤ pool && !clash then some cs else none

/-! ### Data images (R17) -/

/-- A segment's destination for a byte offset: where an image's bytes go. -/
inductive ImgSpot where
  | key (k : Nat) | bank (cl sa : Nat) | fail (detail va : Nat) | page (va : Nat) | skip | wait

/-- An image's byte at a line: it waits while a pin, an engine or a path that is down stands in its way (R6, R220, R222). -/
def State.imgKey (s : State) (cid k : Nat) : ImgSpot := if s.engClear cid k (fun _ => false) then .key k else .wait

def State.imgSpot (s : State) (r : Region) (cid : Nat) (g : SegReg) (off : Nat) : ImgSpot :=
  let a := g.base.toNat + off
  match s.space cid g with
  | .global => (match s.translate r (dieOf cid) a true false with
      | .pa pa _ _ => s.imgKey cid (s.fwd pa)
      | .missing => if (r.pagerFor a).isSome then .page a else .fail 0 a
      | .denied d => .fail d a)
  | .scratch => let sa := a % 2 ^ 23
    if s.bankHeld r.id (clOf cid) (bankOfSa sa) then .bank (clOf cid) sa else .skip
  | .remote => let cl := remoteCl s.host.pkgId g.base.toNat
    if !s.bankHeld r.id cl (bankOfSa (a % 2 ^ 23)) then .skip
    else if s.clustersLinked (clOf cid) cl then .bank cl (a % 2 ^ 23) else .wait
  | .stack => s.imgKey cid (stackBase s.host.pkgId (clOf cid) + a)
  | .none => .skip

/-- How the writing of an image goes: to its end, to a failure with its detail and VA, to a page that a pager is to fill, or
to a line that is to come free, with the offset it goes on at. -/
inductive ImgEnd where
  | done | fail (detail va : Nat) | page (va off : Nat) | wait (off : Nat)

/-- `n` bytes of an image from source VA `va` on go to offset `off` of a segment on, in ascending order. A byte's source is
tested before its destination; it waits for a line that it may not read yet (R6, R220, R222), and a poisoned one cannot be read
(R341, log entry 120). Bytes for a bank that the region
does not hold go nowhere (log entry 86). -/
def writeImage (r : Region) (cid : Nat) (g : SegReg) : Nat → Nat → Nat → Nat → State → State × ImgEnd
  | 0, _, _, _, s => (s, .done)
  | fuel + 1, off, va, n, s =>
    if n = 0 then (s, .done)
    else
      -- the bytes of one doubleword of the segment that lie in one doubleword of the source
      let k := min (min n (8 - (g.base.toNat + off) % 8)) (8 - va % 8)
      let next (s : State) : State × ImgEnd := writeImage r cid g fuel (off + k) (va + k) (n - k) s
      if !s.rangeClear r (dieOf cid) va k then (s, .wait off)
      else match s.cleanVa r (dieOf cid) va k with
      | none => (s, .fail 7 va)
      | some v =>
        let s := s.vaSeen r (dieOf cid) va k
        match s.imgSpot r cid g off with
        | .fail d x => (s, .fail d x)
        | .page x => (s, .page x off)
        | .wait => (s, .wait off)
        | .skip => next s
        | .key q => next ((s.returnGrant (lineOf q)).lineWrite engineCid false q k v)
        | .bank cl sa => next (s.scratchWrite cl sa k v)

/-- The segment a load table gives a core (R284). -/
def State.imgSeg (s : State) (r : Region) (cid n : Nat) : SegReg := Table.get SegReg.zero (loadSegs s r cid).1 n

/-- The table's home is the block that was launched: its other entries apply (R284, R299). Home is a VA, and a root region
is launched by the PA of its block: its home is a VA that the region's tables map to that block (log entry 87). -/
def State.imgHome (s : State) (r : Region) : Bool :=
  let home := s.imgDw r 0 0
  r.field 43 ≠ 0 && (if r.root then
      (match s.translate r 0 home false false with
        | .pa pa _ _ => s.fwd pa = s.fwd r.blockPa
        | _ => false)
    else home = r.block)

/-- Data entries of the load table: segment, VA, bytes. -/
def State.dataEntries (s : State) (r : Region) : List (Nat × Nat × Nat) :=
  if !s.imgHome r then []
  else
    let h := s.imgDw r 0 1
    (List.range (nData h)).map (fun i => (s.imgDw r 0 (dataAt h + 3 * i), s.imgDw r 0 (dataAt h + 3 * i + 1), s.imgDw r 0 (dataAt h + 3 * i + 2)))

/-- Images from the j-th on, the first from an offset on: where it ends, and for a page the image's number. -/
def writeImages (r : Region) (cid : Nat) : List (Nat × Nat × Nat) → Nat → Nat → State → State × Nat × ImgEnd
  | [], j, _, s => (s, j, .done)
  | (n, va, len) :: t, j, off, s =>
    match writeImage r cid (s.imgSeg r cid n) (len + 1) off (va + off) (len - off) s with
    | (s, .done) => writeImages r cid t (j + 1) 0 s
    | (s, e) => (s, j, e)

/-! ### The task header, formats, channels and handlers (R283, R284, R302) -/

/-- The eight doublewords of a task header; `grown` is the word of a `TGROW`. -/
def taskHeader (r : Region) (c : Core) (grown : Nat) : List Nat :=
  let rec' := Table.find r.records c.team
  let w (i : Nat) : Nat := (rec'.map (fun l => (l.getD i 0).toNat)).getD 0
  [r.block,
   if r.kind = .tournament then c.entrant + r.nTeams * 2 ^ 32 else c.team + r.nTeams * 2 ^ 32,
   c.pos,
   w 1,
   if rec'.isSome then w 2 else r.field 31,
   if rec'.isSome then w 3 else r.field 32,
   r.id,
   grown]

def State.writeHeader (s : State) (r : Region) (cid grown : Nat) : State :=
  let a := 0x40000 * coreOf cid + 0x3FFC0
  ((taskHeader r (s.core cid) grown).zipIdx).foldl (fun s (v, i) => s.scratchWrite (clOf cid) (a + 8 * i) 8 v) s

/-- Bank entries set format registers (R16), rounding sr too where feature 3 is not accepted (log entry 121); a bank that the
region does not hold is left alone. -/
def State.imgFormats (s : State) (r : Region) (cid : Nat) : State :=
  if !s.imgHome r then s
  else
    let h := s.imgDw r 0 1
    (List.range (nBank h)).foldl (fun s i =>
      let b := s.imgDw r 0 (bankAt h + 2 * i)
      let b := if b = 62 then 2 * coreOf cid else if b = 63 then 2 * coreOf cid + 1 else b
      if s.bankHeld r.id (clOf cid) b then
        s.modBank (bankKey (clOf cid) b) (fun x => { x with fmt := wrap64 (s.imgDw r 0 (bankAt h + 2 * i + 1)) })
      else s) s

/-- Feature 0 is not accepted (R41). -/
def State.noChannels (s : State) : Bool := s.host.featAccept.toNat % 2 = 0

/-- Channel entries declare ends as `CHDECL` would, handler entries bind them as `HDLSET` would: the first fault. -/
def State.imgChannels (s : State) (r : Region) (cid : Nat) : State × Option Flt :=
  if !s.imgHome r then (s, none)
  else
    let h := s.imgDw r 0 1
    let chans := (List.range (nChan h)).foldl (fun (acc : State × Option Flt) i =>
      if acc.2.isSome then acc
      else
        let s := acc.1
        let e := s.imgDw r 0 (chanAt h + 3 * i)
        if s.noChannels then (s, some (fltAt fFeatureAbsent 0))
        else if r.kind ≠ .event then (s, some notHere)
        else match s.declareEnd cid r (wrap64 (s.imgDw r 0 (chanAt h + 3 * i + 1))) (wrap64 (s.imgDw r 0 (chanAt h + 3 * i + 2)))
            (e / 16 % 2 = 1) (e % 16) with
          | .error f => (s, some f)
          | .ok s => (s, none)) (s, none)
    (List.range (nHdl h)).foldl (fun (acc : State × Option Flt) i =>
      if acc.2.isSome then acc
      else
        let s := acc.1
        if s.noChannels then (s, some (fltAt fFeatureAbsent 0))
        else match (s.core cid).inEnd? (s.imgDw r 0 (hdlAt h + 2 * i) % 16) with
        | some e => if e.closed then (s, some notHere)
            else (s.setIn cid (s.imgDw r 0 (hdlAt h + 2 * i) % 16) { e with handler := wrap64 (s.imgDw r 0 (hdlAt h + 2 * i + 1)) }, none)
        | none => (s, some notHere)) chans

/-! ### Tile tasks -/

/-- The entry of a region's tile tasks. -/
def Region.entry (r : Region) : Word := wrap64 (r.field 7 + r.field 8)

/-- The foreman starts in slot 0 (R80, R98). In a tournament it is held until round 0 begins (R301). -/
def State.startForeman (s : State) (r : Region) (cid : Nat) : State :=
  (s.modCore cid (fun c => { c with attached := r.kind = .event, tileNow := 0, foremanGone := false, tileDone := false })).startThread
    cid 0 r.entry (fun t => { t with notBefore := s.cyc + 1 })

/-- What every start of a tile task does once its images are written (R283, R284, R313): header, formats, foreman, channels,
handlers. A poisoned table and a channel or handler entry that faults leave the foreman stopped; the record shows the entry
address and an `icnt` of 0 (log entries 88, 120). -/
def State.beginTask (s : State) (r : Region) (cid grown : Nat) : State :=
  let s := s.writeHeader r cid grown
  match s.imgBad r (dieOf cid) (if s.imgHome r then tableEnd (s.imgDw r (dieOf cid) 1) else 0) with
  | some f => (s.startForeman r cid).stopStarted cid 0 f r.entry
  | none =>
    let s := (s.imgFormats r cid).startForeman r cid
    if (s.thread cid 0).state ≠ .ready then s
    else match s.imgChannels r cid with
      | (s, some f) => s.stopStarted cid 0 f r.entry
      | (s, none) => s

/-- A tile task of a placed core starts (R17, R283). An image page that a pager is to fill makes its upcall, with its bit again
while it is held (R194), and the start waits, as it does for the lines of the load table. A failure leaves the foreman stopped, and nothing else of the table applies
(log entries 88, 122). -/
def State.startTask (s : State) (r : Region) (cid : Nat) : State :=
  match (s.core cid).starting with
  | none => s
  | some (j, off) =>
    if !s.tableClear r (dieOf cid) then s else
    let s := s.tableSeen r (dieOf cid) (s.tableBytes r (dieOf cid))
    let going (o : Option (Nat × Nat)) (s : State) : State := s.modCore cid (fun c => { c with starting := o })
    match writeImages r cid ((s.dataEntries r).drop j) j off s with
    | (s, j, .page va off) =>
      (going (some (j, off)) s).upcall r.id (va / 65536) 4
    | (s, j, .wait off) => going (some (j, off)) s
    | (s, _, .fail d va) => ((going none s).startForeman r cid).stopStarted cid 0 (pageDenied d va) r.entry
    | (s, _, .done) => (going none s).beginTask r cid 0

/-- The start of a placed core's tile task goes on (R17). -/
def taskStart (cid : Nat) (s : State) : State :=
  match s.regionOf cid with
  | some r => if r.live && !(s.core cid).away then s.startTask r cid else s
  | none => s

/-! ### Placement (R282) -/

/-- Arrays of a cluster are allotted to the first region placed there that requests them (R236, R237, R265). -/
def Cluster.allot (k : Cluster) (r : Region) : Cluster :=
  let k := if r.field 1 = 1 && k.mxHolder.isNone then
      { k with mxHolder := some r.id, acc := [], mxprog := 0, mxQ := [], mxRun := none
               sf := (List.range 8).map (fun i => wrap64 (r.field (35 + i))) } else k
  let k := if r.field 0 = 1 && k.tkHolder.isNone then
      { k with tkHolder := some r.id, cells := [], win := 255, outs := [], andMode := false, tkQ := [], tkBack := [], tkRun := none } else k
  if k.limits.any (fun l => l.rid = r.id) then k else { k with limits := k.limits ++ [⟨r.id, 0, 16, 16⟩] }

/-- A fused L1 where the region asks for it and holds all sixteen cores (R116). -/
def State.setFused (s : State) (r : Region) (cl : Nat) : State :=
  s.modCluster cl (fun k => { k with fused := r.field 2 = 1 && (s.placedCores r.id cl).length = 16 })

/-- A core is allotted (R71, R80, R114): its registers zero, its home banks clear. -/
def State.allotCore (s : State) (r : Region) (team pos cid : Nat) : State :=
  let s := (List.range 16).foldl (fun s k => s.setThread cid k Thread.fresh) s
  let s := (s.clearBank (clOf cid) (2 * coreOf cid)).clearBank (clOf cid) (2 * coreOf cid + 1)
  s.setCore cid { Core.fresh with region := some r.id, team := team, pos := pos, entrant := if r.kind = .tournament then team else 0,
                                  seed := wrap64 (r.field 10), attached := r.kind = .event, starting := some (0, 0) }

/-- A region's state follows its teams (R332): 3 while every unretired team is displaced, else 2 once placed. -/
def Region.stateNow (r : Region) : Nat :=
  let un := r.teams.filter (fun (_, t) => t.st ≠ .retired)
  if !un.isEmpty && un.all (fun (_, t) => t.st = .displaced) then 3 else 2

def State.updateState (s : State) (rid : Nat) : State :=
  (s.modRegion rid (fun r => if r.live then { r with state := r.stateNow } else r)).syncStatus rid

/-- The cores of a team are allotted on a cluster. -/
def State.allotTeam (s : State) (r : Region) (team cl : Nat) (cs : List Nat) : State :=
  let s := (cs.zipIdx).foldl (fun s (c, i) => s.allotCore r team i c) s
  let s := (s.modCluster cl (fun k => k.allot r)).setFused r cl
  s.modTeam r.id team (fun t => { t with st := .placed, cl := cl, cores := cs })

/-- Round 0 begins once the last team is placed (R301). -/
def State.roundStart (s : State) (rid : Nat) : State :=
  match s.region? rid with
  | some r =>
    if r.kind = .tournament && !r.roundOn && r.teams.all (fun (_, t) => t.st = .placed) then
      (s.tiles rid).foldl (fun s c => s.modThread c 0 (fun t => { t with notBefore := s.cyc + 1 }))
        (s.setRegion rid { r with roundOn := true })
    else s
  | none => s

def canPlace (s : State) (cl : Nat) : Bool :=
  match s.head with
  | some (r, _) => !s.restoreFirst r.prio && (s.teamCores r cl).isSome
  | none => false

/-- The head team is placed on a cluster, and its tile tasks start. -/
def placeTeam (s : State) (cl : Nat) : State :=
  match s.head with
  | none => s
  | some (r, team) => match s.teamCores r cl with
    | none => s
    | some cs =>
      let s := ((s.allotTeam r team cl cs).updateState r.id).service cl 1
      let s := cs.foldl (fun s c => s.startTask r c) s
      s.roundStart r.id

/-- `TEAM_PLACEMENT` (R282). -/
def execTeamPlacement (cl : Nat) (s : State) : Out' := .next (if canPlace s cl then placeTeam s cl else s)

/-! ### Releasing cores (R71, R76, R80, R114, R236, R265) -/

/-- The bank is on its way from the cache to a region (R117). -/
def Role.coming : Role → Bool
  | .leaving _ (some _) => true
  | .clearing (some _) => true
  | .leaving _ none => false
  | .clearing none => false
  | .home => false
  | .free => false
  | .cache => false
  | .alloc _ => false
  | .closing _ => false

/-- A `BANKALLOC` waits only for banks still on their way, and returns with the last of them (R117). -/
def State.allotDone (s : State) : State :=
  let served (r : Req) : Req := match r.op with
    | .bankalloc m =>
      if r.stage = .sent then
        let left := maskOf ((List.range 16).filter (fun j => m / 2 ^ j % 2 = 1 && (s.bank (bankKey r.cl (32 + j))).role.coming))
        { r with op := .bankalloc left, stage := if left = 0 then .served else .sent }
      else r
    | _ => r
  { s with reqs := s.reqs.map served }

/-- A pool bank attached to a core goes back, free and clear: granted lines return first, parked requests are refused
(R115). -/
def State.freePool (s : State) (cl j : Nat) : State :=
  let bk := bankKey cl (32 + j)
  let s := (s.refusePark bk).pinsLeave bk
  match (s.bank bk).role with
  | .clearing _ => s.modBank bk (fun b => { b with role := .clearing none })
  | _ =>
    let s := (s.bank bk).lines.foldl (fun s l => s.stepBack l) s
    (s.clearBank cl (32 + j)).setBank bk { Bank.fresh .free with apply := (s.bank bk).apply }

/-- Arrays whose region has left the cluster return to their allotment values. -/
def Cluster.leave (k : Cluster) (rid : Nat) : Cluster :=
  let k := if k.mxHolder = some rid then { k with mxHolder := none, acc := [], mxQ := [], mxRun := none, mxprog := 0, ready := [],
                                                   sf := Cluster.fresh.sf } else k
  let k := if k.tkHolder = some rid then { k with tkHolder := none, cells := [], win := 255, outs := [], andMode := false, tkQ := [], tkBack := [],
                                                   tkRun := none } else k
  { k with limits := k.limits.filter (fun l => l.rid ≠ rid), tlb := k.tlb.filter (fun e => e.rid ≠ rid),
           shadow := k.shadow.filter (fun e => e.1 ≠ rid), fused := false }

/-- What belongs to a core besides itself: slots, pending write-backs, pins, pager registrations, home banks, whose parked
requests are refused (R115). -/
def State.clearCore (s : State) (cid : Nat) : State :=
  let cl := clOf cid
  let s := (s.refusePark (bankKey cl (2 * coreOf cid))).refusePark (bankKey cl (2 * coreOf cid + 1))
  let s := match (s.core cid).region with
    | some rid => s.endRegs rid (fun p => p.cid = cid)
    | none => s
  let s := (s.modCore cid (fun c => { c with pins := c.pins.map (fun p => { p with holders := [] }) })).unpin cid
  let s := (List.range 16).foldl (fun s k => s.setThread cid k Thread.fresh) s
  let mine (r : Req) : Bool := r.cid = cid && !r.op.writes
  let s := { s with wbs := s.wbs.filter (fun w => w.cid ≠ cid), reqs := s.reqs.filter (fun r => !mine r) }
  (s.clearBank cl (2 * coreOf cid)).clearBank cl (2 * coreOf cid + 1)

/-- The pairs of a core that is released are closed (R171): each sends its close flit. -/
def State.closePairs (s : State) (cid : Nat) : State :=
  { s with closeFlits := s.closeFlits ++ (s.core cid).streamTab.map (fun e => (cid, e.stream, e.dest)) }

/-- Lines of a fused L1 leave when the cluster runs private again (R116). Pinned lines stay (log entry 135). -/
def State.unfuse (s : State) (cl : Nat) : State :=
  if !(s.cluster cl).fused then s
  else (List.range 16).foldl (fun s j =>
    let bk := bankKey cl (32 + j)
    let out := (s.bank bk).lines.filter (fun l => !s.isPinned l.line)
    (out.foldl (fun s l => s.stepBack l) s).modBank bk (fun b => { b with lines := b.lines.filter (fun l => s.isPinned l.line) }))
    (s.modCluster cl (fun k => { k with fused := false }))

/-- A core is released from its region. -/
def State.releaseCore (s : State) (cid : Nat) : State :=
  match (s.core cid).region with
  | none => s
  | some rid =>
    let cl := clOf cid
    let s := ((s.closePairs cid).clearCore cid).unfuse cl
    let s := (s.freePool cl (coreOf cid)).allotDone.setCore cid Core.fresh
    if (s.placedCores rid cl).isEmpty then s.modCluster cl (fun k => k.leave rid) else s

/-! ### Retirement (R287) -/

/-- Nothing that the threads of a core issued is outstanding: write-backs, requests, engine commands, arrivals, records. -/
def State.coreQuiet (s : State) (cid : Nat) : Bool :=
  let k := s.cluster (clOf cid)
  !s.wbs.any (fun w => w.cid = cid) && !s.reqs.any (fun r => r.cid = cid) && !s.arrivals.any (fun a => a.cid = cid) &&
  !s.regions.any (fun (_, r) => r.late.any (fun l => l.cid = cid)) && !s.tallies.any (fun t => t.cmd.cid = cid) &&
  !(k.copyQ ++ k.copyBack ++ k.ready ++ k.mxQ ++ k.copies.map (·.cmd) ++ k.mxRun.toList.map (·.cmd)).any (fun c => c.cid = cid) &&
  !(k.tkQ ++ k.tkBack ++ k.tkRun.toList.map (·.1)).any (fun e => e.cid = cid)

/-- Every tile task of a team has finished, no thread runs on its cores, and its writes are performed. -/
def State.teamDone (s : State) (t : Team) : Bool :=
  t.cores.all (fun c => ((s.core c).tileDone || (s.core c).held) && s.coreQuiet c &&
    (List.range 16).all (fun k => (s.thread c k).state = .empty))

/-- Sets a team's bit in the retirement bitmap. -/
def State.setRetired (s : State) (r : Region) (team : Nat) : State :=
  if r.field 25 = 0 then s
  else match s.translate r 0 (r.field 25 + team / 8) true false with
    | .pa pa _ _ => s.homeMerge (s.fwd pa) 1 255 (2 ^ (team % 8))
    | _ => s

/-- A team retires: its bit is set as a release, then it is counted. -/
def State.retire (s : State) (rid team : Nat) : State :=
  match s.region? rid with
  | none => s
  | some r =>
    let s := s.setRetired r team
    let s := s.modRegion rid (fun r => { r with retired := r.retired + 1 })
    (s.modTeam rid team (fun t => { t with st := .retired })).updateState rid

/-- A core takes the next entry of its own deque before its team retires: it lies first in its order of R295, and takes nothing
but the wait for its attempt (log entry 46). -/
def State.resumes (s : State) (r : Region) (cid : Nat) : Bool :=
  r.kind = .forkjoin && !r.det && (s.core cid).stealable && r.frames.length < r.field 34 && (s.handlerSlot cid false).isSome

def canRetire (s : State) (rid team : Nat) : Bool :=
  match s.region? rid with
  | none => false
  | some r => match Table.find r.teams team with
    | none => false
    | some t => r.live && !r.stopDue && t.st = .placed && s.teamDone t && !t.cores.any (s.resumes r) && (r.kind = .event || !r.det || r.finalSweep) &&
        t.cores.all (fun c => s.pinsFree (bankKey (clOf c) (32 + coreOf c)) t.cores) &&
        (r.kind ≠ .tournament || r.field 29 ≤ r.round)

/-- The deque of a core that is released stays in its region while it holds entries (R287, R295). -/
def State.leaveDeque (s : State) (rid cid : Nat) : State :=
  let c := s.core cid
  if c.deque.isEmpty then s
  else s.modRegion rid (fun r => { r with left := r.left ++
    [(cid, { Core.fresh with team := c.team, pos := c.pos, deque := c.deque, spilled := c.spilled, dequeFrozen := c.dequeFrozen })] })

/-- `TEAM_RETIRE` (R287): the cores of a grid or forkjoin team are released. -/
def execTeamRetire (rid team : Nat) (s : State) : Out' :=
  .next (if canRetire s rid team then
    match s.team? rid team, s.region? rid with
    | some t, some r =>
      let s := s.retire rid team
      if r.kind = .grid || r.kind = .forkjoin then
        t.cores.foldl (fun s c => (s.leaveDeque rid c).releaseCore c) s
      else s
    | _, _ => s
  else s)

/-! ### The end of a region (R287, R309) -/

/-- The winner field of the block, written before the state (R309). -/
def State.writeWinner (s : State) (r : Region) (w : Nat) : State :=
  if r.kind ≠ .tournament then s
  else
    let pa := s.fwd (r.blockPa + 128)
    s.homeMerge pa 8 (2 ^ 64 - 1 - 0xFF * 2 ^ 40) (w % 2 ^ 8 * 2 ^ 40)

/-- The notice of a root region's end (R351). -/
def endNotice (rid : Nat) : Word := wrap64 (2 ^ 62 + 3 * 2 ^ 60 + rid % 2 ^ 16 * 2 ^ 16)

/-- The region is over with state 4 or 5: its last records, winner and state are written, what the slices still hold of it is
discarded (R321), its cores are released; notice of a root. -/
def State.finishRegion (s : State) (rid st : Nat) : State :=
  match s.region? rid with
  | none => s
  | some r =>
    let s := (s.flushLate rid (fun _ => true)).writeWinner r (if st = 4 then r.winner else 0xFF)
    let s := { s with slices := s.slices.map (fun (e : Nat × Slice) => (e.1, { e.2 with held := e.2.held.filter (fun a => a.rid ≠ rid) })) }
    let s := s.modRegion rid (fun r => { r with state := st, stopDue := false, pagers := [], upcalls := [], left := [] })
    let s := s.syncStatus rid
    let s := (s.tiles rid).foldl (fun s c => s.releaseCore c) s
    if r.root then s.ringNotice (endNotice rid) else s

def canEnd (s : State) (rid : Nat) : Bool :=
  match s.region? rid with
  | none => false
  | some r =>
    let all := r.teams.all (fun (_, t) => t.st = .retired)
    r.live && !r.stopDue &&
    (match r.kind with
      | .grid => all
      | .event => all && r.finalSweep && !s.afaddsOut rid
      | .forkjoin => all && r.left.isEmpty && r.frames.all (fun (_, f) => f.saved.isNone) && (s.tiles rid).all (fun c =>
          (s.core c).deque.isEmpty && s.coreQuiet c && (List.range 16).all (fun k => (s.thread c k).state = .empty))
      | .tournament => r.roundOn && r.field 29 ≤ r.round && all && (s.tiles rid).all (fun c =>
          ((s.core c).tileDone || (s.core c).held) && s.coreQuiet c))

/-- `REGION_END` (R287). -/
def execRegionEnd (rid : Nat) (s : State) : Out' := .next (if canEnd s rid then s.finishRegion rid 4 else s)

/-! ### Stopping a region (R286, R331) -/

/-- `REGION_ALLOWANCE_END` (R286): the record names the thread that reached the limit, and the region is to stop. -/
def canAllowanceStop (s : State) (rid : Nat) : Bool :=
  match s.region? rid with | some r => r.live && r.totalHit.isSome && !r.stopDue | none => false

/-- A region-stop record of a code naming a thread. -/
def State.stopRecord (s : State) (rid code kind cid slot : Nat) (w2 w5 : Word) : State :=
  let t := s.thread cid slot
  s.writeRecord rid kind (mkRecord code kind cid slot s.host.pkgId rid (s.core cid).team t.lastBundle w2 0 w5 t.icnt (s.nowOf cid slot))

def execRegionAllowanceEnd (rid : Nat) (s : State) : Out' :=
  .next (if canAllowanceStop s rid then
    match (s.region? rid).bind (·.totalHit) with
    | some (cid, slot) =>
      (s.stopRecord rid fAllowanceEnd 4 cid slot 0 (Config.openWord5 fAllowanceEnd)).modRegion rid (fun r => { r with stopDue := true, totalHit := none })
    | none => s
  else s)

/-- Queued commands of a region are discarded without records; an executing multiplication stops (R331). -/
def Cluster.dropCmds (k : Cluster) (rid : Nat) : Cluster :=
  { k with copyQ := k.copyQ.filter (fun c => c.rid ≠ rid), copyBack := k.copyBack.filter (fun c => c.rid ≠ rid), ready := k.ready.filter (fun c => c.rid ≠ rid)
           mxQ := k.mxQ.filter (fun c => c.rid ≠ rid), tkQ := k.tkQ.filter (fun e => e.rid ≠ rid)
           tkBack := k.tkBack.filter (fun e => e.rid ≠ rid)
           mxRun := k.mxRun.filter (fun r => r.cmd.rid ≠ rid) }

/-- Executing copies and tick entries complete before the cores go (R331). -/
def State.enginesBusy (s : State) (rid : Nat) : Bool :=
  s.clusters.any (fun (_, k) => k.copies.any (fun r => r.cmd.rid = rid && r.waitPage.isNone) || k.tkRun.any (fun r => r.1.rid = rid))

/-- Displaced teams are discarded with their images (R331). -/
def Team.discarded (t : Team) : Team :=
  if t.st = .displaced then { t with saved := [], arrays := none, log := [], longWait := none } else t

/-- The pairs that an image holds open are closed with it (log entry 119). -/
def Team.openPairs (t : Team) : List (Nat × Nat × Nat) :=
  if t.st = .displaced then t.saved.flatMap (fun sv => sv.core.streamTab.map (fun e => (sv.cid, e.stream, e.dest))) else []

/-- Steps 1 to 5 of R331, and the end of displaced teams. -/
def State.stopWork (s : State) (rid : Nat) : State :=
  let left := ((s.region? rid).map (fun r => r.teams.flatMap (fun e => e.2.openPairs))).getD []
  let s := s.modRegion rid (fun r => { r with teams := r.teams.map (fun e => (e.1, e.2.discarded)) })
  let s := { s with closeFlits := s.closeFlits ++ left }
  let s := (s.tiles rid).foldl (fun s c => (List.range 16).foldl (fun s k =>
    if (s.thread c k).state = .empty then s else endThread s c k .empty) s) s
  let s := { s with clusters := s.clusters.map (fun (e : Nat × Cluster) => (e.1, e.2.dropCmds rid))
                    slices := s.slices.map (fun (e : Nat × Slice) => (e.1, { e.2 with held := e.2.held.filter (fun a => a.rid ≠ rid) }))
                    arrivals := s.arrivals.filter (fun a => a.rid ≠ rid) }
  let waiting := s.clusters.flatMap (fun (_, k) => (k.copies.filter (fun r => r.cmd.rid = rid && r.waitPage.isSome)).map (·.cmd))
  let s := waiting.foldl (fun s c => (s.modCluster c.cl (fun k => { k with copies := k.copies.filter (fun r => r.cmd.id ≠ c.id) }))) s
  (s.tiles rid).foldl (fun s c =>
    let s := (s.core c).outEnds.foldl (fun s (i, _) => s.closeOut c i) s
    (s.core c).inEnds.foldl (fun s (i, _) => s.closeIn c i) s) s

/-- No team of the region is part-way through a save (R352). -/
def canStop (s : State) (rid : Nat) : Bool :=
  match s.region? rid with | some r => r.live && r.stopDue && !r.teams.any (fun (_, t) => t.st = .saving) | none => false

/-- Writes of ended threads that are still to be performed, stores of pairs that are still to be acknowledged, and pins they
held (R171, R331): the release that writes state 5 waits for them. -/
def State.writesOut (s : State) (rid : Nat) : Bool :=
  s.reqs.any (fun r => r.rid = rid && ((r.op.writes && !r.stage.performed) || r.seqn.isSome)) || (s.tiles rid).any (fun c => !(s.core c).pins.isEmpty)

/-- `REGION_STOP` (R331): threads end, commands are discarded, displaced teams with their images; once executing copies
and tick entries have completed and every write is performed, state 5 is written and the cores are released. -/
def stopRegion (s : State) (rid : Nat) : State :=
  let s := s.stopWork rid
  if s.enginesBusy rid || s.writesOut rid then s
  else
    let s := { s with tallies := s.tallies.filter (fun t => t.cmd.rid ≠ rid), reqs := s.reqs.filter (fun r => !(r.rid = rid && !r.op.writes)) }
    s.finishRegion rid 5

def execRegionStop (rid : Nat) (s : State) : Out' := .next (if canStop s rid then stopRegion s rid else s)

end Sys2Proof.Machine
end

