-- ==== Sys2Proof/Machine/Tournament.lean ====
section
/-! DEFINITION. Tournaments (R301 to R314): the four instructions and the round barrier. -/

namespace Sys2Proof.Machine

/-- The instruction issues in a tournament region (R310). -/
def State.tourneyHere (s : State) : Option Region := (s.regionOf s.bun.cid).filter (fun r => r.kind = .tournament)

/-- `TSCORE` (R311). -/
def execTscore (a : Reg) (s : State) : Out' :=
  run (.tscore a) s (fun s => match s.tourneyHere with
    | none => .fault notHere
    | some _ => .ok (s.wb (.tscore (s.src a))))

/-- `TROUND` (R312). -/
def execTround (s : State) : Out' :=
  run .tround s (fun s => match s.tourneyHere with
    | none => .fault notHere
    | some _ => .ok (s.wb .tround))

/-- `TGROW` (R313). -/
def execTgrow (d : Reg) (s : State) : Out' :=
  run (.tgrow d) s (fun s => match s.tourneyHere with
    | none => .fault notHere
    | some _ => .ok (s.wb (.tgrow d.val)))

/-- `TRANK` (R314). -/
def execTrank (d b : Reg) (s : State) : Out' :=
  run (.trank d b) s (fun s => match s.tourneyHere with
    | none => .fault notHere
    | some r => if r.nTeams ≤ (s.src b).toNat then .fault (refused (s.src b)) else .ok (s.wb (.trank d.val (s.src b).toNat)))

/-! ### Write-back of the four (R311 to R314) -/

def Region.entrant (r : Region) (e : Nat) : Entrant := (Table.find r.entrants e).getD Entrant.fresh
def Region.modEntrant (r : Region) (e : Nat) (f : Entrant → Entrant) : Region :=
  { r with entrants := Table.set r.entrants e (f (r.entrant e)) }

/-- `TSCORE` at write-back: after the last barrier only the score changes. -/
def State.scoreBack (s : State) (cid : Nat) (v : Word) : State :=
  match s.regionOf cid with
  | none => s
  | some r => s.setRegion r.id (r.modEntrant (s.core cid).entrant (fun e =>
      { e with score := v, scored := e.scored || r.round < r.field 29 }))

/-- `TROUND` at write-back: the entrant's round is over and the issuing thread parks at the barrier. -/
def State.roundBack (s : State) (cid slot : Nat) : State :=
  match s.entrantOf cid with
  | none => s
  | some (rid, e, _) =>
    let s := s.modRegion rid (fun r => r.modEntrant e (fun x => { x with roundOver := true }))
    if (s.thread cid slot).state = .ready then parkBarrier s cid slot else s

/-- Cores of an entrant. -/
def State.entrantCores (s : State) (rid e : Nat) : List Nat := (s.tiles rid).filter (fun c => (s.core c).entrant = e)

/-- The descriptor of `TGROW`, as it stands (R313). -/
def State.growWord (s : State) (r : Region) (e : Nat) : Nat :=
  let x := r.entrant e
  r.round % 2 ^ 8 * 2 ^ 50 + x.source % 2 ^ 8 * 2 ^ 42 + (s.entrantCores r.id e).length % 2 ^ 10 * 2 ^ 32 + x.growths % 2 ^ 5

/-- `TGROW` at write-back: held cores of the entrant start, with all that a tile task's start applies but data images (R16,
R17, R284); the word for its destination. -/
def State.growBack (s : State) (cid : Nat) : State × Word :=
  match s.regionOf cid with
  | none => (s, 0)
  | some r =>
    let e := (s.core cid).entrant
    let w := s.growWord r e
    let held := (s.entrantCores r.id e).filter (fun c => (s.core c).held)
    if held.isEmpty then (s, wrap64 w)
    else
      (held.foldl (fun s c =>
        let s := s.modCore c (fun x => { x with held := false })
        s.beginTask r c (w + 2 ^ 63)) s, wrap64 (w + 2 ^ 63))

/-- The standing that `TRANK` writes (R314). -/
def Region.standing (r : Region) (e : Nat) : Word :=
  let x := r.entrant e
  wrap64 ((if x.live then 2 ^ 63 else 0) + (if x.scored then 2 ^ 62 else 0) + x.ranked % 2 ^ 8 * 2 ^ 48 + x.rank % 2 ^ 8)

/-! ### Ranking (R306) -/

/-- A score as two's complement. -/
def signedScore (v : Word) : Int := v.toInt

/-- Entrant a ranks before entrant b. -/
def ranksBefore (lower : Bool) (a b : Nat × Entrant) : Bool :=
  if a.2.scored ≠ b.2.scored then a.2.scored
  else if a.2.scored && a.2.score ≠ b.2.score then
    (if lower then signedScore a.2.score < signedScore b.2.score else signedScore b.2.score < signedScore a.2.score)
  else a.1 < b.1

def rankInsert (lower : Bool) (a : Nat × Entrant) : List (Nat × Entrant) → List (Nat × Entrant)
  | [] => [a]
  | b :: t => if ranksBefore lower a b then a :: b :: t else b :: rankInsert lower a t

/-- The live entrants in rank order. -/
def Region.ranking (r : Region) : List Nat :=
  ((r.entrants.filter (fun e => e.2.live)).foldl (fun acc e => rankInsert (r.field 28 = 1) e acc) []).map (·.1)

/-! ### The barrier (R305, R307, R308) -/

/-- A thread that has ended its round. -/
def Thread.roundEnded (t : Thread) : Bool :=
  (match t.state with
    | .empty => true
    | .exited => true
    | .stopped => true
    | .parked => t.barrier
    | .ready => false
    | .dropped => false) && t.outs.isEmpty

/-- Nothing of a core holds a round barrier back (R304, R305): its bundles have written back, and what its threads' counters count
is complete. A `PREF`, `FESET` or `FECLR` counts in no class (R103). -/
def State.roundQuiet (s : State) (cid : Nat) : Bool :=
  let k := s.cluster (clOf cid)
  !s.wbs.any (fun w => w.cid = cid) &&
  !s.reqs.any (fun r => r.cid = cid && r.op ≠ .pref && r.op ≠ .feset && r.op ≠ .feclr) &&
  !(k.copyQ ++ k.copyBack ++ k.ready ++ k.mxQ ++ k.copies.map (·.cmd) ++ k.mxRun.toList.map (·.cmd)).any (fun c => c.cid = cid) &&
  !(k.tkQ ++ k.tkBack ++ k.tkRun.toList.map (·.1)).any (fun e => e.cid = cid)

/-- A core's tile task has still to start: one of a live entrant has not ended its round (log entry 145). -/
def Core.unstarted (c : Core) : Bool := c.starting.isSome && !c.held

/-- Every live entrant has ended its round and everything that counts is complete, in a round whose threads have resumed; no save or
displacement of the region is under way (R305, R333). -/
def canBarrier (s : State) (rid : Nat) : Bool :=
  match s.region? rid with
  | none => false
  | some r =>
    r.live && !r.stopDue && r.kind = .tournament && r.roundOn && !r.wakeDue && r.round < r.field 29 &&
    !r.teams.any (fun (_, t) => t.st = .saving || t.st = .displaced) &&
    (s.tiles rid).all (fun c => s.roundQuiet c && !(s.core c).unstarted && (List.range 16).all (fun k => (s.thread c k).roundEnded))

/-- A killed entrant's core, with its home and pool banks, is cleared and held for a survivor (R307). -/
def State.passCore (s : State) (r : Region) (cid survivor : Nat) : State :=
  let cl := clOf cid
  let bk := bankKey cl (32 + coreOf cid)
  let c := s.core cid
  let s := (s.closePairs cid).clearCore cid
  let s := ((s.bank bk).lines.foldl (fun s l => s.stepBack l) s).modBank bk (fun b => { b with lines := [] })
  let s := match (s.bank bk).role with
    | .alloc _ => s.clearBank cl (32 + coreOf cid)
    | .cache => s.clearBank cl (32 + coreOf cid)
    | _ => s
  s.setCore cid { Core.fresh with region := some r.id, team := c.team, pos := c.pos, entrant := survivor, held := true,
                                  seed := wrap64 (r.field 10) }

/-- The end of a killed entrant: its threads end, its cores pass on or are released, its team retires. -/
def State.killEntrant (s : State) (r : Region) (dead survivor : Nat) (last : Bool) : State :=
  let cores := s.entrantCores r.id dead
  let s := cores.foldl (fun s c => (List.range 16).foldl (fun s k =>
    if (s.thread c k).state = .empty then s else endThread s c k .empty) s) s
  let s := cores.foldl (fun s c => if last then s.releaseCore c else s.passCore r c survivor) s
  s.retire r.id dead

/-- The entrant segment doubles (R308). -/
def SegReg.doubled (g : SegReg) : SegReg := ⟨g.base, wrap64 (g.lr.toNat / 2 ^ 52 * 2 ^ 52 + 2 * (g.lr.toNat % 2 ^ 52) % 2 ^ 52)⟩

def Thread.grown (t : Thread) : Thread :=
  if t.entSeg then { t with segs := Table.put SegReg.zero t.segs 7 (Table.get SegReg.zero t.segs 7).doubled } else t

/-- Changes every thread of some cores. -/
def State.modThreads (s : State) (cores : List Nat) (f : Thread → Thread) : State :=
  cores.foldl (fun s c => (List.range 16).foldl (fun s k =>
    if (s.thread c k).state = .empty then s else s.modThread c k f) s) s

/-- The allowance of the round that a region has reached (R304, R305). -/
def Region.roundAllow (r : Region) : Word :=
  if r.field 29 ≤ r.round then wrap64 (r.field 16) else wrap64 (r.field 30 * 2 ^ r.round)

/-- A thread at the barrier wakes with the next allowance; its held bundle issues again (R97, R305). -/
def Thread.pastBarrier (cyc : Nat) (allow : Word) (t : Thread) : Thread :=
  if t.state = .parked && t.barrier then
    { t with state := .ready, reason := 0, barrier := false, allow := allow, notBefore := max t.notBefore (cyc + 1) } else t

/-- Every write that a region's cores issued before the barrier is performed, and their pins can be widened at `.sys` (R305). -/
def State.barrierDone (s : State) (rid : Nat) : Bool :=
  (s.tiles rid).all (fun c => !s.reqs.any (fun r => r.cid = c && r.op.writes && r.stage ≠ .served) &&
    (List.range 16).all (fun k => s.pinsReady c (s.pinsBelow c k .sys) none))

/-- The survivors' threads resume once the writes before the barrier are performed at `.sys` (R305) (log entry 145). -/
def State.resumeRound (s : State) (rid : Nat) : State :=
  match s.region? rid with
  | none => s
  | some r =>
    if !(r.wakeDue && s.barrierDone rid) then s
    else
      let s := (s.tiles rid).foldl (fun s c => (List.range 16).foldl (fun s j => s.widenPins c j .sys) s) s
      (s.modThreads (s.tiles rid) (Thread.pastBarrier s.cyc r.roundAllow)).modRegion rid (fun r => { r with wakeDue := false })

/-- The barrier completes (R306 to R309): entrants are ranked, killed and grown, and the survivors' threads are to resume. -/
def roundBarrier (s : State) (rid : Nat) : State :=
  match s.region? rid with
  | none => s
  | some r =>
    let k := r.field 29
    let last : Bool := k ≤ r.round + 1
    let order := r.ranking
    let half := order.length / 2
    let ranked := (order.zipIdx).foldl (fun (r : Region) (e, i) => r.modEntrant e (fun x =>
      { x with rank := i, ranked := r.round, live := i < half, roundOver := false,
               source := if half ≤ i || last then (if half ≤ i then x.source else 255) else order.getD (half + i) 255,
               growths := if i < half && !last then x.growths + 1 else x.growths })) r
    let s := s.setRegion rid { ranked with round := r.round + 1, wakeDue := true, winner := if last then order.headD 255 else r.winner }
    let alive := (order.take half).map (fun e => s.entrantCores rid e)
    let s := (List.range half).foldl (fun s i => s.killEntrant r (order.getD (half + i) 0) (order.getD i 0) last) s
    let s := alive.foldl (fun s cs => s.modThreads cs (fun t => if last then t else t.grown)) s
    match s.team? rid 0 with
    | some t => s.service t.cl 6
    | none => s

/-- `ROUND_BARRIER_COMPLETE` (R305): the barrier in its first cycle, and the resumption of the survivors' threads in the same cycle or
once the writes before it are performed. -/
def execRoundBarrierComplete (rid : Nat) (s : State) : Out' :=
  .next ((if canBarrier s rid then roundBarrier s rid else s).resumeRound rid)

end Sys2Proof.Machine
end

