-- ==== Sys2Proof/Machine/Preempt.lean ====
section
/-! DEFINITION. Pre-emption (R332 to R336): the choice of a victim, the save of a team in two steps (issue stops; once
everything has settled, its images are written and its cores released), and its restore. -/

namespace Sys2Proof.Machine

/-! ### Which team is displaced (R332, R333) -/

def Region.savingTeam (r : Region) : Option (Nat × Team) := r.teams.find? (fun (_, t) => t.st = .saving)

/-- The placed, unretired team of highest index. -/
def Region.topTeam (r : Region) : Option Nat := ((r.teams.filter (fun (_, t) => t.st = .placed)).getLast?).map (·.1)

/-- Some cluster could take a team of the region now. -/
def State.fits (s : State) (r : Region) : Bool := (List.range 576).any (fun cl => (s.teamCores r cl).isSome)

/-- The better victim: lower priority, then accepted later. -/
def Region.yields (a b : Region) : Bool := a.prio < b.prio || (a.prio = b.prio && b.order < a.order)

def lastRegion : List Region → Option Region
  | [] => none
  | a :: t => match lastRegion t with
    | none => some a
    | some b => if b.yields a then some b else some a

/-- The region that yields a team to the head that finds no place. -/
def State.yielding (s : State) : Option Nat :=
  match s.head with
  | none => none
  | some (h, _) =>
    if s.fits h || s.regions.any (fun (_, r) => r.savingTeam.isSome) then none
    else (lastRegion (s.going.filter (fun r => r.prio < h.prio && r.topTeam.isSome))).map (·.id)

/-- The team whose displacement begins now; a round barrier that is due, or in progress, completes first (R305). -/
def State.beginsSave (s : State) (rid : Nat) : Option Nat :=
  match s.region? rid with
  | none => none
  | some r =>
    if !r.live || r.stopDue || r.savingTeam.isSome || r.wakeDue || canBarrier s rid then none
    else match r.topTeam with
      | none => none
      | some t => if !r.unheld t || s.yielding = some rid then some t else none

/-! ### Step 1: issue stops (R334) -/

/-- The banks that a core of a region holds: its home banks, and its pool bank where it is allocated. -/
def State.heldBanks (s : State) (rid cid : Nat) : List (Nat × Bank) :=
  let cl := clOf cid
  (([2 * coreOf cid, 2 * coreOf cid + 1, 32 + coreOf cid].filter (fun b => s.bankHeld rid cl b)).map
    (fun b => (bankKey cl b, s.bank (bankKey cl b))))

/-- What is known of a core as its save begins. -/
def State.shell (s : State) (rid cid : Nat) : SavedCore :=
  { cid := cid, core := s.core cid, threads := [], banks := s.heldBanks rid cid, reqs := [], logged := [] }

/-- Requests parked at the banks of a team are refused as its save begins, and sent again 64 cycles later (R335). -/
def State.parkedAway (s : State) (rid cid : Nat) : State :=
  (s.heldBanks rid cid).foldl (fun s e => s.emptyPark e.1 (fun _ => .refused (s.cyc + Config.resendCycles))) s

def startSave (s : State) (rid team : Nat) : State :=
  match s.team? rid team with
  | none => s
  | some t =>
    let s := t.cores.foldl (fun s c => s.parkedAway rid c) s
    let s := s.modTeam rid team (fun t => { t with st := .saving, saved := t.cores.map (s.shell rid) })
    (t.cores.foldl (fun s c => s.modCore c (fun x => { x with away := true })) s).service t.cl 4

/-! ### Steps 2 to 5: the images (R334) -/

/-- The tinker may access the lines of a team's images and of its spill log (R6, R220, R222). -/
def State.imagesClear (s : State) (r : Region) (n cl : Nat) : Bool :=
  s.rangeClear r (cl / 144) (r.ctx + n * r.imageSize) r.imageSize && s.rangeClear r (cl / 144) (r.logAt n) (128 * r.logCap)

/-- The save can be made: engines have settled, memory has drained, pins of other cores in the team's pool banks can be widened,
and the images' lines are free. -/
def canSave (s : State) (rid : Nat) : Bool :=
  match s.region? rid with
  | none => false
  | some r => match r.savingTeam with
    | none => false
    | some (n, t) => t.cores.all (fun c => s.drained c && s.pinsFree (bankKey (clOf c) (32 + coreOf c)) t.cores) &&
        s.settled rid t.cl t.cores && s.imagesClear r n t.cl

/-- Bit j of a flag list as a number. -/
def flagBits (f : Nat → Bool) (n : Nat) : Nat := (List.range n).foldl (fun a j => a + bitOf (f j) j) 0

/-- Doubleword at offset o of a bank image. -/
def bankImage (s : State) (key : Nat) (o : Nat) : Nat :=
  let base := scratchKey (key / 64) (key % 64 * 2 ^ 17)
  let b := s.bank key
  if o < 0x20000 then s.read (base + o) 8
  else if o < 0x20800 then flagBits (fun j => s.isFull (base + 8 * (8 * (o - 0x20000) + j))) 64
  else if o < 0x20900 then Table.get 0 b.bins ((o - 0x20800) / 4) + 2 ^ 32 * Table.get 0 b.bins ((o - 0x20800) / 4 + 1)
  else if o < 0x20908 then b.fmt.toNat
  else 0

def bankImageBytes : Nat := 0x21000

/-- Poison travels with a bank's words into the image. -/
def State.poisonImage (s : State) (r : Region) (die va key : Nat) : State :=
  let base := scratchKey (key / 64) (key % 64 * 2 ^ 17)
  (wordsIn s.poison base (2 ^ 17)).foldl (fun s w => match s.translate r die (va + (8 * w - base)) true false with
    | .pa pa _ _ => { s with poison := NatSet.add s.poison (s.fwd pa / 8) }
    | _ => s) s

/-- Where the image of a bank lies: after its core's image, or in the pool part of the team image. -/
def Region.bankVa (r : Region) (team i b : Nat) : Nat :=
  let t := r.ctx + team * r.imageSize
  if b < 32 then t + i * 0x4F000 + 0xD000 + b % 2 * bankImageBytes
  else t + r.coresPerTeam * 0x4F000 + (b - 32) * bankImageBytes

/-- A core's image and those of its banks are written. -/
def State.saveCore (s : State) (r : Region) (team i : Nat) (sv : SavedCore) : Option State :=
  let die := dieOf sv.cid
  let va := r.ctx + team * r.imageSize + i * 0x4F000
  (writeDwFn s r die va (imageWord r sv) (imageBytes / 8)).bind (fun s =>
    sv.banks.foldl (fun (o : Option State) (k, _) => o.bind (fun s =>
      let b := r.bankVa team i (k % 64)
      (writeDwFn s r die b (bankImage s k) (bankImageBytes / 8)).map (fun t => t.poisonImage r die b k))) (some s))

/-- A rendezvous point's two doublewords. -/
def pointWord (p : PointSt) (j : Nat) : Nat :=
  if j = 0 then (p.expect.map (· + 1)).getD 0 % 2 ^ 16 + p.arrivals % 2 ^ 16 * 2 ^ 16 + p.phase % 2 ^ 32 * 2 ^ 32 else p.bytes

/-- A point as its doublewords hold it. -/
def pointOf (a b phaseAt : Nat) : PointSt := ⟨optOf (bitsAt a 0 16), bitsAt a 16 16, bitsAt a 32 32, b, phaseAt⟩

/-- The eight doublewords of a queued tick entry: operation, address or value, identity. -/
def TkEntry.words (e : TkEntry) (j : Nat) : Nat :=
  let op : Nat × Nat := match e.op with
    | .win w => (1, w)
    | .load a f n => (2 + f * 2 ^ 8 + n * 2 ^ 16, a)
    | .launch a m => (3 + bitOf m 8, a)
    | .capt a => (4, a)
    | .reset => (5, 0)
    | .note k => (6, k)
    | .raced _ _ => (0, 0)
  match j with
  | 0 => op.1
  | 1 => op.2
  | 2 => e.id
  | 3 => e.mark
  | 4 => e.cid + e.slot * 2 ^ 32
  | 5 => e.bundle.toNat
  | 6 => e.icnt
  | _ => e.now

/-- A queued tick entry of a region as its doublewords hold it. -/
def tkEntryOf (rid : Nat) (g : Nat → Nat) : TkEntry :=
  let op : TkOp := match g 0 % 256 with
    | 1 => .win (g 1)
    | 2 => .load (g 1) (bitsAt (g 0) 8 8) (bitsAt (g 0) 16 8)
    | 3 => .launch (g 1) (flagAt (g 0) 8)
    | 4 => .capt (g 1)
    | 6 => .note (g 1)
    | _ => .reset
  ⟨g 2, g 3, bitsAt (g 4) 0 32, bitsAt (g 4) 32 4, rid, wrap64 (g 5), g 6, g 7, op⟩

/-- Doubleword at offset o of the tick area: cells, outputs, W and the mode, then the queued entries and their count. -/
def tickWord (k : Cluster) (q : List TkEntry) (o : Nat) : Nat :=
  let bytes (f : Nat → Nat) : Nat := (List.range 8).foldr (fun j a => f j + 256 * a) 0
  if o < 4096 then bytes (fun j => k.cell ((o + j) / 64) ((o + j) % 64))
  else if o < 4160 then bytes (fun j => k.outTick (o - 4096 + j))
  else if o < 4168 then k.win + bitOf k.andMode 8
  else if o < 4176 then q.length
  else ((q[(o - 4176) / 64]?).map (fun e => e.words ((o - 4176) % 64 / 8))).getD 0

/-- The eight doublewords of a queued engine command: its words and those of its follow-on, or an area instruction's address;
its core, slot and their numbers. -/
def Cmd.imageWord (c : Cmd) (j : Nat) : Nat :=
  match c.area, j with
  | some (_, va), 0 => va
  | _, 7 => c.cid % 32 + c.slot * 2 ^ 8 + c.words.length * 2 ^ 16 + c.follow.length * 2 ^ 24 +
      (match c.area with | some (load, _) => 2 ^ 32 + bitOf load 33 | none => 0)
  | _, j => if j < 4 then (c.words.getD j 0).toNat else (c.follow.getD (j - 4) 0).toNat

/-- A queued command as its doublewords hold it, over what its record kept. -/
def cmdOf (g : Nat → Nat) (c : Cmd) : Cmd :=
  { c with cid := c.cid / 32 * 32 + bitsAt (g 7) 0 5, slot := bitsAt (g 7) 8 4,
           words := (List.range (min (bitsAt (g 7) 16 8) 4)).map (fun j => wrap64 (g j)),
           follow := (List.range (min (bitsAt (g 7) 24 8) 3)).map (fun j => wrap64 (g (4 + j))),
           area := if flagAt (g 7) 32 then some (flagAt (g 7) 33, g 0) else none }

/-- Where a team's image keeps its queued commands: behind the points, their numbers first. -/
def cmdsAt : Nat := 0x210000 + 384

/-- The numbers and the words of a team's queued copy commands, matrix commands and follow-on commands, in their order. -/
def SavedArrays.queueWord (a : SavedArrays) (o : Nat) : Nat :=
  if o < 8 then a.copyQ.length + a.mxQ.length * 2 ^ 16 + a.ready.length * 2 ^ 32
  else (((a.copyQ ++ a.mxQ ++ a.ready)[(o - 8) / 64]?).map (fun c => c.imageWord ((o - 8) % 64 / 8))).getD 0

/-- The queued commands as a team's image holds them, as far as its page goes. -/
def SavedArrays.requeued (a : SavedArrays) (g : Nat → Nat) : SavedArrays :=
  let part (n off : Nat) (l : List Cmd) : List Cmd := ((l.take n).zipIdx).map (fun (c, i) =>
    if off + i < 57 then cmdOf (fun j => g (1 + 8 * (off + i) + j)) c else c)
  let n := bitsAt (g 0) 0 16
  let m := bitsAt (g 0) 16 16
  { a with copyQ := part n 0 a.copyQ, mxQ := part m n a.mxQ, ready := part (bitsAt (g 0) 32 16) (n + m) a.ready }

/-- The team's own parts of the image: unheld pool areas as zero, points and queued commands, and the arrays when the region's
last team leaves the cluster. -/
def State.saveTeamParts (s : State) (r : Region) (team : Nat) (t : Team) (a : SavedArrays) (last : Bool) : Option State :=
  let die := t.cl / 144
  let base := r.ctx + team * r.imageSize + r.coresPerTeam * 0x4F000
  let k := s.cluster t.cl
  let held (j : Nat) : Bool := t.saved.any (fun c => c.banks.any (fun (b, _) => b = bankKey t.cl (32 + j)))
  let pools := (List.range 16).foldl (fun (o : Option State) j => if held j then o
    else o.bind (fun s => writeDwFn s r die (base + j * bankImageBytes) (fun _ => 0) (bankImageBytes / 8))) (some s)
  let points := pools.bind (fun s => writeDwFn s r die (base + 0x210000)
    (fun o => if o < 384 then pointWord (Table.get PointSt.fresh t.points (o / 16)) (o / 8 % 2) else a.queueWord (o - 384)) (0x1000 / 8))
  let mx := if last && k.mxHolder = some r.id then
      points.bind (fun s => writeDwFn s r die (base + 0x211000) (fun o => areaWord k (o / 4) + 2 ^ 32 * areaWord k (o / 4 + 1)) (areaBytes / 8))
    else points
  if last && k.tkHolder = some r.id then mx.bind (fun s => writeDwFn s r die (base + 0x272000) (tickWord k ((k.tkQ ++ k.tkBack).filter (fun e => t.cores.contains e.cid))) (0x2000 / 8)) else mx

/-- The queues and arrays of a team in its cluster, as they are saved: its own queued commands, and whether the arrays go
with it. -/
def Cluster.saved (k : Cluster) (rid : Nat) (cores : List Nat) (last : Bool) : SavedArrays :=
  let mine (c : Cmd) : Bool := cores.contains c.cid
  let stopped := k.mxQ.find? (fun c => mine c && c.stopped)
  { mx := last && k.mxHolder = some rid, tk := last && k.tkHolder = some rid,
    mxQ := k.mxQ.filter (fun c => mine c && !c.stopped), mxprog := if stopped.isSome then k.mxprog else 0,
    stopped := stopped, tkQ := (k.tkQ ++ k.tkBack).filter (fun e => cores.contains e.cid),
    copyQ := (k.copyQ ++ k.copyBack).filter mine, ready := k.ready.filter mine }

def Cluster.without (k : Cluster) (cores : List Nat) : Cluster :=
  let other (c : Cmd) : Bool := !cores.contains c.cid
  { k with mxprog := if k.mxQ.any (fun c => c.stopped && !other c) then 0 else k.mxprog, mxQ := k.mxQ.filter other,
           tkQ := k.tkQ.filter (fun e => !cores.contains e.cid), copies := k.copies.filter (fun r => other r.cmd),
           copyQ := k.copyQ.filter other, copyBack := k.copyBack.filter other,
           tkBack := k.tkBack.filter (fun e => !cores.contains e.cid), ready := k.ready.filter other }

/-- Requests that a save withdraws leave park tables and commit tables (R335, R336). -/
def State.withdraw (s : State) (ids : List Nat) : State :=
  { s with reqs := s.reqs.filter (fun r => !ids.contains r.id),
           banks := s.banks.map (fun (e : Nat × Bank) => (e.1, { e.2 with park := e.2.park.filter (fun i => !ids.contains i) })),
           commits := s.commits.map (fun c => { c with held := c.held.filter (fun h => !ids.contains h.2) }) }

/-- A saved core is cleared and released; its registrations as a pager stay (R334, R336). -/
def State.vacate (s : State) (cid : Nat) : State :=
  let cl := clOf cid
  let s := s.shutPairs cid
  let s := (List.range 16).foldl (fun s k => s.widenPins cid k .sys) s
  let s := s.emptySlots cid
  let s := ((s.clearBank cl (2 * coreOf cid)).clearBank cl (2 * coreOf cid + 1)).unfuse cl
  (s.freePool cl (coreOf cid)).allotDone.setCore cid Core.fresh

/-- A save that cannot be made stops its region (R334, R335). -/
def failSave (s : State) (rid team : Nat) : State :=
  (s.modTeam rid team (fun t => { t with st := .placed, saved := [] })).modRegion rid (fun r => { r with stopDue := true })

/-- The arrivals queued at a tile, messages and start events, move to its team's log; none where the log cannot take them all
(R334, log entry 55). -/
def spillQueued (s : State) (rid team : Nat) (sv : SavedCore) : Option (State × SavedCore) :=
  let all := sv.core.inEnds.flatMap (fun (i, e) => (e.queue ++ e.starts).map (fun a => (i, a)))
  let bare : SavedCore := { sv with core := { sv.core with
    inEnds := sv.core.inEnds.map (fun e => (e.1, { e.2 with queue := [], starts := [] })) } }
  (all.foldl (fun (o : Option State) (i, a) => o.bind (fun s => s.logAppend rid team (.queued sv.cid i a))) (some s)).map
    (fun s => (s, bare))

/-- The saved cores: one that `CTXSAVE` has saved keeps that save. -/
def State.savedCores (s : State) (t : Team) (reqs logged : List Req) : List SavedCore :=
  t.saved.map (fun sv =>
    let now := s.savedCore sv.cid
    { now with core := { now.core with streamTab := now.core.streamTab.filter (fun e => e.outst ≠ 0), pins := [] },
               threads := if sv.threads.isEmpty then now.threads else sv.threads,
               banks := sv.banks.map (fun (k, _) => (k, s.bank k)),
               reqs := reqs.filter (fun r => r.cid = sv.cid), logged := logged.filter (fun r => r.cid = sv.cid) })

/-- A withdrawn request that its slot's image holds: the first of its thread that it can hold, of those that no displaced target
refuses (R335, R336, log entry 124). -/
def State.slotKeeps (s : State) (all : List Req) (q : Req) : Bool :=
  let ok (e : Req) : Bool := e.inImage && (s.displacedTarget e).isNone
  ok q && !all.any (fun e => e.cid = q.cid && e.slot = q.slot && e.id < q.id && ok e)

def saveTeam (s : State) (rid : Nat) : State :=
  match s.region? rid with
  | none => s
  | some r => match r.savingTeam with
  | none => s
  | some (n, t) =>
    let all := s.reqs.filter (fun q => t.cores.contains q.cid && q.kept)
    let logged := all.filter (fun q => !s.slotKeeps all q)
    let kept := all.filter (s.slotKeeps all)
    match logged.foldl (fun (o : Option State) q => o.bind (fun s => s.logAppend rid n (.withdrawn q))) (some s) with
    | none => failSave s rid n
    | some s =>
      let last := (s.placedCores rid t.cl).all (fun c => t.cores.contains c)
      let spilled := (s.savedCores t kept logged).foldl (fun (o : Option (State × List SavedCore)) sv => o.bind (fun x =>
        (spillQueued x.1 rid n sv).map (fun y => (y.1, x.2 ++ [y.2])))) (some (s, []))
      let arrays := (s.cluster t.cl).saved rid t.cores last
      match spilled.bind (fun (s, svs) =>
        ((svs.zipIdx).foldl (fun (o : Option State) (sv, i) => o.bind (fun s => s.saveCore r n i sv)) (some s)).bind (fun s =>
          (s.saveTeamParts r n { t with saved := svs } arrays last).map (fun s => (s, svs)))) with
      | none => failSave s rid n
      | some (s, svs) =>
        let s := (s.withdraw (all.map (·.id))).modCluster t.cl (fun k => k.without t.cores)
        let s := t.cores.foldl (fun s c => s.vacate c) s
        let keepLim := (s.cluster t.cl).limits
        let s := if last then s.modCluster t.cl (fun k => { k.leave rid with limits := keepLim }) else s
        (s.modTeam rid n (fun t => { t with st := .displaced, saved := svs, arrays := some arrays })).updateState rid

/-- `TEAM_DISPLACE` (R332, R334): a save under way is completed once it can be; otherwise the next one begins. -/
def execTeamDisplace (rid : Nat) (s : State) : Out' :=
  .next (if canSave s rid then saveTeam s rid
    else match s.beginsSave rid with
      | some team => startSave s rid team
      | none => s)

/-! ### Restoring (R332, R335, R336) -/

/-- A region's lowest displaced team. -/
def Region.lowDisplaced (r : Region) : Option (Nat × Team) := r.teams.find? (fun (_, t) => t.st = .displaced)

/-- The team can return but for the `w` registers of its long-mode cores: not held, no team of a higher priority waits for a
place, its cluster, cores, pool banks and arrays are free. -/
def State.placeable (s : State) (r : Region) : Option (Nat × Team) :=
  match r.lowDisplaced with
  | none => none
  | some (n, t) =>
    let k := s.cluster t.cl
    let free := k.resetAt.isNone && t.saved.all (fun c => (s.core c.cid).region.isNone &&
      c.banks.all (fun (b, _) => b % 64 < 32 || (s.bank b).role = .free))
    let arrays := match (r.arrayTeam t.cl).bind (fun (_, x) => x.arrays) with
      | some a => (!a.mx || k.mxHolder.isNone) && (!a.tk || k.tkHolder.isNone)
      | none => true
    let above := match s.head with | some (h, _) => r.prio < h.prio | none => false
    if r.live && !r.stopDue && r.savingTeam.isNone && r.unheld n && free && arrays && !above then some (n, t) else none

/-- The `w` registers of a team's long-mode cores are free, in its turn among the parked requests (R250). -/
def State.longGrant (s : State) (t : Team) : Bool :=
  t.longCount = 0 || s.longCores t.cl + s.longAhead t.cl (32 * t.cl + 31) (t.longWait.getD s.nextId) + t.longCount ≤ 8

/-- The team can return: it has its place, and the `w` registers it needs. -/
def State.restorable (s : State) (r : Region) : Option (Nat × Team) := (s.placeable r).filter (fun e => s.longGrant e.2)

/-- A team begins to wait for `w` registers, or waits no more because its place is taken. -/
def State.longTurn (s : State) (r : Region) : Option (Nat × Option Nat) :=
  match r.lowDisplaced with
  | none => none
  | some (n, t) =>
    let waits : Bool := (s.placeable r).isSome && !s.longGrant t
    if waits && t.longWait.isNone then some (n, some s.nextId)
    else if (s.placeable r).isNone && t.longWait.isSome then some (n, none)
    else none

/-- Where a team's own parts of its image begin. -/
def Region.partsVa (r : Region) (team : Nat) : Nat := r.ctx + team * r.imageSize + r.coresPerTeam * 0x4F000

/-- The same of the areas of the arrays that return with a team. -/
def State.areasClear (s : State) (r : Region) (cl : Nat) : Bool :=
  match r.arrayTeam cl with
  | none => true
  | some (k, _) => s.rangeClear r (cl / 144) (r.partsVa k + 0x211000) 0x63000

/-- The images, the spill log and the areas of a team have been read (R201). -/
def State.imagesSeen (s : State) (r : Region) (n cl : Nat) : State :=
  let s := (s.vaSeen r (cl / 144) (r.ctx + n * r.imageSize) r.imageSize).vaSeen r (cl / 144) (r.logAt n) (128 * r.logCap)
  match r.arrayTeam cl with
  | none => s
  | some (k, _) => s.vaSeen r (cl / 144) (r.partsVa k + 0x211000) 0x63000

/-- The regions' order of return: priority, then age. -/
def canRestore (s : State) (rid : Nat) : Bool :=
  match s.region? rid with
  | none => false
  | some r => (s.longTurn r).isSome ||
      ((s.restorable r).any (fun e => s.imagesClear r e.1 e.2.cl && s.areasClear r e.2.cl) &&
        !s.going.any (fun q => q.id ≠ rid && q.before r && (s.restorable q).isSome))

/-- A bank of a team is set again from its image. -/
def State.loadBank (s : State) (r : Region) (die va key : Nat) (old : Bank) : State :=
  let base := scratchKey (key / 64) (key % 64 * 2 ^ 17)
  let s := (List.range (2 ^ 14)).foldl (fun s j =>
    let v := imgAt s r die va (8 * j)
    if v = 0 then s else s.write (base + 8 * j) 8 v) s
  let s := (List.range 256).foldl (fun s j =>
    let v := imgAt s r die va (0x20000 + 8 * j)
    if v = 0 then s else (List.range 64).foldl (fun s i => if v / 2 ^ i % 2 = 1 then s.setFull (base + 8 * (64 * j + i)) true else s) s) s
  let bins := (List.range 64).foldl (fun l i =>
    Table.put 0 l i (imgAt s r die va (0x20800 + i / 2 * 8) / 2 ^ (32 * (i % 2)) % 2 ^ 32)) ([] : List (Nat × Nat))
  let bad := (List.range (2 ^ 14)).foldl (fun l j => match s.translate r die (va + 8 * j) false false with
    | .pa pa _ _ => if s.poison.contains (s.fwd pa / 8) then NatSet.add l (base / 8 + j) else l
    | _ => l) s.poison
  let s := { s with poison := bad }
  s.modBank key (fun b => { b with role := old.role, fmt := wrap64 (imgAt s r die va 0x20900), bins := bins })

/-- A restored thread (R336): a held bundle issues again in full, a thread at the round barrier stays parked. -/
def Thread.resumed (cyc : Nat) (t : Thread) : Thread :=
  if t.state = .empty then t
  else
    let t := { t with notBefore := max t.notBefore (cyc + 1) }
    if t.state = .parked && !t.barrier then { t with state := .ready, reason := 0, waitOn := [] } else t

/-- A core returns: its banks, then itself and its threads, which go on from the next cycle (R336). -/
def State.restoreCore (s : State) (r : Region) (team i : Nat) (sv : SavedCore) : State :=
  let die := dieOf sv.cid
  let va := r.ctx + team * r.imageSize + i * 0x4F000
  let s := sv.banks.foldl (fun s (k, b) => s.loadBank r die (r.bankVa team i (k % 64)) k b) s
  let s := (s.loadSaved r die va sv).modCore sv.cid (fun c => { c with away := false })
  (List.range 16).foldl (fun s k => s.modThread sv.cid k (Thread.resumed s.cyc)) s

/-- The points of a team, as its image holds them. -/
def State.restorePoints (s : State) (r : Region) (n : Nat) (t : Team) : State :=
  let at' (o : Nat) : Nat := imgAt s r (t.cl / 144) (r.partsVa n + 0x210000) o
  let point (k : Nat) : Option PointSt :=
    let p := pointOf (at' (16 * k)) (at' (16 * k + 8)) (Table.get PointSt.fresh t.points k).phaseAt
    if p = PointSt.fresh then none else some p
  s.modTeam r.id n (fun t => { t with points := tableOf 24 point })

/-- The stopped command of a saved matrix area: its words and its step are those of the area (R243). -/
def areaStopped (g : Nat → Nat) (a : SavedArrays) : SavedArrays :=
  if flagAt (g 0) 63 then
    { a with mxprog := wrap64 (g 0), stopped := a.stopped.map (fun (c : Cmd) =>
        { c with step := bitsAt (g 0) 32 16, words := (List.range 3).map (fun j => wrap64 (g (j + 1))) }) }
  else a

/-- The arrays return with the first team of their region on the cluster (R334), and with them what the areas hold of the
commands and entries of the team that saved them. -/
def State.restoreArrays (s : State) (r : Region) (cl : Nat) : State :=
  match r.arrayTeam cl with
  | none => s
  | some (n, t) => match t.arrays with
    | none => s
    | some a =>
      let die := cl / 144
      let mx (o : Nat) : Nat := imgAt s r die (r.partsVa n + 0x211000) o
      let tk (o : Nat) : Nat := imgAt s r die (r.partsVa n + 0x272000) o
      let s := if !a.mx then s else
        let lines := (List.range (areaBytes / 128)).map (fun j => imgWide s r die (r.partsVa n + 0x211000) (128 * j) 16)
        let sf := (List.range 8).map (fun i => wrap64 (r.field (35 + i)))
        s.modCluster cl (fun k => { k with mxHolder := some r.id, acc := areaAcc lines, sf := sf })
      let s := if !a.tk then s else
        let byte (o : Nat) : Byte := BitVec.ofNat 8 (tk (o / 8 * 8) / 2 ^ (8 * (o % 8)))
        let cells := (List.range 4096).foldl (fun l i => Table.put 255 l i (byte i)) []
        let outs := (List.range 64).foldl (fun l i => Table.put 255 l i (byte (4096 + i))) []
        s.modCluster cl (fun k => { k with tkHolder := some r.id, win := tk 4160 % 256, andMode := flagAt (tk 4160) 8,
                                           cells := cells, outs := outs })
      let a := if a.mx then areaStopped (fun j => mx (8 * j)) a else a
      let a := if a.tk then { a with tkQ := (List.range (min (tk 4168) 62)).map (fun i =>
        tkEntryOf r.id (fun j => tk (4176 + 64 * i + 8 * j))) } else a
      s.modTeam r.id n (fun t => { t with arrays := some { a with mx := false, tk := false } })

/-- A team's own commands return: a stopped one to the head of the matrix queue, the others in their order behind those queued,
as their queues have room (R226, R243, R336); one that a supervisor's `MXLOAD` has placed waits no more. -/
def Cluster.requeue (k : Cluster) (a : SavedArrays) (cores : List Nat) : Cluster :=
  let head := (a.stopped.map (fun (c : Cmd) => { c with waits := false })).toList
  let rest := k.mxQ.map (fun (c : Cmd) => if cores.contains c.cid || isSup c.cid then { c with waits := false } else c)
  { k with mxQ := head ++ rest, mxprog := if a.stopped.isSome then a.mxprog else k.mxprog, tkBack := k.tkBack ++ a.tkQ,
           copyBack := k.copyBack ++ a.copyQ, ready := k.ready ++ a.mxQ ++ a.ready }

/-! ### The replay of the spill log (R335) -/

/-- How far a sequence number lies before the next one expected. -/
def seqBehind (e : InEnd) (seq : Nat) : Nat := (e.expect + 2 ^ 16 - seq % 2 ^ 16) % 2 ^ 16

/-- An arrival that was queued before the save returns to its place. -/
def InEnd.requeue (e : InEnd) (a : Arrival) : InEnd :=
  if a.start then { e with starts := e.starts ++ [a] }
  else { e with queue := e.queue.takeWhile (fun x => decide (seqBehind e a.seq < seqBehind e x.seq)) ++ [a] ++
                    e.queue.dropWhile (fun x => decide (seqBehind e a.seq < seqBehind e x.seq)) }

/-- A logged message: one accepted before the save is queued again, another is accepted now; a poisoned one is discarded. -/
def State.replayMsg (s : State) (cid : Nat) (f : Flit) (released : Bool) : State :=
  match (s.core cid).inEnd? f.didx with
  | none => s
  | some e =>
    let b := seqBehind e f.seq
    let a : Arrival := { ts := f.ts, start := false, seq := f.seq, payload := f.payload, sender := f.src,
                         senderIdx := e.pidx, released := released }
    if b = 0 || 2 ^ 15 ≤ b then s.acceptFlit cid f
    else if f.poisoned || e.closed then s.returnAllow cid f.didx e a
    else s.setIn cid f.didx (e.requeue a)

/-- A start event is queued again (R144, R150). -/
def State.replayStart (s : State) (cid i : Nat) (a : Arrival) : State :=
  match (s.core cid).inEnd? i with
  | none => s
  | some e => if e.closed then s else s.setIn cid i (e.requeue a)

/-- A logged write is performed at its bank (R335), its poison with it (R341). -/
def State.replayWrite (s : State) (rid cl : Nat) (g : Nat → Nat) (bad : Nat → Bool) (raw : Bool) : State :=
  let sa := g 1
  let size := bitsAt (g 0) 8 7
  let fe := bitsAt (g 0) 16 2
  if scratchBytes ≤ sa || 64 < size || !s.bankHeld rid cl (bankOfSa sa) then s
  else
    let key := scratchKey cl sa
    let data := (List.range 8).foldr (fun j acc => g (j + 3) + 2 ^ 64 * acc) 0 % 2 ^ (8 * size)
    let s := if size = 0 then s.stepBank (bankKey cl (bankOfSa sa))
      else if raw then ({ s.write key size data with poison := cleanPoison s.poison key size } : State).stepBank (bankKey cl (bankOfSa sa))
      else s.scratchWrite cl sa size data
    let s := (List.range size).foldl (fun (s : State) i =>
      if bad (i / 8 + 3) then { s with poison := NatSet.add s.poison ((key + i) / 8) } else s) s
    if fe = 1 then s.setFull key true else if fe = 2 then s.setFull key false else s

/-- Entry i of a team's log is replayed from its bytes in memory (R335): the tile of a message and a withdrawn request are
what the log's own record names. -/
def State.replay (s : State) (r : Region) (team cl i : Nat) (e : LogEntry) : State :=
  let die := cl / 144
  let va (j : Nat) : Nat := r.logAt team + 128 * i + 8 * j
  let g (j : Nat) : Nat := (s.dwVa r die (va j)).getD 0
  let bad (j : Nat) : Bool := (imgFault s r die (va j) 8).isSome
  let head : Bool := bad 0 || bad 1 || bad 2
  let msg (f : Flit) : Flit :=
    { f with kind := .msg, seq := bitsAt (g 0) 8 16, didx := bitsAt (g 0) 24 4, ts := g 1, src := g 2,
             payload := (List.range f.payload.length).map (fun j => wrap64 (g (j + 3))),
             poisoned := f.poisoned || (List.range f.payload.length).any (fun j => bad (j + 3)) }
  match e with
  | .withdrawn q => { s with reqs := s.reqs ++ [s.again q] }
  | .msg f => if head then s
    else if g 0 % 256 = 1 then s.replayMsg (coordCid f.dst) (msg f) false
    else if g 0 % 256 = 2 then s.replayWrite r.id cl g bad false else s
  | .queued cid k a => if head then s
    else if g 0 % 256 = 1 then
      if a.start then s.replayStart cid k { a with ts := g 1, payload := (msg { s.flit cid .msg k 0 0 0 0 a.payload with sidx := 0 }).payload }
      else s.replayMsg cid (msg { s.flit cid .msg k a.sender a.senderIdx a.seq a.ts a.payload with sidx := a.senderIdx }) a.released
    else if g 0 % 256 = 2 then s.replayWrite r.id cl g bad false else s
  | .write _ _ _ _ _ _ raw => if head then s
    else if g 0 % 256 = 2 then s.replayWrite r.id cl g bad raw else s

/-- Dropped threads whose page was refused meanwhile stop (R195). -/
def State.stopDenied (s : State) (cid : Nat) : State :=
  (List.range 16).foldl (fun s k =>
    let t := s.thread cid k
    if t.state = .dropped && 2 ^ 8 ≤ t.dropBits then stopDropped s cid k (pageDenied (t.dropBits % 2 ^ 8) t.dropVa) else s) s

/-- What keeps a team's images from being read: a missing page of them or of its spill log, or poison that would enter a register
or an accumulator (R334, R341). -/
def State.restoreFault (s : State) (r : Region) (n : Nat) (t : Team) : Option Flt :=
  let cores := (t.saved.zipIdx).findSome? (fun (sv, i) =>
    imgFault s r (dieOf sv.cid) (r.ctx + n * r.imageSize + i * 0x4F000) imageBytes)
  let banks := (t.saved.zipIdx).findSome? (fun (sv, i) => sv.banks.findSome? (fun (k, _) =>
    (imgMissing s r (dieOf sv.cid) (r.bankVa n i (k % 64)) bankImageBytes).orElse (fun _ =>
      imgFault s r (dieOf sv.cid) (r.bankVa n i (k % 64) + 0x20000) 0x908)))
  let log := if t.log.isEmpty then none else imgMissing s r (t.cl / 144) (r.logAt n) (128 * t.log.length)
  let arrays := (r.arrayTeam t.cl).bind (fun (k, x) => x.arrays.bind (fun a =>
    let area (on : Bool) (o size : Nat) : Option Flt := if on then imgFault s r (t.cl / 144) (r.partsVa k + o) size else none
    (area a.mx 0x211000 areaBytes).orElse (fun _ => area a.tk 0x272000 0x2000)))
  (((cores.orElse (fun _ => banks)).orElse (fun _ => imgFault s r (t.cl / 144) (r.partsVa n + 0x210000) 0x1000)).orElse
    (fun _ => log)).orElse (fun _ => arrays)

/-- The images are read and the team goes on (R336). -/
def State.bringBack (s : State) (r : Region) (n : Nat) (t : Team) : State :=
  let rid := r.id
  let s := s.imagesSeen r n t.cl
  let s := (t.saved.zipIdx).foldl (fun s (sv, i) => s.restoreCore r n i sv) s
  let s := (((s.restorePoints r n t).restoreArrays r t.cl).setFused r t.cl)
  let s := match (s.team? rid n).bind (·.arrays) with
    | some a => s.modCluster t.cl (fun k => k.requeue (a.requeued (fun j =>
        imgAt s r (t.cl / 144) (r.partsVa n + cmdsAt) (8 * j))) (t.saved.map (fun (sv : SavedCore) => sv.cid)))
    | none => s
  let s := s.modTeam rid n (fun t => { t with st := .placed, saved := [], arrays := none, log := [], longWait := none })
  let s := (t.log.zipIdx).foldl (fun s (e, i) => s.replay r n t.cl i e) s
  let s := (t.saved.zipIdx).foldl (fun s (sv, i) => s.resendImage r (dieOf sv.cid) (r.ctx + n * r.imageSize + i * 0x4F000) sv) s
  let s := t.saved.foldl (fun s sv => (s.stopDenied sv.cid).tileFlits sv.cid) (s.readsBehind (t.saved.map (·.cid)))
  (s.service t.cl 5).updateState rid

/-- A team is restored; a missing page of its images stops the region, images that are poisoned or invalid are a fault of
the tinker, which the event log records (R334, R337). -/
def restoreTeam (s : State) (rid : Nat) : State :=
  match s.region? rid with
  | none => s
  | some r => match s.restorable r with
  | none => s
  | some (n, t) =>
    let va (i : Nat) : Nat := r.ctx + n * r.imageSize + i * 0x4F000
    match s.restoreFault r n t with
    | some f => if f.code = fPageDenied then s.modRegion rid (fun r => { r with stopDue := true }) else s.logEvent 1 f.code f.w2 0
    | none =>
      if !(t.saved.zipIdx).all (fun (sv, i) => imageValid s r (dieOf sv.cid) (va i)) then s.logEvent 1 fIllegalOperand 0 0
      else s.bringBack r n t

/-- `TEAM_RESTORE` (R336): a team that only lacks `w` registers parks for a grant (R250). -/
def execTeamRestore (rid : Nat) (s : State) : Out' :=
  .next (if canRestore s rid then
    match (s.region? rid).bind s.longTurn with
    | some (n, w) => { s.modTeam rid n (fun t => { t with longWait := w }) with nextId := s.nextId + 1 }
    | none => restoreTeam s rid
    else s)

end Sys2Proof.Machine
end

