-- ==== Sys2Proof/Machine/Pool.lean ====
section
/-! DEFINITION. Pool banks over time (R117, R118, R120): the sampling interval, a bank leaving the cache role, a closing
bank that becomes idle, and the end of a clearing. -/

namespace Sys2Proof.Machine

/-! ### Leaving the cache role (R120) -/

/-- The bank's pins can be widened on behalf of their holders. -/
def canLeave (s : State) (bank : Nat) : Bool :=
  match (s.bank bank).role with
  | .leaving _ _ => s.pinsFree bank []
  | _ => false

/-- Granted and pinned lines return; the clearing begins. -/
def leaveCache (s : State) (bank : Nat) : State :=
  let next : Option Nat := match (s.bank bank).role with
    | .leaving r (some _) => some r
    | _ => none
  let s := s.pinsLeave bank
  let s := (s.bank bank).lines.foldl (fun s l => s.stepBack l) s
  s.modBank bank (fun b => { b with lines := [], role := .clearing next, clearAt := s.cyc + 1024 })

/-- `CACHE_BANK_WRITEBACK_END` (R120). -/
def execCacheBankWritebackEnd (bank : Nat) (s : State) : Out' := .next (if canLeave s bank then leaveCache s bank else s)

/-! ### Idle banks and clearing (R114, R118) -/

/-- A command touches a bank: a bank that its words name, or that holds its index area. -/
def Cmd.touches (c : Cmd) (bank : Nat) : Bool :=
  c.fmts.any (fun (k, _) => k = bank) ||
  (c.code ≤ 5 && (match c.geom.idx with | some (_, a) => bankKey c.cl (bankOfSa a) = bank | none => false))

/-- The bank of a tick entry. -/
def TkEntry.touches (e : TkEntry) (bank : Nat) : Bool :=
  let here (a : Nat) : Bool := bankKey (clOf e.cid) (bankOfSa a) = bank
  match e.op with
  | .load a _ _ => here a
  | .launch a _ => here a
  | .capt a => here a
  | .win _ => false
  | .reset => false
  | .note _ => false
  | .raced _ _ => false

/-- Commands of a cluster that were queued before a number. -/
def Cluster.cmdsBefore (k : Cluster) (mark : Nat) : List Cmd :=
  (k.copyQ ++ k.copyBack ++ k.copies.map (·.cmd) ++ k.ready ++ k.mxQ ++ k.mxRun.toList.map (·.cmd)).filter (fun c => c.id < mark)

/-- Nothing that a closing bank accepted is in progress. -/
def State.bankQuiet (s : State) (bank mark : Nat) : Bool :=
  !s.reqs.any (fun r => r.scratchy && !r.stage.performed && r.pieces.any (fun p => p.done && bankKey r.cl (bankOfSa p.addr) = bank) &&
    r.pieces.any (fun p => !p.done && bankKey r.cl (bankOfSa p.addr) = bank)) &&
  !s.clusters.any (fun (_, k) => (k.cmdsBefore mark).any (fun c => c.touches bank) ||
    (k.tkQ ++ k.tkBack ++ k.tkRun.toList.map (·.1)).any (fun e => e.mark < mark && e.touches bank))

def canIdle (s : State) (bank : Nat) : Bool :=
  match (s.bank bank).role with
  | .closing _ => s.bankQuiet bank (s.bank bank).closeMark
  | _ => false

/-- `BANK_IDLE` (R118). -/
def execBankIdle (bank : Nat) (s : State) : Out' :=
  .next (if canIdle s bank then s.modBank bank (fun b => { b with role := .clearing none, clearAt := s.cyc + 1024 }) else s)

/-- `BANKFREE` at write-back (R118): the bank closes, and the requests of its park table are refused for good. -/
def State.closeBank (s : State) (bank : Nat) : State :=
  match (s.bank bank).role with
  | .alloc rid =>
    (s.refusePark bank).modBank bank (fun b => { b with role := .closing rid, closeMark := s.nextId })
  | _ => s

def canClear (s : State) (bank : Nat) : Bool :=
  match (s.bank bank).role with
  | .clearing _ => (s.bank bank).clearAt ≤ s.cyc
  | _ => false

/-- `BANK_CLEAR_END` (R114, R118). -/
def clearEnd (s : State) (bank : Nat) : State :=
  let role : Role := match (s.bank bank).role with
    | .clearing (some r) => .alloc r
    | _ => .free
  let s := (s.clearBank (bank / 64) (bank % 64)).modBank bank (fun b => { Bank.fresh role with apply := b.apply })
  s.allotDone

def execBankClearEnd (bank : Nat) (s : State) : Out' := .next (if canClear s bank then clearEnd s bank else s)

/-! ### Sampling (R120) -/

/-- The pool banks of a region in a cluster. -/
def State.regionPool (s : State) (rid cl : Nat) : List Nat :=
  (s.placedCores rid cl).map (fun c => bankKey cl (32 + coreOf c))

/-- The change of R120's table for a region: a bank and its new role. -/
def State.poolChange (s : State) (rid cl : Nat) : Option (Nat × Role) :=
  let lim := (s.cluster cl).limitsOf rid
  let pool := s.regionPool rid cl
  let cache := pool.filter (fun b => (s.bank b).role = .cache)
  let free := pool.find? (fun b => (s.bank b).role = .free)
  let sum (f : Bank → Nat) : Nat := (cache.map (fun b => f (s.bank b))).foldl (· + ·) 0
  let sampled := sum (·.sampled)
  let top := cache.getLast?
  let out : Option (Nat × Role) := top.map (fun b => (b, .leaving rid none))
  let into : Option (Nat × Role) := free.map (fun b => (b, .cache))
  if cache.length < lim.cacheMin && free.isSome then into
  else if lim.cacheMax < cache.length then out
  else if 0 < sampled && sampled ≤ 16 * sum (·.shadowHits) && cache.length < lim.cacheMax && free.isSome then into
  else match top with
    | some b =>
      let x := s.bank b
      if 0 < x.sampled && 64 * x.hits < x.sampled && lim.cacheMin < cache.length then out else none
    | none => none

/-- One region's turn: its change, and its counts start again. -/
def State.sampleRegion (s : State) (cl rid : Nat) : State :=
  let change := s.poolChange rid cl
  let s := (s.regionPool rid cl).foldl (fun s b => s.modBank b (fun x => { x with sampled := 0, hits := 0, shadowHits := 0 })) s
  match change with
  | some (b, role) => s.modBank b (fun x => { x with role := role })
  | none => s

/-- The regions of a cluster. -/
def State.clusterRegions (s : State) (cl : Nat) : List Nat :=
  ((List.range 16).filterMap (fun j => (s.core (32 * cl + j)).region)).foldl NatSet.add []

def canSample (s : State) (cl : Nat) : Bool :=
  let c := s.cycOf (cl / 144)
  c ≠ 0 && c % 65536 = 0

/-- `POOL_SAMPLING_INTERVAL` (R120). -/
def execPoolSamplingInterval (cl : Nat) (s : State) : Out' :=
  .next (if canSample s cl then (s.clusterRegions cl).foldl (fun s r => s.sampleRegion cl r) s else s)

end Sys2Proof.Machine
end

