-- ==== Sys2Proof/Machine/Contain.lean ====
section
/-! DEFINITION. Containment (R339 to R342, R349, R356): uncorrectable errors, the scrubber, cluster reset, die links and
Porrok ports; the tinker's service requests (R337). -/

namespace Sys2Proof.Machine

/-! ### Cluster reset (R339) -/

/-- A record of a region that no single thread raises: it names a tile of the region. -/
def State.regionRecord (s : State) (rid code kind cid : Nat) (w2 w5 : Word) : State :=
  s.writeRecord rid kind (mkRecord code kind cid 0 s.host.pkgId rid (s.core cid).team 0 w2 0 w5 0 0)

/-- The coordinate word of a cluster. -/
def State.clCoord (s : State) (cl : Nat) : Word := wrap64 (s.coord (32 * cl))

/-- A region with a team on the cluster stops, with its record. -/
def State.stopForReset (s : State) (cl cause rid : Nat) : State :=
  let cid := ((s.placedCores rid cl).head?).getD (32 * cl)
  let s := s.regionRecord rid fPoison 5 cid (s.clCoord cl) (wrap64 cause)
  s.modRegion rid (fun r => { r with stopDue := true, teams := r.teams.map (fun (e : Nat × Team) =>
    (e.1, if e.2.st = .saving && e.2.cl = cl then { e.2 with st := .placed, saved := [] } else e.2)) })

/-- What a cluster's engines and its tinker held is gone. -/
def Cluster.afterReset (k : Cluster) (deadline : Nat) : Cluster :=
  { k with copyQ := [], copyBack := [], tkBack := [], copies := [], ready := [], mxQ := [], mxRun := none, mxprog := 0, tkQ := [], tkRun := none,
           services := [], serving := false, resetAt := some deadline, draining := none }

/-- Commit-table pairs of a cluster's cores, and entries at the cluster itself, are freed; their held stores are
discarded unperformed: one from a core elsewhere is acknowledged refused, as those that follow it are (log entry 119). -/
def State.freeCommits (s : State) (cl : Nat) : State :=
  let gone (c : Commit) : Bool := clOf c.src = cl || c.dest = cl
  let ids := (s.commits.filter gone).flatMap (fun c => c.held.map (·.2))
  let s := { s with commits := s.commits.filter (fun c => !gone c) }
  (s.reqs.filter (fun r => ids.contains r.id)).foldl (fun s r =>
    if clOf r.cid = cl then (s.endReq r).pairAck r else s.nullStore r) s

/-- Packets that a cluster is injecting as it is reset (log entry 105): a flit that left in this cycle is completed with
poisoned beats, and a request that was sent in it is discarded at its receiver. -/
def State.cutPackets (s : State) (cl : Nat) : State :=
  let injected (r : Req) : Bool := clOf r.cid = cl && r.born = s.cyc && r.stage = .sent && !r.buffered &&
    (r.space = .global || r.space = .remote)
  let cut (f : Flit) : Flit := if clOf (coordCid f.src) = cl && f.sent = s.cyc then { f with poisoned := true } else f
  let s := { s with flits := s.flits.map cut }
  (s.reqs.filter injected).foldl (fun s r => s.endReq r) s

def resetCluster (s : State) (cl cause : Nat) : State :=
  let s := (s.cutPackets cl).freeCommits cl
  let s := (s.clusterRegions cl).foldl (fun s r => s.stopForReset cl cause r) s
  let here (c : Cmd) : Bool := c.cl = cl
  let ids := (s.tallies.filter (fun t => here t.cmd)).map (fun t => t.cmd.id)
  let s := { s with tallies := s.tallies.filter (fun t => !here t.cmd), reports := s.reports.filter (fun r => !ids.contains r.cmd),
                    wbs := s.wbs.filter (fun w => clOf w.cid ≠ cl) }
  let s := s.setThread (32 * cl + 16) 0 Thread.fresh
  s.modCluster cl (fun k => k.afterReset (s.cyc + 65536))

/-- `CLUSTER_RESET` (R339). -/
def execClusterReset (cl : Nat) (cause : Fin 3) (s : State) : Out' :=
  .next (if cl < 576 then resetCluster s cl cause.val else s)

/-- A save, or a stop, of a region keeps a cluster draining. -/
def State.drains (s : State) (cl : Nat) : Bool :=
  (s.clusterRegions cl).any (fun rid => match s.region? rid with
    | some r => r.stopDue || r.teams.any (fun (_, t) => t.st = .saving && t.cl = cl)
    | none => false)

/-- The cycle since which each cluster drains. -/
def State.noteDrains (s : State) : State :=
  let one (e : Nat × Cluster) : Nat × Cluster :=
    (e.1, if s.drains e.1 then { e.2 with draining := some (e.2.draining.getD s.cyc) } else { e.2 with draining := none })
  { s with clusters := s.clusters.map one }

def canTimeout (s : State) (cl : Nat) : Bool :=
  cl < 576 && (match (s.cluster cl).draining with | some c => c + 2 ^ 20 ≤ s.cyc | none => false)

/-- `DRAIN_TIMEOUT` (R339). -/
def execDrainTimeout (cl : Nat) (s : State) : Out' := .next (if canTimeout s cl then resetCluster s cl 1 else s)

/-- The regions of the cluster have been stopped. -/
def canClearCluster (s : State) (cl : Nat) : Bool := (s.cluster cl).resetAt.isSome && (s.clusterRegions cl).isEmpty

def clearCluster (s : State) (cl : Nat) : State :=
  let s := (List.range 48).foldl (fun s b => (s.clearBank cl b).modBank (bankKey cl b)
    (fun x => { Bank.fresh (if b < 32 then .home else .free) with apply := x.apply })) s
  s.setCluster cl Cluster.fresh

/-- `CLUSTER_CLEAR_END` (R339). -/
def execClusterClearEnd (cl : Nat) (s : State) : Out' := .next (if canClearCluster s cl then clearCluster s cl else s)

/-! ### Soft errors (R341, R342) -/

/-- A key of a word that memory or scratch has. -/
def realKey (key : Nat) : Bool :=
  if key < 2 ^ 56 then backing key ≠ .nothing
  else (key - 2 ^ 56) / 2 ^ 23 < 576 && (key - 2 ^ 56) % 2 ^ 23 < scratchBytes

/-- `UNCORRECTABLE_ERROR` (R339, R341, R354): in a word; 2^60 + a cluster, in what a reset clears; 2^62 + a PA, in the LPDDR6
burst that fills the eight words of its 64 bytes. -/
def execUncorrectableError (key : Nat) (s : State) : Out' :=
  .next (
    let count (s : State) : State := { s with alavis := { s.alavis with uncorrected := s.alavis.uncorrected + 1 } }
    if 2 ^ 62 ≤ key then
      (match backing (key - 2 ^ 62) with
        | .dram _ => count { s with poison := (List.range 8).foldl (fun p i => NatSet.add p ((key - 2 ^ 62) / 64 * 8 + i)) s.poison }
        | _ => s)
    else if 2 ^ 60 ≤ key then (if key - 2 ^ 60 < 576 then count (resetCluster s (key - 2 ^ 60) 0) else s)
    else if realKey key then count { s with poison := NatSet.add s.poison (key / 8) }
    else s)

/-- The address of a word as the event log shows it: a PA, or a scratch address with its cluster's coordinate word. -/
def State.logAddr (s : State) (key : Nat) : Word × Word :=
  if key < 2 ^ 56 then (wrap64 (key / 8 * 8), 0)
  else (wrap64 ((key - 2 ^ 56) % 2 ^ 23 / 8 * 8), 2 ^ 63 + s.clCoord ((key - 2 ^ 56) / 2 ^ 23))

/-- `SCRUB_ACCESS` (R341, R342, R363). -/
def execScrubAccess (key : Nat) (s : State) : Out' :=
  .next (
    if 2 ^ 61 ≤ key then
      (if realKey (key - 2 ^ 61) then { s with alavis := { s.alavis with corrected := s.alavis.corrected + 1 } } else s)
    else if realKey key && s.poison.contains (key / 8) then
      s.logEvent 2 fPoison (s.logAddr key).1 (s.logAddr key).2
    else s)

/-! ### Die links (R6, R340) -/

/-- Dies on which a region has placed teams. -/
def State.diesOf (s : State) (rid : Nat) : List Nat := ((s.tiles rid).map dieOf).foldl NatSet.add []

/-- The pair of dies for which a region is stopped when the link between x and y fails. -/
def State.cutPair (s0 s1 : State) (rid x y : Nat) : Option (Nat × Nat) :=
  let ds := s1.diesOf rid
  let both (p : Nat × Nat) : Bool := ds.contains p.1 && ds.contains p.2
  if both (min x y, max x y) then some (min x y, max x y)
  else [(0, 3), (1, 2)].find? (fun p => both p && s0.diesLinked p.1 p.2 && !s1.diesLinked p.1 p.2)

def failLink (s : State) (x y : Nat) : State :=
  let s1 := { s with linksDown := NatSet.add s.linksDown (linkCode x y) }
  (s1.regions.map (·.1)).foldl (fun t rid =>
    match s1.region? rid, State.cutPair s s1 rid x y with
    | some r, some (a, b) =>
      if r.live && !r.stopDue then
        (t.regionRecord rid fLinkDown 4 (((s1.tiles rid).head?).getD 0) 0 (wrap64 (a + 4 * b))).modRegion rid
          (fun r => { r with stopDue := true })
      else t
    | _, _ => t) s1

/-- Dies that share a link. -/
def linked (x y : Nat) : Bool := x ≠ y && x + y ≠ 3

/-- `DIE_LINK_FAILURE` (R340). -/
def execDieLinkFailure (x y : Fin 4) (s : State) : Out' :=
  .next (if linked x.val y.val && !s.linksDown.contains (linkCode x.val y.val) then failLink s x.val y.val else s)

/-- `DIE_LINK_RETRAIN` (R340). -/
def execDieLinkRetrain (x y : Fin 4) (s : State) : Out' :=
  .next { s with linksDown := s.linksDown.filter (fun c => c ≠ linkCode x.val y.val) }

/-! ### Porrok ports (R349, R355, R356) -/

/-- The package that a request needs. -/
def State.needsPkg (s : State) (r : Req) (p : Piece) : Nat :=
  if r.scratchy then (if farCluster r.cl then r.cl / 1024 - 1 else s.host.pkgId)
  else if r.space = .none then s.host.pkgId
  else paPkg s.host.pkgId p.key

/-- A request under way whose package no live port reaches any more. -/
def State.cutReq (s : State) (r : Req) : Option Piece :=
  if r.stage.performed || r.stage = .walking then none
  else r.pieces.find? (fun p => !p.done && !s.pkgReach (s.needsPkg r p))

/-- Regions with placed teams here and in a package that has gone out of reach stop with one record (R356). -/
def State.stopFar (s : State) : State :=
  s.regions.foldl (fun s (rid, r) => match r.farPkgs.find? (fun k => !s.pkgReach k) with
    | some k =>
      if r.live && !r.stopDue && r.teams.any (fun (_, t) => t.st = .placed) then
        (s.regionRecord rid fLinkDown 4 (((s.tiles rid).head?).getD 0) 0 (wrap64 (2 ^ 16 + k))).modRegion rid
          (fun r => { r with stopDue := true })
      else s
    | none => s) s

/-- `PORROK_PORT_DOWN` (R356): regions that span the cut stop, and requests that no live port can carry stop their
threads. -/
def execPorrokPortDown (port : Fin 16) (s : State) : Out' :=
  .next (
    let s := ({ s with portsDown := NatSet.add s.portsDown port.val }).stopFar
    (s.reqs.map (·.id)).foldl (fun s id => match s.req? id with
      | some r => match s.cutReq r with
        | some p => s.failReq r (fltAt fLinkDown (r.eaOf s p))
        | none => s
      | none => s) s)

/-- `PORROK_PORT_RETRAIN` (R349, R356): a port whose partner presents this package's id is marked down and logged. -/
def execPorrokPortRetrain (port : Fin 16) (s : State) : Out' :=
  .next (if Config.partnerId port.val = s.host.pkgId then
      ({ s with portsDown := NatSet.add s.portsDown port.val }).logEvent 4 1 (wrap64 port.val) (wrap64 s.host.pkgId)
    else { s with portsDown := s.portsDown.filter (fun p => p ≠ port.val) })

/-! ### The tinker (R337) -/

/-- A request waits and no routine runs. -/
def canService (s : State) (cl : Nat) : Bool := !(s.cluster cl).serving && !(s.cluster cl).services.isEmpty && (s.cluster cl).resetAt.isNone

/-- `TINKER_SERVICE_DISPATCH` (R337). -/
def execTinkerServiceDispatch (cl : Nat) (s : State) : Out' :=
  .next (if canService s cl then
    (s.setThread (32 * cl + 16) 0 { Thread.fresh with state := .ready }).modCluster cl (fun k => { k with serving := true })
  else s)

/-- `TINKER_FAULT_RESTART` (R337): a fault of the firmware is logged and its routine is gone. -/
def execTinkerFaultRestart (cl : Nat) (s : State) : Out' :=
  .next (if (s.cluster cl).serving then
    ((s.logEvent 1 0 (s.clCoord cl) 0).setThread (32 * cl + 16) 0 Thread.fresh).modCluster cl (fun k => { k with serving := false })
  else s)

end Sys2Proof.Machine
end

