-- ==== Sys2Proof/Machine/Host.lean ====
section
/-! DEFINITION. The host link (R343, R345 to R353): launches, region control, migration, features, notices, CXL accesses;
and the drovers (R357, R358). -/

namespace Sys2Proof.Machine

def State.modHost (s : State) (f : HostRegs → HostRegs) : State := { s with host := f s.host }
/-- A value returned to the host. -/
def State.answer (s : State) (v : Word) : State := s.modHost (fun h => { h with answers := v :: h.answers })

/-- What the host sends arrives once bring-up has trained the CXL link (R364). -/
def overCxl (s : State) (o : Out') : Out' := if s.up then o else .next s

/-! ### Launches (R350) -/

/-- A result of `lres_p`: result code, offending bit, region id. -/
def lresWord (result bit id : Nat) : Word := wrap64 (2 ^ 63 + result * 2 ^ 60 + bit * 2 ^ 40 + id)

/-- The state and result of a write to launch register p. -/
def launchRoot (s : State) (p : Nat) (v : Word) : State × Word :=
  let n := v.toNat
  if !s.up || !s.host.featWritten then (s, lresWord 3 0 0)
  else if n / 2 ^ 56 ≠ 0 || n % 2 ^ 8 ≠ 0 || backing n = .nothing then (s, lresWord 1 0xFF 0)
  else match s.checkBlock n n none 0 (some p) none with
  | .refused b => (s, lresWord 1 b 0)
  | .ok r ds => if 1024 ≤ s.queued p then (s, lresWord 2 0 0) else (s.acceptRegion r ds [], lresWord 0 0 r.id)

/-- `LAUNCH_REGISTER_WRITE` (R350). -/
def execLaunchRegisterWrite (p : Nat) (v : Word) (s : State) : Out' :=
  .next (if p < 8 then
    let x := launchRoot s p v
    x.1.modHost (fun h => { h with lres := Table.put 0 h.lres p x.2 })
  else s)

/-- `LRES_READ` (R350). -/
def execLresRead (p : Nat) (s : State) : Out' := overCxl s <| .next (if p < 8 then s.answer (Table.get 0 s.host.lres p) else s)

/-! ### Region control (R343, R352) -/

/-- The live region whose block lies at rc_arg. -/
def State.rcRegion (s : State) : Option Nat :=
  (s.regions.find? (fun (_, r) => r.live && r.blockPa = s.host.rcArg.toNat)).map (·.1)

def State.rcDone (s : State) (result : Nat) : State :=
  s.modHost (fun h => { h with rcRes := wrap64 (2 ^ 63 + result * 2 ^ 60) })

/-- A command of an operation: refused with a reserved bit set, or with no such region; else `f` acts on the region. -/
def rcCommand (op : Nat) (v : Word) (f : Region → Region) (s : State) : State :=
  if v.toNat / 2 ^ 62 ≠ op then s
  else if op = 0 || v.toNat / 2 ^ 16 % 2 ^ 46 ≠ 0 then s.rcDone 2
  else match s.rcRegion with
  | none => s.rcDone 1
  | some rid => (s.modRegion rid f).rcDone 0

/-- `RC_STOP` (R352). -/
def execRcStop (v : Word) (s : State) : Out' := overCxl s <| .next (rcCommand 1 v (fun r => { r with stopDue := true }) s)

/-- `RC_DISPLACE` (R343, R352): the teams at or above j are held. -/
def execRcDisplace (v : Word) (s : State) : Out' := overCxl s <|
  .next (rcCommand 2 v (fun r => { r with hold := some (match r.hold with
    | some j => min j (v.toNat % 2 ^ 16)
    | none => v.toNat % 2 ^ 16) }) s)

/-- `RC_RESUME` (R352); operation 00 is refused. -/
def execRcResume (v : Word) (s : State) : Out' := overCxl s <|
  .next (if v.toNat / 2 ^ 62 = 0 then rcCommand 0 v id s else rcCommand 3 v (fun r => { r with hold := none }) s)

/-- `RC_RES_READ` (R352). -/
def execRcResRead (s : State) : Out' := overCxl s <| .next (s.answer s.host.rcRes)

/-! ### Migration (R196, R353) -/

/-- The PA of the leaf entry of a mapped VA. -/
def leafAt (s : State) (va : Nat) : List (Nat × Nat × Nat) → Nat → Option Nat
  | [], _ => none
  | (level, lo, w) :: rest, table =>
    let a := table + 8 * (va / 2 ^ lo % 2 ^ w)
    let e := s.dw (s.fwd a)
    if !pteV e || pteMalformed level lo e then none
    else if pteLeaf e then some a
    else leafAt s va rest (ptePa e)

/-- The migration that a command asks for; none where it is refused. -/
def State.migWanted (s : State) (v : Word) : Option Migration :=
  let bits := if v.toNat = 1 then 21 else 16
  let va := s.host.migVa.toNat
  let new := s.host.migPa.toNat
  let room : Bool := match backing new, backing (new + 2 ^ bits - 1) with
    | .dram _, .dram _ => true
    | .stack _ _, .stack _ _ => true
    | _, _ => false
  if 1 < v.toNat || s.host.mig.isSome || 2 ^ 57 ≤ va || va % 2 ^ bits ≠ 0 || new % 2 ^ bits ≠ 0 || !room then none
  else match s.regions.find? (fun (_, r) => r.live && r.blockPa = s.host.migBlock.toNat) with
  | none => none
  | some (rid, r) => match s.walk r va with
    | .leaf e b => if b = bits && !pteRep e then some ⟨rid, va, 2 ^ bits, ptePa e, new, 0⟩ else none
    | _ => none

/-- `MIGRATION_REQUEST` (R353). -/
def execMigrationRequest (v : Word) (s : State) : Out' := overCxl s <|
  .next (match s.migWanted v with
    | some m => s.modHost (fun h => { h with mig := some m, migRes := wrap64 (2 ^ 63) })
    | none => s.modHost (fun h => { h with migRes := wrap64 ((if h.mig.isSome then 2 ^ 63 else 0) + 2 ^ 60) }))

/-- The leaf entry of a migrating page. -/
def State.migLeaf (s : State) (m : Migration) : Option Nat :=
  (s.region? m.rid).bind (fun r => leafAt s m.va walkLevels (r.field 11))

/-- The next line of a migration can be copied: the tinker may access it, the path between its homes is up (R6), and with the
last line the leaf's. -/
def canCopyLine (s : State) : Bool :=
  match s.host.mig with
  | some m =>
    let src := m.old + 128 * m.copied
    let dst := m.new + 128 * m.copied
    m.copied * 128 < m.size && s.tinkerClear src && s.diesLinked (homeSlice src / 32) (homeSlice dst / 32) &&
    (m.copied * 128 + 128 < m.size || (match s.migLeaf m with | some a => s.tinkerClear (s.fwd a) | none => true))
  | none => false

/-- The leaf of a migrated page names the new backing, and stale translations go (R191, R196). -/
def State.moveLeaf (s : State) (m : Migration) : State :=
  match s.migLeaf m with
  | some a =>
    let e := s.dw (s.fwd a)
    (s.homeWrite (s.fwd a) 8 (e - ptePa e + m.new)).tlbDrop m.rid m.va (if m.size = 2 ^ 21 then 21 else 16)
  | none => s

/-- A line is copied at its new home, poison with it; with the last one the leaf is rewritten. -/
def copyLine (s : State) : State :=
  match s.host.mig with
  | none => s
  | some m =>
    let src := m.old + 128 * m.copied
    let dst := m.new + 128 * m.copied
    let s := ((s.returnGrant (lineOf src)).invalidate (lineOf src) none).homeWrite dst 128 (s.read src 128)
    let s := { s with poison := (wordsIn s.poison src 128).foldl (fun p w => NatSet.add p ((dst + (8 * w - src)) / 8)) s.poison }
    let m := { m with copied := m.copied + 1 }
    let s := s.modHost (fun h => { h with mig := some m })
    if m.size ≤ m.copied * 128 then s.moveLeaf m else s

/-- `MIGRATION_LINE_COPY` (R196). -/
def execMigrationLineCopy (s : State) : Out' := .next (if canCopyLine s then copyLine s else s)

/-- Every line is copied and no request under the old translation is under way. -/
def canEndMigration (s : State) : Bool :=
  match s.host.mig with
  | some m => m.size ≤ m.copied * 128 && !s.reqs.any (fun r => !r.scratchy && !r.stage.performed && r.stage ≠ .walking &&
      r.pieces.any (fun p => !p.done && m.old ≤ p.key && p.key < m.old + m.size))
  | none => false

/-- What the machine keeps by PA goes with the lines of a page: held `AFADD`s, and the blocks of regions (R277). -/
def State.moveKept (s : State) : State :=
  let moved (a : AfEntry) : AfEntry := { a with key := s.fwd a.key }
  let region (e : Nat × Region) : Nat × Region := (e.1, if e.2.live then { e.2 with blockPa := s.fwd e.2.blockPa } else e.2)
  { s with slices := s.slices.map (fun (e : Nat × Slice) => (e.1, { e.2 with held := e.2.held.map moved }))
           regions := s.regions.map region }

/-- `MIGRATION_END` (R196, R353): what is kept by PA goes with the lines, and vector 2 is raised. -/
def execMigrationEnd (s : State) : Out' :=
  .next (if canEndMigration s then
    let s := s.moveKept
    s.modHost (fun h => HostRegs.raise { h with mig := none, migRes := 0 } 2)
  else s)

/-! ### Features, package id, notices, interrupts (R347 to R349, R351) -/

/-- `FEAT_ACCEPT_WRITE` (R348): the offered bits, until the first launch is accepted. -/
def execFeatAcceptWrite (v : Word) (s : State) : Out' := overCxl s <|
  .next (if s.host.locked then s else s.modHost (fun h => { h with featAccept := v &&& 0x3F, featWritten := true }))

/-- `PKG_ID_WRITE` (R349). -/
def execPkgIdWrite (v : Word) (s : State) : Out' := overCxl s <|
  .next (if s.host.locked then s else s.modHost (fun h => { h with pkgId := v.toNat % 2 ^ 12 }))

/-- `NQ_HEAD_WRITE` (R351). -/
def execNqHeadWrite (v : Word) (s : State) : Out' := overCxl s <|
  .next (s.modHost (fun h =>
    let h := { h with nqHead := v, vec0Out := false }
    if v.toNat % 2 ^ 32 = h.nqTail then h else h.raise 0))

/-- `MSIX_VECTOR_UNMASK` (R351). -/
def execMsixVectorUnmask (v : Fin 3) (s : State) : Out' := overCxl s <|
  .next (s.modHost (fun h =>
    let h' := { h with masked := h.masked.filter (fun x => x ≠ v.val), pending := h.pending.filter (fun x => x ≠ v.val) }
    if h.pending.contains v.val then h'.raise v.val else h'))

/-- `REGISTER_WRITE` (R347): what each plain register stores of a write; every other offset ignores it. -/
def execRegisterWrite (off : Nat) (v : Word) (s : State) : Out' := overCxl s <|
  .next (s.modHost (fun h =>
    if off = 0xC0 then { h with rcArg := v }
    else if off = 0x100 then { h with migBlock := v }
    else if off = 0x108 then { h with migVa := v }
    else if off = 0x110 then { h with migPa := v }
    else if off = 0x200 then { h with nqBase := wrap64 (v.toNat / 4096 * 4096) }
    else if 0x8000 ≤ off && off < 0x10000 && off % 8 = 0 then
      { h with route := Table.put 0 h.route ((off - 0x8000) / 8) (wrap64 (v.toNat % 2 ^ 16)) }
    else h))

/-! ### CXL (R346) -/

/-- A line that a host access reaches is free for it. -/
def State.hostLine (s : State) (pa : Nat) : Bool := s.tinkerClear (s.fwd pa)

/-- Bytes as a little-endian number. -/
def bytesNat : List Byte → Nat
  | [] => 0
  | b :: t => b.toNat + 256 * bytesNat t

/-- The access lies in one 64-byte line of memory that the host can reach. -/
def hostRange (pa n : Nat) : Bool := 0 < n && pa % 64 + n ≤ 64

def hostMemory (pa : Nat) : Bool := match backing pa with
  | .dram _ => true
  | .host => true
  | _ => false

/-- The PA of a host physical address (R186, R346): through the HDM decoder that maps it, local LPDDR6 of package 0; else
host memory. -/
def State.hostPa (s : State) (hpa : Nat) : Nat :=
  match s.host.hdm.find? (fun e => e.2.1 ≤ hpa && hpa < e.2.1 + e.2.2.1) with
  | some (_, base, _, off) => off + (hpa - base)
  | none => 2 ^ 55 + hpa % 2 ^ 55

/-- What a register of the BAR0 window reads (R347): an offset that is not listed reads 0. -/
def State.hostReg (s : State) (off : Nat) : Word :=
  let h := s.host
  if off = 0 then 0x3F
  else if off = 0x8 then h.featAccept
  else if off = 0x10 then wrap64 h.pkgId
  else if 0x80 ≤ off && off < 0xC0 && off % 8 = 0 then Table.get 0 h.lres ((off - 0x80) / 8)
  else if off = 0xD0 then h.rcRes
  else if off = 0x120 then h.migRes
  else if off = 0x200 then h.nqBase
  else if off = 0x208 then wrap64 h.nqTail
  else if off = 0x210 then h.nqHead
  else if off = 0x218 then wrap64 h.nqLost
  else if 0x400 ≤ off && off < 0x500 && off % 64 < 32 && off % 8 = 0 then
    Table.get (0 : Word) h.drover (4 * ((off - 0x400) / 64) + off % 64 / 8)
  else if 0x8000 ≤ off && off < 0x10000 && off % 8 = 0 then Table.get 0 h.route ((off - 0x8000) / 8)
  else if off % 8 = 0 && ((0x40 ≤ off && off < 0x80) || off = 0xC0 || off = 0xC8 || (0x100 ≤ off && off ≤ 0x118)) then
    Config.writeOnlyRead off
  else 0

/-- `HOST_CXL_ACCESS` (R346): performed at the home slice, as an agent of scope `.sys`; a line that is pinned or owned
makes it wait. A decoder is set, a register read (R347), and an MSI-X vector masked (R351), at once. -/
def execHostCxlAccess (acc : HostAccess) (s : State) : Out' := overCxl s <|
  match acc with
  | .decoder i base size off => .next (s.modHost (fun h => { h with hdm := Table.set h.hdm i.val (base, size, off) }))
  | .readReg off => .next (s.answer (s.hostReg off))
  | .mask v => .next (s.modHost (fun h => { h with masked := NatSet.add h.masked v.val }))
  | .load hpa n =>
    let pa := s.hostPa hpa
    if !hostRange pa n then .next s
    else if !hostMemory pa then .fault .absentMemory
    else if !s.hostLine pa then .next s
    else
      let s := s.lineSeen (lineOf (s.fwd pa)) engineCid
      .next (((List.range ((n + 7) / 8)).map (fun i => wrap64 (s.read (s.fwd pa + 8 * i) (min 8 (n - 8 * i))))).foldl (fun s v => s.answer v) s)
  | .store hpa bs =>
    let pa := s.hostPa hpa
    if !hostRange pa bs.length then .next s
    else if !hostMemory pa then .fault .absentMemory
    else if !s.hostLine pa then .next s
    else .next ((s.returnGrant (lineOf (s.fwd pa))).lineWrite engineCid false (s.fwd pa) bs.length (bytesNat bs))

/-- `HOST_SNOOP` (R346): a host line leaves every cache of the part. -/
def execHostSnoop (line : Nat) (s : State) : Out' := overCxl s <|
  .next (if backing (128 * line) = .host && s.hostLine (128 * line) then (s.returnGrant line).invalidate line none else s)

/-! ### Drovers (R357, R358) -/

/-- Doubleword i of a drover's configuration. -/
def State.droverReg (s : State) (die i : Nat) : Nat := (Table.get (0 : Word) s.host.drover (4 * die + i)).toNat

def Drover.fresh : Drover := { pending := [], taken := 0, logged := false }
def State.drover (s : State) (die : Nat) : Drover := Table.get Drover.fresh s.drovers die
def State.modDrover (s : State) (die : Nat) (f : Drover → Drover) : State :=
  { s with drovers := Table.set s.drovers die (f (s.drover die)) }

/-- The region whose block a drover's entries are translated through. -/
def State.droverRegion (s : State) (die : Nat) : Option Region :=
  (s.regions.find? (fun (_, r) => r.live && r.blockPa = s.droverReg die 3)).map (·.2)

/-- `DROVER_CONFIG_WRITE` (R347, R357): an enable whose block is not live is logged. -/
def execDroverConfigWrite (die : Fin 4) (dw : Fin 4) (v : Word) (s : State) : Out' := overCxl s <|
  .next (
    let n := v.toNat
    let kept : Nat := match dw.val with
      | 0 => n % 2 ^ 56 / 4096 * 4096
      | 1 => n % 2 ^ 56 / 4096 * 4096
      | 2 => n % 2
      | _ => n % 2 ^ 56
    let s := s.modHost (fun h => { h with drover := Table.put 0 h.drover (4 * die.val + dw.val) (wrap64 kept) })
    if dw.val = 2 && n % 2 = 1 && (s.droverRegion die.val).isNone then s.logEvent 5 1 (wrap64 die.val) (wrap64 (s.droverReg die.val 3)) else s)

/-- A doubleword at its home, in a page that may be migrating (R196). -/
def State.dwAt (s : State) (pa : Nat) : Nat := s.dw (s.fwd pa)

/-- Ring counters. -/
def State.ringTail (s : State) (die : Nat) : Nat := s.dwAt (s.droverReg die 0 + 0x20000) % 2 ^ 32
def State.ringHead (s : State) (die : Nat) : Nat := s.dwAt (s.droverReg die 0 + 0x20008) % 2 ^ 32
/-- How far the tail is ahead of the head: more than 4,096 is out of bound (R357). -/
def State.ringAhead (s : State) (die : Nat) : Nat := (s.ringTail die + 2 ^ 32 - s.ringHead die) % 2 ^ 32
/-- The next entry's index, and how many entries wait. -/
def State.ringNext (s : State) (die : Nat) : Nat := (s.ringHead die + (s.drover die).taken) % 2 ^ 32
def State.ringWaits (s : State) (die : Nat) : Nat := (s.ringTail die + 2 ^ 32 - s.ringNext die) % 2 ^ 32
/-- The PA of the next entry. -/
def State.ringEntry (s : State) (die : Nat) : Nat := s.droverReg die 0 + 32 * (s.ringNext die % 4096)

/-- A destination: its package, buffer, second choice and row length. -/
structure Dest where
  pkg : Nat
  buf : Nat
  second : Option Nat
  row : Nat
  deriving DecidableEq, Repr

def State.destAt (s : State) (die d : Nat) : Dest :=
  let a := s.droverReg die 1 + 32 * d
  let w (i : Nat) : Nat := s.dwAt (a + 8 * i)
  let pkg := w 0 % 2 ^ 12
  let pa := w 1
  { pkg := pkg, buf := if 2 ^ 55 ≤ pa then pa else pkg * 2 ^ 43 + pa % 2 ^ 43,
    second := if w 2 / 2 ^ 10 % 2 = 1 then some (w 2 % 2 ^ 10) else none, row := w 3 }

/-- Rows that a destination's buffer holds, those whose count is not written yet included. -/
def State.destRows (s : State) (die d : Nat) : Nat :=
  s.dwAt (s.destAt die d).buf % 2 ^ 32 + Table.get 0 (s.drover die).pending d

/-- A write by a drover. -/
def State.droverWrite (s : State) (pa n v : Nat) : State := (s.returnGrant (lineOf (s.fwd pa))).lineWrite engineCid false (s.fwd pa) n v

/-- The count of a destination's buffer is written. -/
def State.writeCount (s : State) (die d : Nat) : State :=
  let n := s.destRows die d
  (s.droverWrite (s.destAt die d).buf 8 n).modDrover die (fun x => { x with pending := Table.erase x.pending d })

/-- The head is written. -/
def State.writeHead (s : State) (die : Nat) : State :=
  let h := s.ringNext die
  (s.droverWrite (s.droverReg die 0 + 0x20008) 8 h).modDrover die (fun x => { x with taken := 0 })

/-- The ring is drained: every pending count is written, then the head. -/
def State.flushDrover (s : State) (die : Nat) : State :=
  if (s.drover die).taken = 0 && (s.drover die).pending.isEmpty then s
  else (((s.drover die).pending.map (·.1)).foldl (fun s d => s.writeCount die d) s).writeHead die

/-- What becomes of an entry: sent to a destination, waits, or faults. -/
inductive DroverAct where
  | send (d : Nat) (row : List (Nat × Bool))
  | wait
  | bad
  deriving DecidableEq, Repr

/-- The row of an entry in 8-byte parts, each with whether it is poisoned (R341); none where a page is missing. -/
def State.rowOf (s : State) (r : Region) (die va n : Nat) : Option (List (Nat × Bool)) :=
  (List.range (n / 8)).mapM (fun i => (s.readVa r die (va + 8 * i) 8).map (fun v => (v, (s.cleanVa r die (va + 8 * i) 8).isNone)))

/-- The drover may access n bytes at a PA now (R220, R222): no pin, no engine and no path that is down stands in its way. -/
def State.droverClear (s : State) (die pa n : Nat) : Bool :=
  (List.range ((pa % 128 + n + 127) / 128)).all (fun i =>
    s.engClear (32 * (144 * die) + 16) (s.fwd (pa / 128 * 128 + 128 * i)) (fun _ => false))

/-- It may read a destination's entry and its buffer's count. -/
def State.destClear (s : State) (die d : Nat) : Bool :=
  s.droverClear die (s.droverReg die 1 + 32 * d) 32 && s.droverClear die (s.destAt die d).buf 8

/-- It may read the ring's counters, which share a line. -/
def State.ringClear (s : State) (die : Nat) : Bool := s.droverClear die (s.droverReg die 0 + 0x20000) 16

/-- What it writes besides a row: the counts of the destinations that wait for theirs, and the head. -/
def State.countsClear (s : State) (die : Nat) (ds : List Nat) : Bool := ds.all (s.destClear die) && s.ringClear die

/-- The lines of a row's source are clear, and its walks' paths up. -/
def State.rowClear (s : State) (r : Region) (die va n : Nat) : Bool :=
  (s.pathCut r die va n).isNone && (List.range (n / 8)).all (fun i => match s.translate r die (va + 8 * i) false false with
    | .pa pa _ _ => s.droverClear die pa 8
    | _ => true)

def State.droverAct (s : State) (die : Nat) (r : Region) : DroverAct :=
  let e := s.ringEntry die
  let d := s.dwAt e
  if !s.droverClear die e 32 then .wait
  else if 1024 ≤ d then .bad
  else
    let first := s.destAt die d
    let open' (d : Nat) : Bool := s.destClear die d && s.destRows die d < 32
    let goes : Option Nat := if open' d then some d
      else if s.destClear die d then first.second.bind (fun x => if open' x then some x else none)
      else none
    match goes with
    | none => .wait
    | some d =>
      let t := s.destAt die d
      let last := t.buf + 64 + 32 * (64 + t.row) - 1
      if t.row < 64 || 4096 < t.row || t.row % 64 ≠ 0 || t.buf % 64 ≠ 0 || backing t.buf = .nothing || backing last = .nothing ||
          2 ^ 57 < s.dwAt (e + 16) + t.row then .bad
      else if !s.pkgReach t.pkg || !s.droverClear die (t.buf + 64 + s.destRows die d * (64 + t.row)) (64 + t.row) ||
          !s.countsClear die [d] || !s.rowClear r die (s.dwAt (e + 16)) t.row then .wait
      else match s.rowOf r die (s.dwAt (e + 16)) t.row with
        | some row => .send d row
        | none => .bad

/-- A word that a drover copies, its poison with it (R341). -/
def State.droverCopy (s : State) (pa : Nat) (w : Nat × Bool) : State :=
  let t := s.droverWrite pa 8 w.1
  if w.2 then { t with poison := NatSet.add t.poison (t.fwd pa / 8) } else t

/-- A row is written to its slot: tag, 56 zero bytes, row. -/
def State.sendRow (s : State) (die d : Nat) (row : List (Nat × Bool)) : State :=
  let tag := (s.dwAt (s.ringEntry die + 8), s.poison.contains (s.fwd (s.ringEntry die + 8) / 8))
  let t := s.destAt die d
  let a := t.buf + 64 + s.destRows die d * (64 + t.row)
  let words := tag :: (List.replicate 7 (0, false) ++ row)
  let s := (words.zipIdx).foldl (fun s (v, i) => s.droverCopy (a + 8 * i) v) s
  let s := s.modDrover die (fun x => { x with pending := Table.set x.pending d (Table.get 0 x.pending d + 1), taken := x.taken + 1 })
  if 32 ≤ s.destRows die d then (s.writeCount die d).writeHead die else s

/-- The drover has something to do: an overrun to log, or to forget once it is over (R357); rows to count; an entry. -/
def canDrove (s : State) (die : Nat) : Bool :=
  s.droverReg die 2 = 1 && s.ringClear die && (match s.droverRegion die with
    | none => false
    | some r =>
      if 4096 < s.ringAhead die then !(s.drover die).logged
      else (s.drover die).logged ||
        (if s.ringWaits die = 0 then
          ((s.drover die).taken ≠ 0 || !(s.drover die).pending.isEmpty) && s.countsClear die ((s.drover die).pending.map (·.1))
        else s.droverAct die r ≠ .wait))

/-- The reads of a drover recall granted lines (R201): the ring's counters, and for an entry the entry, its destination's and the
row. -/
def State.ringSeen (s : State) (die : Nat) : State := s.rangeSeen (s.fwd (s.droverReg die 0 + 0x20000)) 16 engineCid
def State.entrySeen (s : State) (die : Nat) (r : Region) (d row : Nat) : State :=
  let e := s.ringEntry die
  let s := (s.rangeSeen (s.fwd e) 32 engineCid).rangeSeen (s.fwd (s.droverReg die 1 + 32 * d)) 32 engineCid
  (List.range (row / 8)).foldl (fun s i => match s.translate r die (s.dwAt (e + 16) + 8 * i) false false with
    | .pa pa _ _ => s.lineSeen (lineOf (s.fwd pa)) engineCid
    | _ => s) s

def droverTake (s : State) (die : Nat) : State :=
  match s.droverRegion die with
  | none => s
  | some r =>
    let s := s.ringSeen die
    if 4096 < s.ringAhead die then (s.logEvent 5 2 (wrap64 die) (wrap64 (s.ringTail die))).modDrover die (fun x => { x with logged := true })
    else
      let s := s.modDrover die (fun x => { x with logged := false })
      if s.ringWaits die = 0 then
        (if s.countsClear die ((s.drover die).pending.map (·.1)) then s.flushDrover die else s)
      else match s.droverAct die r with
      | .wait => s
      | .bad => (s.logEvent 5 3 (wrap64 die) (wrap64 (s.ringNext die))).modDrover die (fun x => { x with taken := x.taken + 1 })
      | .send d row => (s.entrySeen die r d (8 * row.length)).sendRow die d row

/-- `DROVER_ENTRY_TAKE` (R358). -/
def execDroverEntryTake (die : Fin 4) (s : State) : Out' := .next (if canDrove s die.val then droverTake s die.val else s)

end Sys2Proof.Machine
end

