-- ==== Sys2Proof/Machine/Manage.lean ====
section
/-! DEFINITION. The Alavis controller and the module's background work (R359 to R364): power cap, sensors, MCTP, firmware,
quotes, the event log, LPDDR6 upkeep, thermal and module reset. -/

namespace Sys2Proof.Machine

def State.modAlavis (s : State) (f : Alavis → Alavis) : State := { s with alavis := f s.alavis }
/-- A reply of Alavis. -/
def State.reply (s : State) (l : List Nat) : State := s.modAlavis (fun a => { a with replies := l :: a.replies })

/-! ### Monitoring and control (R359) -/

/-- `PLDM_POWER_CAP_SET`: a cap from 1.2 kW to 2.8 kW; any other is refused. -/
def execPldmPowerCapSet (mw : Nat) (s : State) : Out' :=
  .next (if 1200000 ≤ mw && mw ≤ 2800000 then s.modAlavis (fun a => { a with capMw := mw }) else s)

/-- A sensor's reading: the sampled sensors in order, from 2^16 on the counts of corrected and of uncorrectable errors. -/
def Alavis.reading (a : Alavis) (sensor : Nat) : List Nat :=
  if sensor = 2 ^ 16 then [a.corrected]
  else if sensor = 2 ^ 16 + 1 then [a.uncorrected]
  else ((a.sensors[sensor]?).map (fun v => (wrapI v).toNat)).toList

/-- `PLDM_SENSOR_READ`. -/
def execPldmSensorRead (sensor : Nat) (s : State) : Out' := .next (s.reply (s.alavis.reading sensor))

/-- `MCTP_CONTROL`. -/
def execMctpControl (msg : List Byte) (s : State) : Out' := .next (s.reply ((Config.mctpReply msg).map (·.toNat)))

/-- Junction temperatures of the four dies, in degrees Celsius: the first four sensors. -/
def Alavis.junctions (a : Alavis) : List Int := a.sensors.take 4
/-- Module power in milliwatts: the seventh sensor, after the coolant's inlet and outlet. -/
def Alavis.power (a : Alavis) : Int := a.sensors.getD 6 0

/-- The clock after a sample: 600 MHz above 105 °C; a step of 25 MHz down while power is above the cap; else up again. -/
def Alavis.clockNext (a : Alavis) : Nat :=
  if a.junctions.any (fun t => 105 < t) then 600
  else if (a.capMw : Int) < a.power then max 600 (a.clockMhz - 25)
  else min 1500 (a.clockMhz + 25)

/-- `TELEMETRY_SAMPLE` (R359, R363): once a millisecond. -/
def execTelemetrySample (vals : List Int) (s : State) : Out' :=
  .next (s.modAlavis (fun a =>
    let a := { a with sensors := vals, micros := a.micros + 1000 }
    { a with clockMhz := a.clockNext }))

/-! ### Reset (R359, R361, R364) -/

/-- Off-chip memory keeps its contents over a module reset; everything on the dies is cleared. -/
def keptKey (k : Nat) : Bool := k < 2 ^ 56 && (match backing k with
  | .dram _ => true
  | .host => true
  | _ => false)

/-- The state after a module reset: that of power-on, with off-chip memory, Alavis's persistent storage, the links that
are down, and what the environment still has in store. -/
def State.restart (s : State) (up : Bool) : State :=
  { State.reset with
    agenda := s.agenda, mem := s.mem.filter (fun c => keptKey c.1), poison := s.poison.filter (fun w => keptKey (8 * w)),
    alavis := { s.alavis with sensors := [], capMw := 2800000, clockMhz := 1500 }, linksDown := s.linksDown,
    portsDown := s.portsDown, up := up }

/-- `THERMAL_RESET` (R359): a junction is above 120 °C. -/
def execThermalReset (s : State) : Out' :=
  .next (if s.alavis.junctions.any (fun t => 120 < t) then
    (s.logEvent 3 1 (wrapI (s.alavis.junctions.foldl max 0)) 0).restart false
  else s)

/-- The boot of Alavis: the new bank becomes active and is verified; three failed boots revert to the other bank. -/
def Alavis.boot (a : Alavis) (verified : Bool) : Alavis :=
  let a := { a with active := a.nextActive }
  if verified then { a with failedBoots := 0 }
  else if 3 ≤ a.failedBoots + 1 then { a with failedBoots := 0, nextActive := 1 - a.active }
  else { a with failedBoots := a.failedBoots + 1 }

/-- `MODULE_RESET` (R361, R364): bring-up; a bank that fails its verification leaves the module down. -/
def execModuleReset (verified : Bool) (s : State) : Out' :=
  .next ((s.restart verified).modAlavis (fun a => a.boot verified))

/-- `FIRMWARE_UPDATE` (R361): both signatures verify and the version is not below the rollback counter; else it is refused
and logged. -/
def execFirmwareUpdate (fw : FirmwareBundle) (s : State) : Out' :=
  .next (if fw.ed25519Ok && fw.mldsaOk && s.alavis.rollback ≤ fw.version then
    s.modAlavis (fun a => { a with banks := a.banks.set (1 - a.active) ⟨fw.version, fw.digest⟩, nextActive := 1 - a.active })
  else s.logEvent 3 2 (wrap64 fw.version) 0)

/-- `QUOTE_REQUEST` (R362): what a quote covers, then its two signatures. -/
def execQuoteRequest (nonce : BitVec 256) (s : State) : Out' :=
  .next (
    let image := ((s.alavis.banks[s.alavis.active]?).map (fun b => b.digest.toNat)).getD 0
    let body := [nonce.toNat, image, s.host.featAccept.toNat, Config.fuseState, Config.serialNumber]
    s.reply (body ++ [(Config.quoteEd25519 body).toNat] ++ (Config.quoteMlDsa body).map (·.toNat)))

/-- The doublewords of an event log entry (R360). -/
def LogRec.dws (e : LogRec) : List Nat :=
  [e.seq % 2 ^ 48 + e.source % 2 ^ 8 * 2 ^ 48 + e.code % 2 ^ 8 * 2 ^ 56, e.micros, e.d2.toNat, e.d3.toNat]

/-- `EVENT_LOG_READ` (R360): the entry with a sequence number, where the log still holds it. -/
def execEventLogRead (n : Nat) (s : State) : Out' :=
  .next (s.reply (((s.alavis.log.find? (fun e => e.seq = n)).map (·.dws)).getD []))

/-! ### LPDDR6 (R354, R363) -/

/-- `LPDDR6_REFRESH` (R363): timing only. -/
def execLpddr6Refresh (_ch : Nat) (s : State) : Out' := .next s
/-- `LPDDR6_RETRAIN` (R363): timing only. -/
def execLpddr6Retrain (_ch : Nat) (s : State) : Out' := .next s

end Sys2Proof.Machine
end

