-- ==== Sys2Proof/Machine/Fetch.lean ====
section
/-! DEFINITION. Fetching a bundle and classifying it (R20, R22, R192, R342), and the two ways a fetch gives no
instruction (R22, R44). -/

namespace Sys2Proof.Machine

/-- The address of a thread's next bundle: after a page fault, the bundle whose control word is reissued (R24). -/
def Thread.fetchAt (t : Thread) : Word := (t.reissue.map (·.addr)).getD t.pc

/-- The word at an address lies in the region's code range (R22). -/
def Region.inCode (r : Region) (a : Nat) : Bool := r.field 7 ≤ a && a + 4 ≤ r.field 7 + r.field 9

/-- What fetching one word meets: the word, a miss of the translation cache, or a fault that stops the thread. -/
inductive FetchWord where
  | word (w : Nat)
  | miss
  | stop (f : Flt)
  deriving DecidableEq, Repr

/-- One word of code through the cluster's translation cache; the page needs x (R190, R192). -/
def State.codeWord (s : State) (r : Region) (cid a : Nat) : FetchWord :=
  match s.tlbLook r.id (clOf cid) (dieOf cid) false true a with
  | .missing => .miss
  | .denied d => .stop (pageDenied d a)
  | .pa pa _ _ =>
    let key := s.fwd pa
    if !s.pathUp cid key then .stop (linkFlt a)
    else match s.poisoned key 4 with
      | some _ => .stop (poisonFlt a)
      | none => .word (s.read key 4)

/-- What a thread's next fetch gives (R20): a lone word, a pair, the control word alone that is reissued after a page
fault (R24), an address that cannot be fetched, a word that breaks R20, a miss, or a fault. -/
inductive Fetched where
  | lone (w : Nat)
  | pair (c a : Nat)
  | again (w : Nat)
  | outside (addr : Nat)
  | unpaired (w : Nat)
  | miss (addr : Nat)
  | stop (f : Flt)
  deriving DecidableEq, Repr

def clsOf (w : Nat) : Bool := w / 2 ^ 30 % 2 = 1

/-- R20 for the word at `a` and, where it starts a would-be pair, the word after it. -/
def classify (a w : Nat) (second : Unit → FetchWord) (inRange : Bool) : Fetched :=
  if loneOf w then .lone w
  else if a % 8 ≠ 0 || clsOf w then .unpaired w
  else if !inRange then .outside (a + 4)
  else match second () with
    | .miss => .miss (a + 4)
    | .stop f => .stop f
    | .word v => if !loneOf v && clsOf v then .pair w v else .unpaired w

/-- The fetch of a thread's next bundle (R20, R22). -/
def State.fetchBundle (s : State) (r : Region) (cid slot : Nat) : Fetched :=
  let t := s.thread cid slot
  let a := t.fetchAt.toNat
  if a % 4 ≠ 0 || !r.inCode a then .outside a
  else match s.codeWord r cid a with
    | .miss => .miss a
    | .stop f => .stop f
    | .word w =>
      if t.reissue.isSome then .again w
      else classify a w (fun _ => s.codeWord r cid (a + 4)) (r.inCode (a + 4))

/-- A fetch that misses starts a walk; the thread is not eligible until it ends (R192). -/
def State.fetchWalk (s : State) (rid cid slot a : Nat) : State :=
  let t := s.thread cid slot
  let r : Req :=
    { id := s.nextId, cid := cid, slot := slot, rid := rid, bundle := t.fetchAt, icnt := t.obs, now := 0, op := .fetch,
      ord := .plain, space := .global, cl := clOf cid, seg := 0, pieces := [⟨a, 0, 4, 0, 0, false⟩], lane := 0, dst := none,
      vdst := none, long := false, cls := none, buffered := false, stage := .walking, refusals := 0, seqn := none,
      dest := 0, result := 0, nulled := false, deps := [], nc := false, afTag := none, dropped := false, born := s.cyc
      age := s.nextId, reach := none }
  (s.addReq r).modThread cid slot (fun t => { t with walking := true })

/-- The translation cache after a fetch that hit (R191), whose line is read as it stands (R201). -/
def State.fetchUse (s : State) (r : Region) (cid a : Nat) : State :=
  match (s.cluster (clOf cid)).tlbHit r.id a with
  | some e => (s.modCluster (clOf cid) (fun c => c.tlbUse e)).lineSeen
      (lineOf (s.fwd (leafPa e.leaf.toNat e.bits (dieOf cid) a))) cid
  | none => s

/-- The bundle of a thread that begins to issue. -/
def State.beginBundle (s : State) (cid slot : Nat) (addr npc : Word) (words word : Nat) : State :=
  let t := s.thread cid slot
  { s with bun := { active := false, cid := cid, slot := slot, addr := addr, npc := (t.reissue.map (·.npc)).getD npc,
                    words := words, word := word, ctl := none, vals := (t.reissue.map (·.vals)).getD [],
                    again := t.reissue.isSome, srcs := (t.reissue.map (·.srcs)).getD [],
                    vsrcs := (t.reissue.map (·.vsrcs)).getD [], out := .ok, seen := [] } }

/-- A fetched word that encodes no instruction: ILLEGAL_OPCODE (R44). -/
def execUnassignedOpcode (word : BitVec 32) (s : State) : Host.Outcome State Fault Refusal :=
  .next (gateEnd s (.fault (flt5 fIllegalOpcode (issueW5 word.toNat (clsOf word.toNat)))))

/-- A fetch whose address is misaligned or outside the code range: BUNDLE_ADDRESS, whose record names the address and
the last bundle issued (R22). -/
def execBundleAddress (addr : Word) (s : State) : Host.Outcome State Fault Refusal :=
  .next (stopThread { s with bun := Bun.none } s.bun.cid s.bun.slot
    (flt5 fBundleAddress (s.thread s.bun.cid s.bun.slot).lastBundle) addr)

end Sys2Proof.Machine
end

