-- ==== Sys2Proof/Machine/Vector.lean ====
section
/-! DEFINITION. The vector instructions (R247 to R261): memory forms, lane-wise arithmetic, reductions and moves. -/

namespace Sys2Proof.Machine

/-! ### Lanes (R248) -/

/-- Bits of a vector register in the core's mode. -/
def State.vbits (s : State) : Nat := if s.myCore.long then 4096 else 256

/-- n lanes of b bits of a register, and a register of lanes. -/
def cut (b : Nat) : Nat → Nat → List Nat
  | 0, _ => []
  | n + 1, v => v % 2 ^ b :: cut b n (v / 2 ^ b)
def join (b : Nat) : List Nat → Nat
  | [] => 0
  | x :: t => x % 2 ^ b + 2 ^ b * join b t

def State.lanes (s : State) (b : Nat) (r : Reg) : List Nat := cut b (s.vbits / b) (s.vsrc r.val)

/-! ### Memory (R252 to R254) -/

/-- Bytes of a vector register. -/
def State.vbytes (s : State) : Nat := s.vbits / 8

/-- The accesses of a whole register from an address: one in short mode, one for each 128-byte line in long mode. -/
def linePieces : Nat → Ea → (Ea → Nat) → Nat → Nat → Nat → List Piece
  | 0, _, _, _, _, _ => []
  | fuel + 1, e, key, data, off, n =>
    if n = 0 then []
    else
      let here := { e with addr := e.addr + off }
      let part := min n (128 - here.addr % 128)
      ⟨here.addr, key here, part, data % 2 ^ (8 * part), off, false⟩ ::
        linePieces fuel e key (data / 2 ^ (8 * part)) (off + part) (n - part)

def wholePieces (s : State) (e : Ea) (data : Nat) : List Piece :=
  if s.myCore.long then linePieces 5 e (keyOf s) data 0 512 else [pieceOf s e 32 data 0]

/-- In long mode the bytes of a scratch access lie in one bank; the rest would be refused as R115 refuses. -/
def oneBank (e : Ea) (n : Nat) : Bool :=
  match e.space with
  | .scratch => bankOfSa e.addr = bankOfSa (e.addr + n - 1)
  | .remote => bankOfSa e.addr = bankOfSa (e.addr + n - 1)
  | _ => true

/-- A whole-register access: the immediate scales by 32, (6.3) tests the size, (6.4) tests 32. -/
def wholeReq (op : MemOp) (rights : Nat) (g : Seg) (x : Reg) (imm : BitVec 9) (data : State → Nat) (upd : Req → Req)
    (s : State) : Res :=
  match memCheck s g allSpaces rights (offOf (s.src x) imm 32) s.vbytes 32 fMisaligned with
  | .error f => .fault f
  | .ok e =>
    let r := upd (s.newReq op e g (wholePieces s e (data s)))
    if oneBank e s.vbytes then submit s r
    else if e.space = .remote then .ok (s.addReq { r with stage := .bounced fSegRights (g.val + 8 * rights) })
    else .fault ⟨fSegRights, e.ea, 0, segWord5 g.val rights⟩

def vldEff (d x : Reg) (g : Seg) (imm : BitVec 9) (s : State) : Res :=
  let long := s.myCore.long
  wholeReq .vload rightR g x imm (fun _ => 0) (fun r => { r with vdst := some d.val, long := long, cls := some .ld }) s
def vstEff (d x : Reg) (g : Seg) (imm : BitVec 9) (s : State) : Res :=
  wholeReq .vstore rightW g x imm (fun s => s.vsrc d.val) (fun r => { r with cls := some .st }) s

def execVld (d x : Reg) (g : Seg) (imm : BitVec 9) (s : State) : Out' := run (.vld d x g imm) s (vldEff d x g imm)
def execVst (d x : Reg) (g : Seg) (imm : BitVec 9) (s : State) : Out' := run (.vst d x g imm) s (vstEff d x g imm)

/-- Checks the elements of R253 in ascending order; the record shows the lowest failing one in word 5[15:8]. An index of 256
or more is recorded modulo 256 (log entry 146). -/
def checkElems (s : State) (g : Seg) (rights size : Nat) : List (Nat × Word × Nat) → Except Flt (List (Ea × Piece))
  | [] => .ok []
  | (i, off, data) :: t =>
    match memCheck s g allSpaces rights off size size fMisaligned with
    | .error f => .error { f with w5 := f.w5 + wrap64 (i % 256 * 256) }
    | .ok e => match checkElems s g rights size t with
      | .error f => .error f
      | .ok l => .ok ((e, pieceOf s e size data (i * size)) :: l)

/-- An access element by element. -/
def elemReq (op : MemOp) (rights : Nat) (g : Seg) (size : Nat) (elems : List (Nat × Word × Nat)) (upd : Req → Req)
    (s : State) : Res :=
  match checkElems s g rights size elems with
  | .error f => .fault f
  | .ok l => match l.head? with
    | none => .ok s
    | some (e, _) => submit s (upd (s.newReq op e g (l.map (·.2))))

/-- The offsets that an index vector gives (R253). -/
def indexOffs (s : State) (x t : Reg) (n : Nat) : List (Nat × Word) :=
  ((s.lanes 32 t).take n).zipIdx.map (fun (v, i) => (i, s.src x + (BitVec.ofNat 32 v).signExtend 64))

def vldsEff (t : Reg) (z : Size) (d x : Reg) (g : Seg) (s : State) : Res :=
  let long := s.myCore.long
  let elems := (List.range (s.vbytes / z.bytes)).map (fun i => (i, s.src x + wrap64 i * s.src t, 0))
  elemReq .vload rightR g z.bytes elems (fun r => { r with vdst := some d.val, long := long, cls := some .ld }) s
def vgathEff (t : Reg) (z : Size) (d x : Reg) (g : Seg) (s : State) : Res :=
  let long := s.myCore.long
  let elems := (indexOffs s x t (s.vbytes / max z.bytes 4)).map (fun (i, off) => (i, off, 0))
  elemReq .vload rightR g z.bytes elems (fun r => { r with vdst := some d.val, long := long, cls := some .ld }) s
def vscatEff (t : Reg) (z : Size) (d x : Reg) (g : Seg) (s : State) : Res :=
  let data := s.lanes (8 * z.bytes) d
  let elems := (indexOffs s x t (s.vbytes / max z.bytes 4)).map (fun (i, off) => (i, off, data.getD i 0))
  elemReq .vstore rightW g z.bytes elems (fun r => { r with cls := some .st }) s

def execVlds (t : Reg) (z : Size) (d x : Reg) (g : Seg) (s : State) : Out' := run (.vlds t z d x g) s (vldsEff t z d x g)
def execVgath (t : Reg) (z : Size) (d x : Reg) (g : Seg) (s : State) : Out' := run (.vgath t z d x g) s (vgathEff t z d x g)
def execVscat (t : Reg) (z : Size) (d x : Reg) (g : Seg) (s : State) : Out' := run (.vscat t z d x g) s (vscatEff t z d x g)

/-! ### Shapes of lane-wise effects (R255, R256) -/

/-- d := the lanes f gives, each from its lane number and the lanes of a, b and d. -/
def lanes1 (b : Nat) (d a : Reg) (f : Nat → Nat → Nat) (s : State) : Res :=
  .ok (s.writeV d.val (join b ((s.lanes b a).zipIdx.map (fun (x, i) => f i x))))
def lanes2 (b : Nat) (d a c : Reg) (f : Nat → Nat → Nat → Nat) (s : State) : Res :=
  .ok (s.writeV d.val (join b (((s.lanes b a).zip (s.lanes b c)).zipIdx.map (fun (p, i) => f i p.1 p.2))))
def lanes3 (b : Nat) (d a c : Reg) (f : Nat → Nat → Nat → Nat → Nat) (s : State) : Res :=
  .ok (s.writeV d.val (join b (((s.lanes b a).zip ((s.lanes b c).zip (s.lanes b d))).zipIdx.map
    (fun (p, i) => f i p.1 p.2.1 p.2.2))))

/-- The rounding of lane i. -/
def State.env (s : State) (rm : Rm) (i : Nat) : FEnv := ⟨rm, s.srgNow i, s.nanNow i⟩

/-- A two-operand arithmetic form. -/
def arith2 (t : VArith) (d a b : Reg) (g : Rm → FV → FV → FRes) (h : Int → Int → Int) (s : State) : Res :=
  match t with
  | .fl f rm => lanes2 f.fmt.bits d a b (fun i x y => f.fmt.bin (s.env rm i) (g rm) x y) s
  | .int it m => lanes2 it.bits d a b (fun _ x y => finB m it.bits (h (intVal it.bits it.signed x) (intVal it.bits it.signed y))) s

/-- A one-operand float form. -/
def float1 (f : FT) (rm : Rm) (d a : Reg) (g : FV → FRes) (s : State) : Res :=
  lanes1 f.fmt.bits d a (fun i x => f.fmt.un (s.env rm i) g x) s

/-! ### Arithmetic (R256, R257) -/

def execVadd (t : VArith) (d a b : Reg) (s : State) : Out' := run (.vadd t d a b) s (arith2 t d a b exactAdd (· + ·))
def execVsub (t : VArith) (d a b : Reg) (s : State) : Out' := run (.vsub t d a b) s (arith2 t d a b exactSub (· - ·))
def execVmul (t : VArith) (d a b : Reg) (s : State) : Out' :=
  run (.vmul t d a b) s (arith2 t d a b (fun _ => exactMul) (· * ·))
def execVfma (t : VArith) (d a b : Reg) (s : State) : Out' :=
  run (.vfma t d a b) s (fun s => match t with
    | .fl f rm => lanes3 f.fmt.bits d a b (fun i x y z => f.fmt.fma (s.env rm i) x y z) s
    | .int it m => lanes3 it.bits d a b (fun _ x y z =>
        finB m it.bits (intVal it.bits it.signed x * intVal it.bits it.signed y + intVal it.bits it.signed z)) s)
def execVdiv (t : FT) (r : Rm) (d a b : Reg) (s : State) : Out' :=
  run (.vdiv t r d a b) s (fun s => lanes2 t.fmt.bits d a b (fun i x y => t.fmt.bin (s.env r i) (exactDiv t.fmt) x y) s)
def execVsqrt (t : FT) (r : Rm) (d a : Reg) (s : State) : Out' := run (.vsqrt t r d a) s (float1 t r d a (exactSqrt t.fmt))
def execVrcp (t : FT) (r : Rm) (d a : Reg) (s : State) : Out' := run (.vrcp t r d a) s (float1 t r d a t.fmt.rcp)
def execVrsq (t : FT) (r : Rm) (d a : Reg) (s : State) : Out' := run (.vrsq t r d a) s (float1 t r d a (exactRsqrt t.fmt))
def execVexp (t : FT) (r : Rm) (d a : Reg) (s : State) : Out' := run (.vexp t r d a) s (float1 t r d a (spExp (spBits t.fmt)))
def execVlog (t : FT) (r : Rm) (d a : Reg) (s : State) : Out' := run (.vlog t r d a) s (float1 t r d a (spLog (spBits t.fmt)))
def execVtanh (t : FT) (r : Rm) (d a : Reg) (s : State) : Out' :=
  run (.vtanh t r d a) s (float1 t r d a (spTanh (spBits t.fmt)))

def minMaxEff (greater : Bool) (t : VT) (d a b : Reg) (s : State) : Res :=
  match t with
  | .fl f => lanes2 f.fmt.bits d a b (fun _ x y => f.fmt.minMax greater x y) s
  | .int it => lanes2 it.bits d a b (fun _ x y =>
      let below : Bool := intVal it.bits it.signed x ≤ intVal it.bits it.signed y
      if below = greater then y else x) s
def execVmin (t : VT) (d a b : Reg) (s : State) : Out' := run (.vmin t d a b) s (minMaxEff false t d a b)
def execVmax (t : VT) (d a b : Reg) (s : State) : Out' := run (.vmax t d a b) s (minMaxEff true t d a b)

def signEff (t : VAbs) (d a : Reg) (g : Bool → Bool) (h : Int → Int) (s : State) : Res :=
  match t with
  | .fl f => lanes1 f.fmt.bits d a (fun _ x => f.fmt.withSign g x) s
  | .int it sat => lanes1 it.bits d a (fun _ x => finB (if sat then .sat else .wrap) it.bits (h (intVal it.bits it.signed x))) s
def execVabs (t : VAbs) (d a : Reg) (s : State) : Out' := run (.vabs t d a) s (signEff t d a (fun _ => false) (fun x => x.natAbs))
def execVneg (t : VAbs) (d a : Reg) (s : State) : Out' := run (.vneg t d a) s (signEff t d a (fun n => !n) (fun x => -x))

def execVand (t : IT) (d a b : Reg) (s : State) : Out' := run (.vand t d a b) s (lanes2 t.bits d a b (fun _ => Nat.land))
def execVor (t : IT) (d a b : Reg) (s : State) : Out' := run (.vor t d a b) s (lanes2 t.bits d a b (fun _ => Nat.lor))
def execVxor (t : IT) (d a b : Reg) (s : State) : Out' := run (.vxor t d a b) s (lanes2 t.bits d a b (fun _ => Nat.xor))
def execVshl (t : IT) (d a b : Reg) (s : State) : Out' :=
  run (.vshl t d a b) s (lanes2 t.bits d a b (fun _ x y => x * 2 ^ (y % t.bits)))
def execVshr (t : IT) (d a b : Reg) (s : State) : Out' :=
  run (.vshr t d a b) s (lanes2 t.bits d a b (fun _ x y => finB .wrap t.bits (intVal t.bits t.signed x / 2 ^ (y % t.bits))))

/-! ### Comparison and selection (R258) -/

/-- All ones in a lane of b bits. -/
def ones (b : Nat) (c : Bool) : Nat := if c then 2 ^ b - 1 else 0

def execVcmp (t : VCmp) (d a b : Reg) (s : State) : Out' :=
  run (.vcmp t d a b) s (match t with
    | .fl f c => lanes2 f.fmt.bits d a b (fun _ x y => ones f.fmt.bits (c.holds (f.fmt.decode x) (f.fmt.decode y)))
    | .int it c => lanes2 it.bits d a b (fun _ x y =>
        ones it.bits (c.holds (intVal it.bits it.signed x) (intVal it.bits it.signed y))))
def execVsel (t : VT) (d a b : Reg) (s : State) : Out' :=
  run (.vsel t d a b) s (lanes3 t.bits d a b (fun _ x y z => if x ≠ 0 then y else z))

/-! ### Conversion (R259) -/

/-- Lanes from n upward keep their contents. -/
def vcvtEff (dst src : VT) (r : Rm) (d a : Reg) (s : State) : Res :=
  let n := s.vbits / max dst.bits src.bits
  let new := ((s.lanes src.bits a).take n).zipIdx.map (fun (x, i) => convert dst.num src.num r (s.srgNow i) x)
  .ok (s.writeV d.val (join dst.bits (new ++ (s.lanes dst.bits d).drop n)))
def execVcvt (dst src : VT) (r : Rm) (d a : Reg) (s : State) : Out' := run (.vcvt dst src r d a) s (vcvtEff dst src r d a)

/-! ### Reductions (R67, R68, R260) -/

def sumProducts (bits : Nat) (signed : Bool) (l : List (Nat × Nat)) : Int :=
  l.foldl (fun acc (x, y) => acc + intVal bits signed x * intVal bits signed y) 0

def vdotEff (t : VArith) (d a b : Reg) (s : State) : Res :=
  let old := s.vsrc d.val
  match t with
  | .fl f rm =>
    let ps := ((s.lanes f.fmt.bits a).zip (s.lanes f.fmt.bits b)).map (fun (x, y) => (f.fmt.decode x, f.fmt.decode y))
    .ok (s.writeV d.val (Fmt.fp32.finish rm (s.srgNow 0) (s.nanNow 0)
      (exactDot rm ps (some (Fmt.fp32.decode (old % 2 ^ 32))))))
  | .int it m =>
    let n := if it.bits = 64 then 64 else 32
    let sum := sumProducts it.bits it.signed ((s.lanes it.bits a).zip (s.lanes it.bits b))
    .ok (s.writeV d.val (finB m n (intVal n true (old % 2 ^ n) + sum)))
def execVdot (t : VArith) (d a b : Reg) (s : State) : Out' := run (.vdot t d a b) s (vdotEff t d a b)

/-- One level of the tree of R68: nodes are numbered on from `e`. -/
def treeLevel (node : Nat → Nat → Nat → Nat) : Nat → List Nat → List Nat
  | e, x :: y :: t => node e x y :: treeLevel node (e + 1) t
  | _, l => l
/-- The tree over 2^levels lanes. -/
def tree (node : Nat → Nat → Nat → Nat) : Nat → Nat → List Nat → Nat
  | 0, _, l => l.headD 0
  | k + 1, e, l => tree node k (e + l.length / 2) (treeLevel node e l)

def vredEff (t : VArith) (d a : Reg) (s : State) : Res :=
  match t with
  | .fl f rm =>
    let l := s.lanes f.fmt.bits a
    .ok (s.writeV d.val (tree (fun e x y => f.fmt.bin ⟨rm, s.srgNow e, s.nanNow 0⟩ (exactAdd rm) x y) (Nat.log2 l.length) 0 l))
  | .int it m =>
    let l := s.lanes it.bits a
    .ok (s.writeV d.val (tree (fun _ x y => finB m it.bits (intVal it.bits it.signed x + intVal it.bits it.signed y))
      (Nat.log2 l.length) 0 l))
def execVred (t : VArith) (d a : Reg) (s : State) : Out' := run (.vred t d a) s (vredEff t d a)

/-! ### Permutes and moves (R261) -/

def execVperm (t : VT) (d a b : Reg) (s : State) : Out' :=
  run (.vperm t d a b) s (fun s =>
    let l := s.lanes t.bits a
    lanes1 t.bits d b (fun _ y => l.getD (y % l.length) 0) s)
def execVbcast (t : VT) (d a : Reg) (s : State) : Out' :=
  run (.vbcast t d a) s (fun s =>
    .ok (s.writeV d.val (join t.bits (List.replicate (s.vbits / t.bits) ((s.src a).toNat % 2 ^ t.bits)))))
/-- Sign-extended for `.I` types. -/
def extLane (t : VT) (x : Nat) : Word :=
  match t with
  | .fl _ => wrap64 x
  | .int it => wrapI (intVal it.bits it.signed x)
def execVext (t : VT) (d a b : Reg) (s : State) : Out' :=
  run (.vext t d a b) s (fun s =>
    let l := s.lanes t.bits a
    putD d (extLane t (l.getD ((s.src b).toNat % l.length) 0)) s)
def execVins (t : VT) (d a b : Reg) (s : State) : Out' :=
  run (.vins t d a b) s (fun s =>
    let l := s.lanes t.bits d
    .ok (s.writeV d.val (join t.bits (l.set ((s.src b).toNat % l.length) ((s.src a).toNat % 2 ^ t.bits)))))

end Sys2Proof.Machine
end

