-- ==== Sys2Proof/Machine/Wake.lean ====
section
/-! DEFINITION. The bundle a parked thread holds and its wake (R97), the end of an allowance (R285, R304), and the
notices that wait for their core (R328). -/

namespace Sys2Proof.Machine

/-- The instructions whose own effect can park, with that effect; every other control word parks by R23, R78, R104 and
R250 alone. -/
def parkEff (i : Instr) (s : State) : Option Res :=
  match i with
  | .tstart a b => some (effTstart a b s)
  | .wait mx cp st ld => some (effWait mx cp st ld s)
  | .widen sc => some (effWiden sc s)
  | .fence sc => some (effFence sc s)
  | .vmodeLong => some (effVmodeLong s)
  | .vmode => some (effVmode s)
  | .rvwait pt => some (effRvwait pt s)
  | .send a i => some (effSend a i s)
  | .recv d => some (effRecv d s)
  | .evstart a => some (effEvstart a s)
  | .taskend => some (effTaskend s)
  | .ctxsave a => some (effCtxsave a s)
  | .ctxload a => some (effCtxload a s)
  | .mxsave a => some (effArea false a s)
  | .mxload a => some (effArea true a s)
  | .tkwin a => some (effTkwin a s)
  | .tkload a b => some (effTkload a b s)
  | .tklaunch a => some (effTklaunch false a s)
  | .tklaunchAnd a => some (effTklaunch true a s)
  | .tkcapt a => some (effTkcapt a s)
  | .tkreset => some (effTkreset s)
  | .launch a b => some (effLaunch a b s)
  | .rwait a => some (effRwait a s)
  | .ldB d x g m => some (ldEff false 1 d x g m s)
  | .ldH d x g m => some (ldEff false 2 d x g m s)
  | .ldW d x g m => some (ldEff false 4 d x g m s)
  | .ldD d x g m => some (ldEff false 8 d x g m s)
  | .ldBSx d x g m => some (ldEff true 1 d x g m s)
  | .ldHSx d x g m => some (ldEff true 2 d x g m s)
  | .ldWSx d x g m => some (ldEff true 4 d x g m s)
  | .stB d x g m => some (stEff 1 d x g m s)
  | .stH d x g m => some (stEff 2 d x g m s)
  | .stW d x g m => some (stEff 4 d x g m s)
  | .stD d x g m => some (stEff 8 d x g m s)
  | .lds d x g m => some (ldsEff d x g m s)
  | .ldf d x g m => some (ldfEff d x g m s)
  | .sts d x g m => some (stsEff d x g m s)
  | .stf d x g m => some (stfEff d x g m s)
  | .ldgB d x g m => some (ldgEff false 1 d x g m s)
  | .ldgH d x g m => some (ldgEff false 2 d x g m s)
  | .ldgW d x g m => some (ldgEff false 4 d x g m s)
  | .ldgD d x g m => some (ldgEff false 8 d x g m s)
  | .ldgBSx d x g m => some (ldgEff true 1 d x g m s)
  | .ldgHSx d x g m => some (ldgEff true 2 d x g m s)
  | .ldgWSx d x g m => some (ldgEff true 4 d x g m s)
  | .stgB d x g m => some (stgEff 1 d x g m s)
  | .stgH d x g m => some (stgEff 2 d x g m s)
  | .stgW d x g m => some (stgEff 4 d x g m s)
  | .stgD d x g m => some (stgEff 8 d x g m s)
  | .ldAcq z sx sc d x g => some (ldAcqEff z sx sc d x g s)
  | .ldgAcq z sx sc d x g => some (ldgAcqEff z sx sc d x g s)
  | .stRel z sc d x g => some (stRelEff z sc d x g s)
  | .stgRel z sc d x g => some (stgRelEff z sc d x g s)
  | .aadd o n dw d x g => some (atomicEff 0 o n dw d x g s)
  | .aand o n dw d x g => some (atomicEff 1 o n dw d x g s)
  | .aor o n dw d x g => some (atomicEff 2 o n dw d x g s)
  | .axor o n dw d x g => some (atomicEff 3 o n dw d x g s)
  | .amin o n dw d x g => some (atomicEff 4 o n dw d x g s)
  | .amax o n dw d x g => some (atomicEff 5 o n dw d x g s)
  | .aminu o n dw d x g => some (atomicEff 6 o n dw d x g s)
  | .amaxu o n dw d x g => some (atomicEff 7 o n dw d x g s)
  | .axchg o n dw d x g => some (atomicEff 8 o n dw d x g s)
  | .acas o n dw d x g => some (atomicEff 9 o n dw d x g s)
  | .afadd o n d x g => some (atomicEff 10 o n false d x g s)
  | .rst st z d x g => some (rstEff st z d x g s)
  | .mst d x g m => some (mstEff d x g m s)
  | .vld d x g m => some (vldEff d x g m s)
  | .vst d x g m => some (vstEff d x g m s)
  | .vlds t z d x g => some (vldsEff t z d x g s)
  | .vgath t z d x g => some (vgathEff t z d x g s)
  | .vscat t z d x g => some (vscatEff t z d x g s)
  | _ => none

/-- The word at an address as the region's tables place it, whatever the translation cache holds. -/
def State.plainWord (s : State) (r : Region) (cid a : Nat) : FetchWord :=
  match s.translate r (dieOf cid) a false true with
  | .pa pa _ _ => .word (s.read (s.fwd pa) 4)
  | _ => .miss

/-- The bundle a thread stands at, read without the translation cache; none where its words cannot be had or decoded. -/
def State.standing (s : State) (cid slot : Nat) : Option (List (Instr × Word)) :=
  match s.regionOf cid with
  | none => none
  | some r =>
    let a := (s.thread cid slot).fetchAt.toNat
    if a % 4 ≠ 0 || !r.inCode a then none
    else match s.plainWord r cid a with
      | .word w =>
        match (if (s.thread cid slot).reissue.isSome then .again w
               else classify a w (fun _ => s.plainWord r cid (a + 4)) (r.inCode (a + 4))) with
        | .lone w => match decodeWord w with
          | .ok i => some [(i, issueW5 w (clsOf w))]
          | _ => none
        | .again w => match decodeWord w with
          | .ok i => some [(i, issueW5 w (clsOf w))]
          | _ => none
        | .pair c b => match decodeWord c, decodeWord b with
          | .ok i, .ok j => some [(i, issueW5 c false), (j, issueW5 b true)]
          | _, _ => none
        | _ => none
      | _ => none

/-- The state in which a thread's standing bundle would issue now. -/
def State.atBundle (s : State) (cid slot : Nat) (ws : List (Instr × Word)) : State :=
  let a := (s.thread cid slot).fetchAt
  s.beginBundle cid slot a (a + wrap64 (4 * ws.length)) ws.length 0

/-- The reason with which the effect of a bundle's control word would park now. -/
def effParks (s0 : State) (ws : List (Instr × Word)) : Option Nat :=
  match ws.head? with
  | some (i, _) => (match parkEff i (s0.enter (ws.map (·.1))) with
    | some (.park r _) => some r
    | _ => none)
  | none => none

/-- The reasons for which the bundle a parked thread holds would park now; none once it would fault (R46). -/
def State.heldFor (s : State) (cid slot : Nat) (ws : List (Instr × Word)) : List Nat :=
  let s0 := s.atBundle cid slot ws
  match gate s0 ws with
  | some (.fault _) => []
  | _ => parkReasons s0 (ws.map (·.1)) ++ (effParks s0 ws).toList

/-- The condition a thread is parked on holds (R97): the reason with which it parked does not hold now; the bundle's other
conditions are evaluated as it issues again. The round barrier releases its threads itself (R304). -/
def canWake (s : State) (cid slot : Nat) : Bool :=
  let t := s.thread cid slot
  t.state = .parked && !t.barrier && !t.walking && !(s.core cid).away &&
  (match s.standing cid slot with
    | some ws => !(s.heldFor cid slot ws).contains t.reason
    | none => true)

/-- `PARKED_BUNDLE_REISSUE` (R97): the thread is ready, and its held bundle issues again in full at its next turn. -/
def execParkedBundleReissue (cid slot : Nat) (s : State) : Out' :=
  .next (if canWake s cid slot then
    s.modThread cid slot (fun t => { t with state := .ready, reason := 0, waitOn := [], notBefore := max t.notBefore (s.cyc + 1) })
  else s)

/-- A thread's next bundle passes the issue-time checks and fails the allowance test (R285). -/
def canAllowanceEnd (s : State) (cid slot : Nat) : Bool :=
  let t := s.thread cid slot
  t.state = .ready && !t.walking && t.notBefore ≤ s.cyc && !(s.core cid).away &&
  (match s.standing cid slot with
    | some ws => (gate (s.atBundle cid slot ws) ws).isNone && !allowOk (s.atBundle cid slot ws) &&
        (effParks (s.atBundle cid slot ws) ws).isNone
    | none => false)

/-- `ALLOWANCE_END` (R285, R304): the thread stops with ALLOWANCE_END, or in a tournament parks at the round barrier. -/
def execAllowanceEnd (cid slot : Nat) (s : State) : Out' :=
  .next (if canAllowanceEnd s cid slot then allowanceStop s cid slot (s.thread cid slot).fetchAt else s)

/-- The first waiting notice of a region can go: its launching core has left the parent, or has room in `s31` (R328). -/
def canNotice (s : State) (rid : Nat) : Bool :=
  match s.region? rid with
  | none => false
  | some r => !r.notices.isEmpty && (match r.launcher with
    | some cid => (s.core cid).region ≠ some r.parentRid || (s.core cid).comp.length < 64
    | none => true)

/-- `NOTICE_PUSH` (R328): the notice enters `s31` of the launching core, or is dropped once that core has left the
parent region. -/
def execNoticePush (rid : Nat) (s : State) : Out' :=
  .next (if canNotice s rid then
    match s.region? rid with
    | none => s
    | some r =>
      let s := s.setRegion rid { r with notices := r.notices.tail }
      match r.launcher, r.notices.head? with
      | some cid, some w =>
        if (s.core cid).region ≠ some r.parentRid then s else s.modCore cid (fun c => { c with comp := c.comp ++ [w] })
      | _, _ => s
  else s)

end Sys2Proof.Machine
end

