-- ==== Sys2Proof/Machine/WriteBack.lean ====
section
/-! DEFINITION. The write-back cycle (R73 to R76, R78, R297): register writes with their collisions, then every other
act of the cycle, and the engine words and messages that waited behind an acquire (R217). -/

namespace Sys2Proof.Machine

/-- The thread that issued an act still runs. -/
def Thread.runs (t : Thread) : Bool := t.state = .ready || t.state = .parked || t.state = .dropped

/-- A delivery into register field r as its kind stands now. -/
def State.deliver (s : State) (cid r : Nat) (v : Word) : WbAct :=
  match (s.core cid).dstKind r with
  | .pushQueue k => .qpush k v
  | .pushEng q => .epush q v
  | _ => .gpr r v

/-- A word or entry for an engine that waits in the port. -/
def MemOp.engine : MemOp → Bool
  | .engWord _ _ => true
  | .tickCmd _ _ => true
  | .areaCmd _ _ _ => true
  | _ => false

/-- A word or an entry reaches its engine's queue. -/
def State.engEnter (s : State) (cid slot : Nat) (bundle : Word) (icnt : Nat) : MemOp → State
  | .engWord q v => s.pushWord cid slot q v bundle icnt
  | .tickCmd op id => s.enterTick cid slot bundle icnt op id
  | .areaCmd load va id => s.enterArea cid slot bundle icnt load va id
  | _ => s

/-- Of the stores that the thread's acquires made visible (R218), those that are not performed yet. -/
def State.acqStores (s : State) (cid slot : Nat) : List Nat :=
  (s.thread cid slot).acquired.filter (fun d => match s.req? d with | some q => !q.stage.performed | none => false)

/-- A command word, a tick command, an `MXSAVE` or an `MXLOAD` at write-back: it waits in the port behind an outstanding acquire
of its thread (R217, R275), and until what its acquires made visible is performed (R218). -/
def State.engAct (s : State) (w : Wb) (op : MemOp) : State :=
  let waits : Bool := s.acquiring w.cid w.slot w.seq || !(s.acqStores w.cid w.slot).isEmpty ||
    s.reqs.any (fun r => r.cid = w.cid && r.slot = w.slot && r.op.engine)
  if waits then
    let r : Req :=
      { id := w.seq, cid := w.cid, slot := w.slot, rid := ((s.core w.cid).region).getD 0, bundle := w.bundle, icnt := w.icnt,
        now := s.nowOf w.cid w.slot, op := op, ord := .plain, space := .none, cl := clOf w.cid, seg := 0, pieces := [],
        lane := 0, dst := none, vdst := none, long := false, cls := none, buffered := false, stage := .sent, refusals := 0,
        seqn := none, dest := 0, result := 0, nulled := false, deps := [], nc := false, afTag := none, dropped := false
        born := s.cyc, age := w.seq, reach := none }
    { s with reqs := s.reqs ++ [r] }
  else s.engEnter w.cid w.slot w.bundle w.icnt op

/-- What waited behind an acquire reaches its engine (R217). -/
def State.engHeld (s : State) (r : Req) : State :=
  if r.op.engine then (s.endReq r).engEnter r.cid r.slot r.bundle r.icnt r.op else s

/-- A push into a queue register (R78, R297). -/
def Core.push (c : Core) (k : Nat) (v : Word) : Core :=
  { c with queues := c.queues.map (fun (e : Nat × QReg) => (e.1, if e.1 = k then { e.2 with elems := e.2.elems ++ [v] } else e.2)) }

/-- `WRSR` at write-back (R82, R243). -/
def State.srBack (s : State) (cid slot sr : Nat) (v : Word) : State :=
  if sr = 7 then s.modThread cid slot (fun t => { t with allow := v })
  else if sr = 9 then s.modCore cid (fun c => { c with seed := v })
  else s.writeMxprog (clOf cid) v

/-- `QCFG` at write-back (R296). -/
def Core.qcfg (c : Core) (k : Nat) (v : Word) : Core :=
  let d := v.toNat % 32
  if d = 0 then { c with queues := Table.erase c.queues k }
  else { c with queues := Table.set c.queues k ⟨d, v.toNat / 2 ^ 8 % 2 = 1, false, []⟩ }

/-- The same with what hangs on the queue: unconfigured, it ends the registrations of pagers that it serves (R194). -/
def State.qcfgBack (s : State) (cid k : Nat) (v : Word) : State :=
  let s := s.modCore cid (fun c => c.qcfg k v)
  match (s.core cid).region with
  | some rid => if v.toNat % 32 = 0 then s.endRegs rid (fun p => p.cid = cid && p.q = k) else s
  | none => s

/-- `POOLSET` at write-back (R119). -/
def Cluster.poolset (k : Cluster) (rid : Nat) (v : Word) : Cluster :=
  let n := v.toNat
  { k with limits := k.limits.filter (fun l => l.rid ≠ rid) ++ [⟨rid, n % 32, n / 2 ^ 8 % 32, n / 2 ^ 16 % 32⟩] }

/-- `SPAWN` at write-back: the continuation enters at the near end of the deque (R292). -/
def State.spawnBack (s : State) (cid slot : Nat) (pc : Word) (f : Nat) (p : Option Nat) : State :=
  s.pushEntry cid ⟨pc, s.taskRegs cid slot, some f, p⟩

/-- `SYNC` at write-back (R294): the record is freed, or the continuation is saved and the thread ends. -/
def State.syncBack (s : State) (cid slot : Nat) (pc : Word) : State :=
  let t := s.thread cid slot
  match (s.core cid).region, t.frame with
  | some rid, some f => match (s.region? rid).bind (fun r => Table.find r.frames f) with
    | none => s
    | some fr =>
      if fr.pending = 0 then s.freeFrame rid f
      else
        let c : DeqEntry := ⟨pc, s.taskRegs cid slot, some f, t.parent⟩
        endThread (s.setFrame rid f { fr with saved := some c }) cid slot
          (if slot = 0 then .exited else .empty)
  | _, _ => s

/-- `TSTART` at write-back (R99): the new thread is ready from the next cycle. -/
def State.tstartBack (s : State) (cid slot : Nat) (pc : Word) : State :=
  let s := s.modCore cid (fun c => { c with reserved := c.reserved.filter (fun k => k ≠ slot) })
  if (s.thread cid slot).state = .empty then s.startThread cid slot pc (fun t => { t with notBefore := s.cyc + 1 }) else s

/-- `TREAP` at write-back (R100); a thread may end itself so. -/
def State.treapBack (s : State) (cid me slot : Nat) : State :=
  let t := s.thread cid slot
  if t.state = .empty || (t.handler && me ≠ slot) then s else endThread s cid slot .empty

/-- `VMODE` at write-back (R250): new `w` registers are zero. -/
def Core.setMode (c : Core) (long : Bool) : Core := { c with long := long, wregs := [], vmodeBusy := none }

/-- A thaw (R330): of a deque by a thread of a region, or of a queue register. -/
def State.thaw (s : State) (rid core : Nat) (deque : Bool) (k : Nat) : State :=
  if deque then s.setDequeFrozen rid core false
  else s.modCore core (fun c => { c with queues := c.queues.map (fun (e : Nat × QReg) => (e.1, if e.1 = k then { e.2 with frozen := false } else e.2)) })

/-- Bytes announced at a rendezvous point, whose counter has 40 bits (R233). -/
def State.bytesBack (s : State) (cid pt n : Nat) : State :=
  match (s.core cid).region with
  | none => s
  | some rid =>
    let team := (s.core cid).team
    let p := s.point rid team pt
    s.setPoint rid team pt { p with bytes := (p.bytes + n) % 2 ^ 40 }

/-- A register that an image had set pending is written (R338). -/
def State.unpend (s : State) (cid slot i : Nat) : State :=
  if (s.thread cid slot).pend / 2 ^ i % 2 = 1 then s.modThread cid slot (fun t => { t with pend := t.pend - 2 ^ i }) else s

/-- A load result is written: its operation has completed (R75, R104). -/
def State.loadBack (s : State) (cid slot id : Nat) : State :=
  let s' := (s.doneFor cid slot id).dropReq id
  match s.req? id with
  | some r => s'.freePort r
  | none => s'

/-- An act that writes a register. -/
def Wb.regWrite (w : Wb) : Bool :=
  match w.act with
  | .gpr _ _ => true
  | .load _ _ _ => true
  | .vload _ _ _ _ => true
  | .vreg _ _ => true
  | .wreg _ _ => true
  | .tscore _ => true
  | _ => false

/-- Engine words of a thread that wait behind an acquire are written before the thread ends: the acquire, which its end
cancels, orders them no more (R76, R108, R217). -/
def State.flushWords (s : State) (cid slot : Nat) : State :=
  s.reqs.foldl (fun s r => if r.cid = cid && r.slot = slot then s.engHeld r else s) s

/-- `TRAP` at write-back (R108): the thread stops; its record shows the `icnt` from before the bundle (R25). -/
def State.trapBack (s : State) (w : Wb) (v : Word) : State :=
  stopAs (s.flushWords w.cid w.slot) w.cid w.slot (flt5 fSoftwareTrap v) w.bundle w.icnt

/-- The effect of an act in its write-back cycle. -/
def State.wbAct (s : State) (w : Wb) : State :=
  let cid := w.cid
  let slot := w.slot
  let runs := (s.thread cid slot).runs
  match w.act with
  | .gpr r v => s.setReg cid slot r v
  | .load r v id => ((s.unpend cid slot r).setReg cid slot r v).loadBack cid slot id
  | .vload r v long id =>
    (if long then s.setWreg cid r v else (s.unpend cid slot (32 + r)).setVreg cid slot r (v.setWidth 256)).loadBack cid slot id
  | .vreg r v => s.setVreg cid slot r v
  | .wreg r v => s.setWreg cid r v
  | .qpush k v => s.modCore cid (fun c => c.push k v)
  | .epush q v => s.engAct w (.engWord q v)
  | .wrsr sr v => s.srBack cid slot sr v
  | .tstart k pc => s.tstartBack cid k pc
  | .treap k => s.treapBack cid slot k
  | .exit => if runs then endThread (s.flushWords cid slot) cid slot .exited else s
  | .trap v => if runs then s.trapBack w v else s
  | .vmode long => s.modCore cid (fun c => c.setMode long)
  | .segset g base lr => s.modThread cid slot (fun t =>
      { t with segs := Table.put SegReg.zero t.segs g ⟨base, lr⟩, entSeg := t.entSeg && g ≠ 7 })
  | .bankfmt bank v => s.modBank bank (fun b => { b with fmt := v })
  | .bankfree bank => s.closeBank bank
  | .poolset v => s.modCluster (clOf cid) (fun k => k.poolset (((s.core cid).region).getD 0) v)
  | .histsample bank bin r =>
    { s with wbs := s.wbs ++ [{ w with due := w.due + 2, act := s.deliver cid r (wrap64 (Table.get 0 (s.bank bank).bins bin)) }] }
  | .histclr bank => s.modBank bank (fun b => { b with bins := [] })
  | .cpstream k token => s.modCore cid (fun c => { c with streams := Table.set c.streams k ⟨token, slot, none, [], [], false⟩ })
  | .qcfg k v => s.qcfgBack cid k v
  | .rvbytes pt n => s.bytesBack cid pt n
  | .hdlset i a => match (s.core cid).inEnd? i with
    | some e => s.setIn cid i { e with handler := a }
    | none => s
  | .chclose out i => if out then s.closeOut cid i else s.closeIn cid i
  | .recv _ a => if (s.core cid).attached then s.modCore cid (fun c => { c with tileNow := a.ts }) else s
  | .evdone =>
    if (s.thread cid slot).handler then endThread (s.flushWords cid slot) cid slot .exited
    else s.modCore cid (fun c => { c with attached := false })
  | .spawn pc f p => s.spawnBack cid slot pc f p
  | .sync pc => if runs then (s.flushWords cid slot).syncBack cid slot pc else s
  | .tscore v => s.scoreBack cid v
  | .tround => if runs then s.roundBack cid slot else s
  | .tgrow r =>
    let (s, v) := s.growBack cid
    { s with wbs := s.wbs ++ [{ w with act := s.deliver cid r v }] }
  | .trank r e =>
    { s with wbs := s.wbs ++ [{ w with act := s.deliver cid r (((s.regionOf cid).map (fun g => g.standing e)).getD 0) }] }
  | .qthaw core deque k => s.thaw (((s.core cid).region).getD 0) core deque k
  | .tick op id => s.engAct w (.tickCmd op id)
  | .mxarea load va id => s.engAct w (.areaCmd load va id)

/-- An act whose value is taken first: it becomes a delivery of the same cycle. -/
def Wb.takesFirst (w : Wb) : Bool :=
  match w.act with
  | .tgrow _ => true
  | .trank _ _ => true
  | _ => false

/-- A count of a bank's bins is taken as it stands at the end of its cycle (R123). -/
def Wb.samples (w : Wb) : Bool :=
  match w.act with
  | .histsample _ _ _ => true
  | _ => false

/-- A bank closes before anything enters a queue in its cycle (R118). -/
def Wb.closes (w : Wb) : Bool :=
  match w.act with
  | .bankfree _ => true
  | _ => false

/-- An act that ends a thread: the other acts of its cycle have taken effect before (R108). -/
def Wb.ends (w : Wb) : Bool :=
  match w.act with
  | .exit => true
  | .trap _ => true
  | .evdone => true
  | .sync _ => true
  | .treap _ => true
  | _ => false

/-- The order in which register writes are made: the write that takes effect under R75 comes last. -/
def Wb.losesTo (a b : Wb) : Bool :=
  b.cid < a.cid || (a.cid = b.cid && (b.slot < a.slot || (a.slot = b.slot && a.seq < b.seq)))

/-- The order of all other acts: ascending core, slot, bundle (R297). -/
def Wb.before (a b : Wb) : Bool :=
  a.cid < b.cid || (a.cid = b.cid && (a.slot < b.slot || (a.slot = b.slot && a.seq < b.seq)))

def insertWb (lt : Wb → Wb → Bool) (w : Wb) : List Wb → List Wb
  | [] => [w]
  | x :: xs => if lt w x then w :: x :: xs else x :: insertWb lt w xs

def sortWb (lt : Wb → Wb → Bool) (l : List Wb) : List Wb := l.foldl (fun acc w => insertWb lt w acc) []

/-- Takes the acts that are due and pass a test, in an order, out of the list and makes them. -/
def State.applyDue (s : State) (p : Wb → Bool) (lt : Wb → Wb → Bool) : State :=
  let now (w : Wb) : Bool := w.due ≤ s.cyc && p w
  let due := sortWb lt (s.wbs.filter now)
  due.foldl (fun s w => s.wbAct w) { s with wbs := s.wbs.filter (fun w => !now w) }

/-- The write-back cycle: values taken in it, banks closed, register writes, then the rest, with bins counted and threads
ended last. -/
def State.writeBack (s : State) : State :=
  (((((s.applyDue (·.takesFirst) Wb.before).applyDue (·.closes) Wb.before).applyDue (·.regWrite) Wb.losesTo).applyDue
    (fun w => !w.samples && !w.ends) Wb.before).applyDue (·.samples) Wb.before).applyDue (fun _ => true) Wb.before

/-- Announcements reach their points before the bytes of the same cycle land (R233, R234). -/
def State.announceBack (s : State) : State :=
  s.applyDue (fun w => match w.act with | .rvbytes _ _ => true | _ => false) Wb.before

/-- Engine words and messages whose thread's acquires have been written leave the port, in order (R217). -/
def State.flushPort (s : State) : State :=
  s.reqs.foldl (fun s r => if s.acquiring r.cid r.slot r.id || (r.op.engine && !(s.acqStores r.cid r.slot).isEmpty) then s
    else (s.engHeld r).sendHeld r) s

end Sys2Proof.Machine
end

