-- ==== Sys2Proof/Machine/Sched.lean ====
section
/-! DEFINITION. What comes about by itself at the end of a cycle, in the model's order: the steps of requests, flits,
engines, banks, regions and the tinkers that may be due. Each is the meaning of an event of its own, tests its condition
itself, and changes nothing where that does not hold. -/

namespace Sys2Proof.Machine

/-- A step of the part. -/
abbrev Act := State → Out'

/-- The resend that a refused request waits for (R134, R173, R220, R322, R335). -/
def State.resendEvent (s : State) (r : Req) : Act :=
  if r.afTag.isSome then execAfaddResend r.id
  else if r.isOpenStore s then execOpenStoreResend r.id
  else if !r.scratchy then execPinnedAccessResend r.id
  else if s.displacedKind r then execDisplacedRequestResend r.id
  else execFeRequestResend r.id

/-- The steps a sent request may be due for. -/
def State.sentEvents (s : State) (r : Req) : List Act :=
  if r.op.atReturn then [execLateResultWriteback r.id]
  else if r.op.isRst.getD 0 ≠ 0 then [execStreamStoreArrival r.id]
  else if r.afTag.isSome then [execAfaddAccept r.id]
  else if r.scratchy then (if (s.displacedTarget r).isSome then [execDisplacedRequestArrival r.id] else [])
  else match r.op with
    | .pgfill _ => [execPgfillComplete r.id]
    | .launch _ => [execSliceAccessPerform r.id 0]
    | _ => (List.range r.pieces.length).map (fun i => execSliceAccessPerform r.id i)

/-- A result from an L2 slice or another cluster takes its time (R366). -/
def State.onItsWay (s : State) (r : Req) : Bool :=
  r.op.late && (r.space = .global || r.space = .stack || r.space = .remote) && s.cyc < r.born + Config.farCycles

/-- The steps a request may be due for. -/
def State.reqEvents (s : State) (r : Req) : List Act :=
  match r.stage with
  | .walking => [if r.op.isLaunch then execSliceAccessPerform r.id 0 else execPageWalkEnd r.id]
  | .unsent => []
  | .sent => s.sentEvents r
  | .parked => []
  | .refused _ => [s.resendEvent r]
  | .held => [execStreamStoreArrival r.id]
  | .recall => []
  | .bounced _ _ => [execRemoteRefusalArrival r.id]
  | .served => if s.onItsWay r then [] else [if r.op.late then execLateResultWriteback r.id else execStoreAcknowledge r.id]
  | .writing => []

/-- The banks a request's unperformed accesses go to. -/
def Req.banks (r : Req) : List Nat :=
  if r.scratchy && r.stage = .sent then (r.pieces.filter (fun p => !p.done)).map (fun p => bankKey r.cl (bankOfSa p.addr)) else []

/-- Banks with arrivals, each with the requests that reach it (R132, R133). -/
def State.bankEvents (s : State) : List Act :=
  let keys := (s.reqs.flatMap Req.banks).foldl NatSet.add []
  keys.map (fun k => fun (s : State) => .next (s.bankNew k ((s.reqs.filter (fun r => r.banks.contains k)).map (·.id))))

/-- Banks with parked requests: each tests them first in a cycle (R133). -/
def State.parkedTests (s : State) : State :=
  ((s.banks.filter (fun e => !e.2.park.isEmpty)).map (·.1)).foldl (fun s k => s.parkTests k) s

/-- Lines whose recall is awaited. -/
def State.recallEvents (s : State) : List Act :=
  let lines := (s.reqs.filter (fun r => r.stage = .recall)).flatMap (fun r =>
    (r.pieces.filter (fun p => !p.done)).map (fun p => lineOf (s.fwd p.key)))
  (lines.foldl NatSet.add []).map execLineRecallComplete

/-- One entry of each store buffer is sent in a cycle (R209). -/
def State.bufferEvents (s : State) : List Act :=
  (((s.reqs.filter (fun r => r.buffered && r.stage = .unsent)).map (·.cid)).foldl NatSet.add []).map execStoreBufferSend

/-- The arrival of a flit under way. -/
def State.flitEvent (s : State) (n : Nat) (f : Flit) : Act :=
  if f.poisoned && (f.kind = .hunger || f.kind = .join || f.kind = .close) then fun s => .next (s.dropFlit n)
  else match f.kind with
  | .msg => if canSpill s n then execDisplacedRequestArrival (2 ^ 48 + n) else execMessageAccept n
  | .promise => execPromiseFlitArrival n
  | .hunger => execHungerFlitArrival n
  | .join => execJoinFlitArrival n
  | .close => execCloseFlitArrival n
  | .ret => execAllowanceReturn n
  | .dead => execDeadLetterReturn n

/-- Arrivals of flits, last first, so that a number stays that of its flit. -/
def State.flitEvents (s : State) : List Act :=
  ((s.flits.zipIdx.filter (fun e => s.flitPath e.1)).map (fun e => s.flitEvent e.2 e.1)).reverse

/-- Numbers of the ready entries of a list, each lowered by the entries removed before it. -/
def readyAt {α : Type} (p : α → Bool) (l : List α) : List Nat :=
  ((l.zipIdx.filter (fun e => p e.1)).map (·.2)).zipIdx.map (fun e => e.1 - e.2)

/-- The engines and the tinker of a cluster: an executing command's step comes before the next command's begin. -/
def engineEvents (cl : Nat) : List Act :=
  [execFollowOnEnter cl, execCpLin cl, execCp2d cl, execCpGath cl, execCpScat cl, execCpBcst cl, execCopyBytesLand cl,
   execMxKStep cl, execMxDrain cl, execMxZero cl, execMxMma cl, execMxSpmma cl, execMxsaveExecute cl, execMxloadExecute cl,
   execTickNote cl, execTickEntryExecute cl, execPoolSamplingInterval cl, execDrainTimeout cl, execClusterClearEnd cl,
   execTinkerServiceDispatch cl]

/-- A pool bank between two roles (R118, R120). -/
def bankStep (e : Nat × Bank) : List Act :=
  match e.2.role with
  | .leaving _ _ => [execCacheBankWritebackEnd e.1]
  | .closing _ => [execBankIdle e.1]
  | .clearing _ => [execBankClearEnd e.1]
  | .home => []
  | .free => []
  | .alloc _ => []
  | .cache => []

/-- A core's own steps (R158, R226, R295). -/
def coreEvents (e : Nat × Core) : List Act :=
  (if e.2.compWait.isEmpty then [] else [execEngineCompletionPost e.1]) ++
  (if e.2.blockedSince.isSome then [execSweepDelayExpiry e.1] else []) ++
  (if e.2.region.isSome then [execStealAttempt e.1] else []) ++
  (if e.2.starting.isSome then [fun s => .next (taskStart e.1 s)] else [])

/-- Records of stopped threads whose writes are performed by now (R325); those of a displaced core wait for its return. -/
def State.lateRecords (s : State) (rid : Nat) : State :=
  s.flushLate rid (fun l => s.recReady l.cid l.slot l.upTo && (s.core l.cid).region = some rid)

/-- A region's own steps; its notices go on after its end (R328). -/
def regionEvents (e : Nat × Region) : List Act :=
  (if e.2.late.isEmpty then [] else [fun s => .next (s.lateRecords e.1)]) ++
  (if e.2.notices.isEmpty then [] else [execNoticePush e.1]) ++
  if !e.2.live then []
  else
    (e.2.upcalls.filter (fun u => !u.pushed)).map (fun u => execHeldUpcallPush e.1 u.page) ++
    [execFloorSweepComplete e.1, execFloorSweepStart e.1] ++
    (e.2.teams.filter (fun t => t.2.st = .placed)).map (fun t => execTeamRetire e.1 t.1) ++
    [execRoundBarrierComplete e.1, execRegionAllowanceEnd e.1, execTeamDisplace e.1, execTeamRestore e.1, execRegionStop e.1, execRegionEnd e.1]

/-- The placement of the head team, on the lowest cluster that takes it (R282). -/
def State.placeEvents (s : State) : List Act :=
  if s.head.isNone then []
  else match (List.range Config.clusters).find? (fun cl => canPlace s cl) with
    | some cl => [execTeamPlacement cl]
    | none => []

/-- Dropped threads whose wake message is there (R192). -/
def State.dropEvents (s : State) : List Act :=
  (s.threads.filter (fun e => e.2.state = .dropped && e.2.woken)).map (fun e => execWakeMessage (e.1 / 16) (e.1 % 16))

/-- The part's own steps at the end of a cycle. -/
def State.events (s : State) : List Act :=
  s.reqs.flatMap s.reqEvents ++ s.recallEvents ++ s.bankEvents ++ s.bufferEvents ++ s.flitEvents ++
  s.closeFlits.map (fun _ => execStreamCloseFlit 0) ++
  (readyAt s.arrivalReady s.arrivals).map execRvArrivalCount ++ s.reports.map (fun _ => execRemoteLandingReport 0) ++
  (s.clusters.map (·.1)).flatMap engineEvents ++ s.banks.flatMap bankStep ++ s.cores.flatMap coreEvents ++
  (if s.host.mig.isSome then [execMigrationLineCopy, execMigrationEnd] else []) ++
  (if s.host.drover.isEmpty then [] else [execDroverEntryTake 0, execDroverEntryTake 1, execDroverEntryTake 2, execDroverEntryTake 3]) ++
  s.regions.flatMap regionEvents ++ s.placeEvents ++ s.dropEvents ++ [execThermalReset]

/-- Pins of ended threads whose earlier writes are performed by now are widened (R221). -/
def State.settleAllPins (s : State) : State :=
  ((s.cores.filter (fun e => !e.2.pins.isEmpty)).map (·.1)).foldl (fun s c => s.settlePins c) s

/-- What every cycle brings up to date: writes of the part itself that wait (R222), pins of ended threads, promises, hunger and
the time a tile has been blocked (R152, R156, R158), and how long a save or stop has kept a cluster draining (R339). -/
def State.upkeep (s : State) : State :=
  let s := s.drainHome.settleAllPins
  let tiles := (s.cores.filter (fun e => !e.2.away && (match s.regionOf e.1 with | some r => r.kind = .event | none => false))).map (·.1)
  (tiles.foldl (fun s c =>
    let s := s.tileFlits c
    let b := s.blocked c
    s.modCore c (fun k => { k with blockedSince := if b then some (k.blockedSince.getD s.cyc) else none })) s).noteDrains

/-- Tiles whose candidate can be handed out (R146). -/
def State.dispatches (s : State) : List Act :=
  (s.cores.filter (fun e => s.route e.1 ≠ .wait)).map (fun e => execArrivalDispatch e.1)

/-- Parked threads, whose conditions are evaluated every cycle (R97). -/
def State.wakes (s : State) : List Act :=
  (s.threads.filter (fun e => e.2.state = .parked && !e.2.barrier)).map (fun e => execParkedBundleReissue (e.1 / 16) (e.1 % 16))

end Sys2Proof.Machine
end

