-- ==== Sys2Proof/Machine/Issue.lean ====
section
/-! DEFINITION. The rotation (R92 to R95, R251), the issue of a bundle (R20 to R25, R46), the end of a cycle, and one
step of the machine over a given dispatch `ex`. -/

namespace Sys2Proof.Machine

/-! ### One bundle -/

/-- The words of a bundle as step 2 of R46 sees them: one whose opcode is unassigned names no registers. -/
def viewOf (l : List (Nat × Word)) : List (Instr × Word) := l.filterMap (fun e => (viewWord e.1).map (fun i => (i, e.2)))

/-- A bundle with a word that steps 3 or 4 of R46 refuse: its pairing rules come first. -/
def refusedWord (s : State) (words : List (Nat × Word)) (next : Out') : Out' :=
  match pairingFault s (viewOf words) with
  | some f => .next (gateEnd s (.fault f))
  | none => next

/-- A word issued alone: its instruction, or the fault of R44 or R29. -/
def issueOne (ex : Instr → State → Out') (s : State) (w : Nat) : Out' :=
  match decodeWord w with
  | .ok i => ex i s
  | .illegalOpcode => refusedWord s [(w, issueW5 w (clsOf w))] (execUnassignedOpcode (BitVec.ofNat 32 w) s)
  | .reservedRm => refusedWord s [(w, issueW5 w (clsOf w))]
      (.next (gateEnd s (.fault (flt5 fReservedRm (issueW5 w (clsOf w))))))

/-- Control words whose park holds back neither the pair's arithmetic word nor its count (R219). -/
def parksAlone : Instr → Bool
  | .fence _ => true
  | .widen _ => true
  | _ => false

/-- A pair of instructions (R23, R24): both read the state before the bundle; the arithmetic word takes effect unless the
control word faulted or parked. Beside a `FENCE` or `WIDEN` that parks it takes effect at once (R219). -/
def issueBoth (ex : Instr → State → Out') (s : State) (i j : Instr) (c b : Nat) : Out' :=
  match gate s [(i, issueW5 c false), (j, issueW5 b true)] with
  | some o => .next (gateEnd s o)
  | none =>
    match ex i (s.enter [i, j]) with
    | .next s1 => match s1.bun.out with
      | .fault _ => .next (finish s s1)
      | .park r _ =>
        if parksAlone i then match ex j { s1 with bun := { s1.bun with out := .ok } } with
          | .next s2 => .next (finishParked s s2 r)
          | o => o
        else .next (finish s s1)
      | _ => match ex j s1 with
        | .next s2 => .next (finish s s2)
        | o => o
    | o => o

/-- A pair of words: steps 3 and 4 of R46 look at the control word first, after step 2. -/
def issuePair (ex : Instr → State → Out') (s : State) (c b : Nat) : Out' :=
  let refuse := refusedWord s [(c, issueW5 c false), (b, issueW5 b true)]
  match decodeWord c, decodeWord b with
  | .ok i, .ok j => issueBoth ex s i j c b
  | .illegalOpcode, _ => refuse (execUnassignedOpcode (BitVec.ofNat 32 c) s)
  | _, .illegalOpcode => refuse (execUnassignedOpcode (BitVec.ofNat 32 b) s)
  | .reservedRm, _ => refuse (.next (gateEnd s (.fault (flt5 fReservedRm (issueW5 c false)))))
  | _, .reservedRm => refuse (.next (gateEnd s (.fault (flt5 fReservedRm (issueW5 b true)))))

/-- A fetched bundle of a thread issues (R20, R22, R44). -/
def issueFetched (ex : Instr → State → Out') (s : State) (r : Region) (cid slot : Nat) (f : Fetched) : Out' :=
  let a := (s.thread cid slot).fetchAt
  let s' := s.fetchUse r cid a.toNat
  match f with
  | .lone w => issueOne ex (s'.beginBundle cid slot a (a + 4) 1 w) w
  | .again w => issueOne ex (s'.beginBundle cid slot a (a + 4) 1 w) w
  | .pair c b => issuePair ex (s'.beginBundle cid slot a (a + 8) 2 c) c b
  | .unpaired w =>
    .next (gateEnd (s'.beginBundle cid slot a (a + 4) 1 w) (.fault (flt5 fIllegalBundle (issueW5 w (clsOf w)))))
  | .outside b => execBundleAddress (wrap64 b) (s.beginBundle cid slot a a 0 0)
  | .stop flt => .next (stopThread s cid slot flt a)
  | .miss b => .next (s.fetchWalk r.id cid slot b)

/-! ### The rotation -/

/-- The slots in the order in which they may take a turn that slot q owns (R93). -/
def turnOrder (det : Bool) (q : Nat) : List Nat := if det then [q % 16] else (List.range 16).map (fun i => (q + i) % 16)

/-- A thread may take a turn (R93, R301, R331). -/
def State.eligible (s : State) (r : Region) (cid slot : Nat) : Bool :=
  let t := s.thread cid slot
  t.state = .ready && !t.walking && t.notBefore ≤ s.cyc && r.live && !r.stopDue && (r.kind ≠ .tournament || r.roundOn)

/-- A word with a vector field (R28). -/
def vecWord (w : Nat) : Bool :=
  match decodeWord w with
  | .ok i => !i.shape.vs.isEmpty || i.shape.vd.isSome
  | _ => false

/-- A bundle with a vector field; in long mode it names a `w` register (R28, R251). -/
def Fetched.vec : Fetched → Bool
  | .lone w => vecWord w
  | .again w => vecWord w
  | .pair c b => vecWord c || vecWord b
  | .outside _ => false
  | .unpaired _ => false
  | .miss _ => false
  | .stop _ => false

/-- What stands at an eligible slot; none for one that may not take the turn: a fetch that misses (R192), a vector bundle
while another thread's `VMODE` switches (R250), or one without the long unit's grant (R251). -/
def State.candidateAt (s : State) (r : Region) (cid : Nat) (noVec : Bool) (slot : Nat) : Option (Nat × Fetched) :=
  if !s.eligible r cid slot then none
  else match s.fetchBundle r cid slot with
    | .miss _ => none
    | f =>
      if f.vec && (noVec || (match (s.core cid).vmodeBusy with | some k => k ≠ slot | none => false)) then none
      else some (slot, f)

/-- The slot whose cycle it is on a core's die (R92). -/
def State.owner (s : State) (cid : Nat) : Nat := s.cycOf (dieOf cid) % 16

/-- The holder of a core's turn. -/
def State.holder (s : State) (r : Region) (cid : Nat) (noVec : Bool) : Option (Nat × Fetched) :=
  (turnOrder r.det (s.owner cid)).findSome? (s.candidateAt r cid noVec)

/-- A core's turn-holder has a bundle that names a `w` register. -/
def State.presses (s : State) (cid : Nat) : Bool :=
  (s.core cid).long && !(s.core cid).away && (match s.regionOf cid with
    | some r => (match s.holder r cid false with | some (_, f) => f.vec | none => false)
    | none => false)

/-- The long unit's grant in this cycle, among the cores of a cluster from core j on (R251): the first after the core it
granted last; none once it has granted one. -/
def State.granted (s : State) (cl j : Nat) : Option Nat :=
  let k := s.cluster cl
  if k.grantCyc = some s.cyc then none
  else ((List.range 16).map (fun i => (k.lastGrant + 1 + i) % 16)).find? (fun c => j ≤ c && s.presses (32 * cl + c))

/-- Who takes a core's turn, and whether with the long unit's grant. -/
def State.taker (s : State) (r : Region) (cid : Nat) : Option (Nat × Fetched) × Bool :=
  match s.holder r cid false with
  | none => (none, false)
  | some (k, f) =>
    if (s.core cid).long && f.vec then
      if s.granted (clOf cid) (coreOf cid) = some (coreOf cid) then (some (k, f), true)
      else (s.holder r cid true, false)
    else (some (k, f), false)

/-- Slots before the taker whose fetch misses begin their walks (R192). -/
def State.startWalks (s : State) (r : Region) (cid : Nat) (upTo : Option Nat) : State :=
  ((turnOrder r.det (s.owner cid)).takeWhile (fun k => some k ≠ upTo)).foldl (fun s k =>
    if s.eligible r cid k then match s.fetchBundle r cid k with
      | .miss a => s.fetchWalk r.id cid k a
      | _ => s
    else s) s

/-- The threads of an entrant whose round is over park at their next bundle (R312). -/
def State.roundHeld (s : State) (cid : Nat) : Bool :=
  match s.entrantOf cid with
  | some (_, _, e) => e.roundOver
  | none => false

/-- The thread that parks at the round barrier in a core's turn: the next bundle of one whose control word was dropped on a
page fault comes only after that word has issued again (R24, R312). -/
def State.parksNext (s : State) (r : Region) (cid : Nat) : Option Nat :=
  if s.roundHeld cid then
    (turnOrder r.det (s.owner cid)).find? (fun k => s.eligible r cid k && (s.thread cid k).reissue.isNone)
  else none

/-- A core's turn of the cycle. -/
def coreTurn (ex : Instr → State → Out') (s : State) (cid : Nat) : Out' :=
  match s.regionOf cid with
  | none => .next s
  | some r => match s.parksNext r cid with
    | some k => .next (parkBarrier s cid k)
    | none =>
      let t := s.taker r cid
      let s1 := s.startWalks r cid (t.1.map (·.1))
      let s2 := if t.2 then s1.modCluster (clOf cid) (fun k => { k with lastGrant := coreOf cid, grantCyc := some s.cyc }) else s1
      match t.1 with
      | some (k, f) => issueFetched ex s2 r cid k f
      | none => .next s2

/-- The next core of this cycle with a thread that is ready. -/
def State.nextCore (s : State) : Option Nat :=
  (s.cores.find? (fun e => s.turn ≤ e.1 && coreOf e.1 < 16 && e.2.region.isSome && !e.2.away &&
    (List.range 16).any (fun k => (s.thread e.1 k).state = .ready))).map (·.1)

/-! ### The end of a cycle -/

/-- The part's own steps, one after another. -/
def runActs : List Act → State → Out'
  | [], s => .next s
  | a :: rest, s => match a s with
    | .next s' => runActs rest s'
    | o => o

/-- Write-backs and landings of the cycle, and what follows from them at once. -/
def State.settle (s : State) : State := (s.settleLandings.writeBack.flushPort).upkeep

/-- The next cycle begins: parked requests are tested before any bundle issues (R133). -/
def State.nextCycle (s : State) : State := ({ s with cyc := s.cyc + 1, turn := 0 } : State).parkedTests

/-- The end of a cycle: the part's own steps, write-backs, dispatch and wakes. -/
def endCycle (s : State) : Out' :=
  let s0 := s.announceBack
  match runActs s0.events s0 with
  | .next s1 =>
    let s2 := s1.settle
    match runActs s2.dispatches s2 with
    | .next s3 => match runActs s3.wakes s3 with
      | .next s4 => .next s4.nextCycle
      | o => o
    | o => o
  | o => o

/-! ### The environment -/

/-- A thread of a compute core issues out of turn. -/
def issueNow (ex : Instr → State → Out') (s : State) (cid slot : Nat) : Out' :=
  match s.regionOf cid with
  | some r => issueFetched ex s r cid slot (s.fetchBundle r cid slot)
  | none => .next s

/-- An instruction of a tinker's firmware, issued in its thread (R337). -/
def firmware (ex : Instr → State → Out') (s : State) (cl : Nat) (i : Instr) : Out' :=
  ex i { s with bun := { Bun.none with cid := 32 * cl + 16, words := 1 } }

/-- What the environment has in store. -/
def takeTurn (ex : Instr → State → Out') (s : State) : Turn → Out'
  | .ev i => ex i s
  | .issue cid slot => issueNow ex s cid slot
  | .fw cl i => firmware ex s cl i

/-- ONE STEP: what the environment has in store, else the turn of the next core, else the end of the cycle. A part that is
held in reset does nothing by itself (R359, R364). -/
def stepWith (ex : Instr → State → Out') (s : State) : Out' :=
  match s.agenda with
  | t :: rest => takeTurn ex { s with agenda := rest } t
  | [] =>
    if !s.up then .next s
    else match s.nextCore with
      | some cid => coreTurn ex { s with turn := cid + 1 } cid
      | none => endCycle s

/-! ### A word where the next step fetches -/

/-- The region that the placed word runs in: a grid region whose code range is one bundle. -/
def wordRegion : Region :=
  let f : List (Nat × Word) := [(7, 0x10000), (9, 8), (16, Config.unlimited), (17, Config.unlimited)]
  { Region.fresh 1 .grid f 0 0 none 0 none with state := 2, teams := [(0, { Team.fresh with st := .placed, cores := [0] })] }

/-- The bytes of the bundle that holds one word: a lone word by itself, either half of a pair with the `NOP` of the other
half beside it (R20, R43). -/
def wordBundle (w : Nat) : Nat :=
  if loneOf w then w else if clsOf w then w * 2 ^ 32 else w + 0x40000000 * 2 ^ 32

/-- The word stands at the next fetch of slot 0 of core 0, whose turn the next step is: the core is placed in a region, the
page of the code is in the translation cache, and the thread is ready at the bundle. -/
def State.placeWord (s : State) (w : Nat) : State :=
  let s := s.setRegion 1 wordRegion
  let s := s.modCore 0 (fun c => { c with region := some 1, away := false })
  let ready (t : Thread) : Thread :=
    { t with state := .ready, pc := 0x10000, reissue := none, walking := false, notBefore := 0, allow := Config.unlimited }
  let s := s.modThread 0 0 ready
  let s := s.modCluster 0 (fun k => k.tlbUse ⟨1, 1, 16, wrap64 (2 ^ 63 + 2 ^ 62 + 2 ^ 60 + 0x10000)⟩)
  { s.write 0x10000 8 (wordBundle w) with agenda := [.issue 0 0] }

end Sys2Proof.Machine
end

