-- ==== Sys2Proof/Machine/Scalar.lean ====
section
/-! DEFINITION. The scalar floating-point forms on general registers (R262). -/

namespace Sys2Proof.Machine

/-- An operand's bits. -/
def State.fsrc (s : State) (f : Fmt) (r : Reg) : Nat := (s.src r).toNat % 2 ^ f.bits

/-- The rounding of a `.S` form: lane and element 0. -/
def State.env0 (s : State) (rm : Rm) : FEnv := s.env rm 0

/-- Float results are written zero-extended. -/
def scal2 (f : Fmt) (rm : Rm) (d a b : Reg) (g : FV → FV → FRes) (s : State) : Res :=
  putD d (wrap64 (f.bin (s.env0 rm) g (s.fsrc f a) (s.fsrc f b))) s
def scal1 (f : Fmt) (rm : Rm) (d a : Reg) (g : FV → FRes) (s : State) : Res :=
  putD d (wrap64 (f.un (s.env0 rm) g (s.fsrc f a))) s

def execVaddS (t : SF) (r : Rm) (d a b : Reg) (s : State) : Out' := run (.vaddS t r d a b) s (scal2 t.fmt r d a b (exactAdd r))
def execVsubS (t : SF) (r : Rm) (d a b : Reg) (s : State) : Out' := run (.vsubS t r d a b) s (scal2 t.fmt r d a b (exactSub r))
def execVmulS (t : SF) (r : Rm) (d a b : Reg) (s : State) : Out' := run (.vmulS t r d a b) s (scal2 t.fmt r d a b exactMul)
def execVfmaS (t : SF) (r : Rm) (d a b : Reg) (s : State) : Out' :=
  run (.vfmaS t r d a b) s (fun s =>
    putD d (wrap64 (t.fmt.fma (s.env0 r) (s.fsrc t.fmt a) (s.fsrc t.fmt b) (s.fsrc t.fmt d))) s)
def execVdivS (t : SF) (r : Rm) (d a b : Reg) (s : State) : Out' :=
  run (.vdivS t r d a b) s (scal2 t.fmt r d a b (exactDiv t.fmt))
def execVsqrtS (t : SF) (r : Rm) (d a : Reg) (s : State) : Out' := run (.vsqrtS t r d a) s (scal1 t.fmt r d a (exactSqrt t.fmt))
def execVminS (t : SF) (d a b : Reg) (s : State) : Out' :=
  run (.vminS t d a b) s (fun s => putD d (wrap64 (t.fmt.minMax false (s.fsrc t.fmt a) (s.fsrc t.fmt b))) s)
def execVmaxS (t : SF) (d a b : Reg) (s : State) : Out' :=
  run (.vmaxS t d a b) s (fun s => putD d (wrap64 (t.fmt.minMax true (s.fsrc t.fmt a) (s.fsrc t.fmt b))) s)
def execVabsS (t : SF) (d a : Reg) (s : State) : Out' :=
  run (.vabsS t d a) s (fun s => putD d (wrap64 (t.fmt.withSign (fun _ => false) (s.fsrc t.fmt a))) s)
def execVnegS (t : SF) (d a : Reg) (s : State) : Out' :=
  run (.vnegS t d a) s (fun s => putD d (wrap64 (t.fmt.withSign (fun n => !n) (s.fsrc t.fmt a))) s)
def execVrcpS (t : SF) (r : Rm) (d a : Reg) (s : State) : Out' := run (.vrcpS t r d a) s (scal1 t.fmt r d a t.fmt.rcp)
def execVrsqS (t : SF) (r : Rm) (d a : Reg) (s : State) : Out' := run (.vrsqS t r d a) s (scal1 t.fmt r d a (exactRsqrt t.fmt))
def execVexpS (t : SF) (r : Rm) (d a : Reg) (s : State) : Out' :=
  run (.vexpS t r d a) s (scal1 t.fmt r d a (spExp (spBits t.fmt)))
def execVlogS (t : SF) (r : Rm) (d a : Reg) (s : State) : Out' :=
  run (.vlogS t r d a) s (scal1 t.fmt r d a (spLog (spBits t.fmt)))
def execVtanhS (t : SF) (r : Rm) (d a : Reg) (s : State) : Out' :=
  run (.vtanhS t r d a) s (scal1 t.fmt r d a (spTanh (spBits t.fmt)))
def execVcmpS (t : SF) (c : VCond) (d a b : Reg) (s : State) : Out' :=
  run (.vcmpS t c d a b) s (fun s =>
    putD d (if c.holds (t.fmt.decode (s.fsrc t.fmt a)) (t.fmt.decode (s.fsrc t.fmt b)) then 1 else 0) s)

/-- `VCVT.S`: signed integer results are sign-extended, all others zero-extended. -/
def widenNum (t : NumTy) (x : Nat) : Word :=
  match t with
  | .fl _ => wrap64 x
  | .int b sg => wrapI (intVal b sg x)
def execVcvtS (dst src : ST) (r : Rm) (d a : Reg) (s : State) : Out' :=
  run (.vcvtS dst src r d a) s (fun s =>
    putD d (widenNum dst.num (convert dst.num src.num r (s.srgNow 0) ((s.src a).toNat % 2 ^ src.num.bits))) s)

end Sys2Proof.Machine
end

