-- ==== Sys2Proof/Machine/Dispatch.lean ====
section
/-! DEFINITION. One arm for every constructor of Instr: a direct call of its meaning. -/

namespace Sys2Proof.Machine

def exec (i : Instr) (s : State) : Host.Outcome State Fault Refusal :=
  match i with
  | .nop => Sys2Proof.Machine.execNop s
  | .nopArith => Sys2Proof.Machine.execNopArith s
  | .yield => Sys2Proof.Machine.execYield s
  | .exit => Sys2Proof.Machine.execExit s
  | .trap a => Sys2Proof.Machine.execTrap a s
  | .jr a => Sys2Proof.Machine.execJr a s
  | .jlr a => Sys2Proof.Machine.execJlr a s
  | .rdsr d sr => Sys2Proof.Machine.execRdsr d sr s
  | .wrsr b sr => Sys2Proof.Machine.execWrsr b sr s
  | .fence sc => Sys2Proof.Machine.execFence sc s
  | .widen sc => Sys2Proof.Machine.execWiden sc s
  | .vmode => Sys2Proof.Machine.execVmode s
  | .vmodeLong => Sys2Proof.Machine.execVmodeLong s
  | .tstart a b => Sys2Proof.Machine.execTstart a b s
  | .treap a => Sys2Proof.Machine.execTreap a s
  | .tstat d b => Sys2Proof.Machine.execTstat d b s
  | .rvinit a pt => Sys2Proof.Machine.execRvinit a pt s
  | .rvarr pt => Sys2Proof.Machine.execRvarr pt s
  | .rvwait pt => Sys2Proof.Machine.execRvwait pt s
  | .rvbytes a pt => Sys2Proof.Machine.execRvbytes a pt s
  | .movi d imm => Sys2Proof.Machine.execMovi d imm s
  | .movhi d imm => Sys2Proof.Machine.execMovhi d imm s
  | .addi d imm => Sys2Proof.Machine.execAddi d imm s
  | .addiW d imm => Sys2Proof.Machine.execAddiW d imm s
  | .wait mx cp st ld => Sys2Proof.Machine.execWait mx cp st ld s
  | .j off => Sys2Proof.Machine.execJ off s
  | .jl off => Sys2Proof.Machine.execJl off s
  | .spawn off => Sys2Proof.Machine.execSpawn off s
  | .beq a b off => Sys2Proof.Machine.execBeq a b off s
  | .bne a b off => Sys2Proof.Machine.execBne a b off s
  | .blt a b off => Sys2Proof.Machine.execBlt a b off s
  | .bge a b off => Sys2Proof.Machine.execBge a b off s
  | .bltu a b off => Sys2Proof.Machine.execBltu a b off s
  | .bgeu a b off => Sys2Proof.Machine.execBgeu a b off s
  | .bz a off => Sys2Proof.Machine.execBz a off s
  | .bnz a off => Sys2Proof.Machine.execBnz a off s
  | .beng eng cond tok off => Sys2Proof.Machine.execBeng eng cond tok off s
  | .ldB d x g imm => Sys2Proof.Machine.execLdB d x g imm s
  | .ldH d x g imm => Sys2Proof.Machine.execLdH d x g imm s
  | .ldW d x g imm => Sys2Proof.Machine.execLdW d x g imm s
  | .ldD d x g imm => Sys2Proof.Machine.execLdD d x g imm s
  | .ldBSx d x g imm => Sys2Proof.Machine.execLdBSx d x g imm s
  | .ldHSx d x g imm => Sys2Proof.Machine.execLdHSx d x g imm s
  | .ldWSx d x g imm => Sys2Proof.Machine.execLdWSx d x g imm s
  | .stB d x g imm => Sys2Proof.Machine.execStB d x g imm s
  | .stH d x g imm => Sys2Proof.Machine.execStH d x g imm s
  | .stW d x g imm => Sys2Proof.Machine.execStW d x g imm s
  | .stD d x g imm => Sys2Proof.Machine.execStD d x g imm s
  | .lds d x g imm => Sys2Proof.Machine.execLds d x g imm s
  | .ldf d x g imm => Sys2Proof.Machine.execLdf d x g imm s
  | .sts d x g imm => Sys2Proof.Machine.execSts d x g imm s
  | .stf d x g imm => Sys2Proof.Machine.execStf d x g imm s
  | .feset x g => Sys2Proof.Machine.execFeset x g s
  | .feclr x g => Sys2Proof.Machine.execFeclr x g s
  | .feq d x g => Sys2Proof.Machine.execFeq d x g s
  | .ldgB d x g imm => Sys2Proof.Machine.execLdgB d x g imm s
  | .ldgH d x g imm => Sys2Proof.Machine.execLdgH d x g imm s
  | .ldgW d x g imm => Sys2Proof.Machine.execLdgW d x g imm s
  | .ldgD d x g imm => Sys2Proof.Machine.execLdgD d x g imm s
  | .ldgBSx d x g imm => Sys2Proof.Machine.execLdgBSx d x g imm s
  | .ldgHSx d x g imm => Sys2Proof.Machine.execLdgHSx d x g imm s
  | .ldgWSx d x g imm => Sys2Proof.Machine.execLdgWSx d x g imm s
  | .stgB d x g imm => Sys2Proof.Machine.execStgB d x g imm s
  | .stgH d x g imm => Sys2Proof.Machine.execStgH d x g imm s
  | .stgW d x g imm => Sys2Proof.Machine.execStgW d x g imm s
  | .stgD d x g imm => Sys2Proof.Machine.execStgD d x g imm s
  | .pref x g => Sys2Proof.Machine.execPref x g s
  | .cclean x g => Sys2Proof.Machine.execCclean x g s
  | .cinval x g => Sys2Proof.Machine.execCinval x g s
  | .ldAcq z sx sc d x g => Sys2Proof.Machine.execLdAcq z sx sc d x g s
  | .ldgAcq z sx sc d x g => Sys2Proof.Machine.execLdgAcq z sx sc d x g s
  | .stRel z sc d x g => Sys2Proof.Machine.execStRel z sc d x g s
  | .stgRel z sc d x g => Sys2Proof.Machine.execStgRel z sc d x g s
  | .aadd o n dw d x g => Sys2Proof.Machine.execAadd o n dw d x g s
  | .aand o n dw d x g => Sys2Proof.Machine.execAand o n dw d x g s
  | .aor o n dw d x g => Sys2Proof.Machine.execAor o n dw d x g s
  | .axor o n dw d x g => Sys2Proof.Machine.execAxor o n dw d x g s
  | .amin o n dw d x g => Sys2Proof.Machine.execAmin o n dw d x g s
  | .amax o n dw d x g => Sys2Proof.Machine.execAmax o n dw d x g s
  | .aminu o n dw d x g => Sys2Proof.Machine.execAminu o n dw d x g s
  | .amaxu o n dw d x g => Sys2Proof.Machine.execAmaxu o n dw d x g s
  | .axchg o n dw d x g => Sys2Proof.Machine.execAxchg o n dw d x g s
  | .acas o n dw d x g => Sys2Proof.Machine.execAcas o n dw d x g s
  | .afadd o n d x g => Sys2Proof.Machine.execAfadd o n d x g s
  | .rst st z d x g => Sys2Proof.Machine.execRst st z d x g s
  | .mst d x g imm => Sys2Proof.Machine.execMst d x g imm s
  | .vld d x g imm => Sys2Proof.Machine.execVld d x g imm s
  | .vst d x g imm => Sys2Proof.Machine.execVst d x g imm s
  | .vlds t z d x g => Sys2Proof.Machine.execVlds t z d x g s
  | .vgath t z d x g => Sys2Proof.Machine.execVgath t z d x g s
  | .vscat t z d x g => Sys2Proof.Machine.execVscat t z d x g s
  | .segset a b g => Sys2Proof.Machine.execSegset a b g s
  | .segget d g => Sys2Proof.Machine.execSegget d g s
  | .segnarrow a b g => Sys2Proof.Machine.execSegnarrow a b g s
  | .bankfmt a b => Sys2Proof.Machine.execBankfmt a b s
  | .bankalloc d b => Sys2Proof.Machine.execBankalloc d b s
  | .bankfree a => Sys2Proof.Machine.execBankfree a s
  | .poolset a => Sys2Proof.Machine.execPoolset a s
  | .histrd d b bin => Sys2Proof.Machine.execHistrd d b bin s
  | .histclr a => Sys2Proof.Machine.execHistclr a s
  | .swait d st => Sys2Proof.Machine.execSwait d st s
  | .sseq d b st => Sys2Proof.Machine.execSseq d b st s
  | .pgreg a b => Sys2Proof.Machine.execPgreg a b s
  | .pgfill a b => Sys2Proof.Machine.execPgfill a b s
  | .cpstream b k => Sys2Proof.Machine.execCpstream b k s
  | .accrd d b t => Sys2Proof.Machine.execAccrd d b t s
  | .mxsave a => Sys2Proof.Machine.execMxsave a s
  | .mxload a => Sys2Proof.Machine.execMxload a s
  | .tkwin a => Sys2Proof.Machine.execTkwin a s
  | .tkload a b => Sys2Proof.Machine.execTkload a b s
  | .tklaunch a => Sys2Proof.Machine.execTklaunch a s
  | .tklaunchAnd a => Sys2Proof.Machine.execTklaunchAnd a s
  | .tkcapt a => Sys2Proof.Machine.execTkcapt a s
  | .tkfirst d b => Sys2Proof.Machine.execTkfirst d b s
  | .tkreset => Sys2Proof.Machine.execTkreset s
  | .tkstat d => Sys2Proof.Machine.execTkstat d s
  | .chdecl a b out k => Sys2Proof.Machine.execChdecl a b out k s
  | .chclose out k => Sys2Proof.Machine.execChclose out k s
  | .hdlset a k => Sys2Proof.Machine.execHdlset a k s
  | .send a k => Sys2Proof.Machine.execSend a k s
  | .recv d => Sys2Proof.Machine.execRecv d s
  | .evdone => Sys2Proof.Machine.execEvdone s
  | .promise a k => Sys2Proof.Machine.execPromise a k s
  | .floor d => Sys2Proof.Machine.execFloor d s
  | .evstart a => Sys2Proof.Machine.execEvstart a s
  | .sync => Sys2Proof.Machine.execSync s
  | .taskend => Sys2Proof.Machine.execTaskend s
  | .qcfg a k => Sys2Proof.Machine.execQcfg a k s
  | .launch a b => Sys2Proof.Machine.execLaunch a b s
  | .rwait a => Sys2Proof.Machine.execRwait a s
  | .tscore a => Sys2Proof.Machine.execTscore a s
  | .tround => Sys2Proof.Machine.execTround s
  | .tgrow d => Sys2Proof.Machine.execTgrow d s
  | .trank d b => Sys2Proof.Machine.execTrank d b s
  | .frecrd d b w => Sys2Proof.Machine.execFrecrd d b w s
  | .qthaw a => Sys2Proof.Machine.execQthaw a s
  | .ctxsave a => Sys2Proof.Machine.execCtxsave a s
  | .ctxload a => Sys2Proof.Machine.execCtxload a s
  | .eret => Sys2Proof.Machine.execEret s
  | .add w m d a b => Sys2Proof.Machine.execAdd w m d a b s
  | .sub w m d a b => Sys2Proof.Machine.execSub w m d a b s
  | .min w d a b => Sys2Proof.Machine.execMin w d a b s
  | .max w d a b => Sys2Proof.Machine.execMax w d a b s
  | .minu w d a b => Sys2Proof.Machine.execMinu w d a b s
  | .maxu w d a b => Sys2Proof.Machine.execMaxu w d a b s
  | .mov w d a => Sys2Proof.Machine.execMov w d a s
  | .sel w d a b => Sys2Proof.Machine.execSel w d a b s
  | .mul w m d a b => Sys2Proof.Machine.execMul w m d a b s
  | .mulh w d a b => Sys2Proof.Machine.execMulh w d a b s
  | .mulhu w d a b => Sys2Proof.Machine.execMulhu w d a b s
  | .div w d a b => Sys2Proof.Machine.execDiv w d a b s
  | .divu w d a b => Sys2Proof.Machine.execDivu w d a b s
  | .rem w d a b => Sys2Proof.Machine.execRem w d a b s
  | .remu w d a b => Sys2Proof.Machine.execRemu w d a b s
  | .and w d a b => Sys2Proof.Machine.execAnd w d a b s
  | .or w d a b => Sys2Proof.Machine.execOr w d a b s
  | .xor w d a b => Sys2Proof.Machine.execXor w d a b s
  | .andn w d a b => Sys2Proof.Machine.execAndn w d a b s
  | .orn w d a b => Sys2Proof.Machine.execOrn w d a b s
  | .shl w d a b => Sys2Proof.Machine.execShl w d a b s
  | .shr w d a b => Sys2Proof.Machine.execShr w d a b s
  | .sra w d a b => Sys2Proof.Machine.execSra w d a b s
  | .rol w d a b => Sys2Proof.Machine.execRol w d a b s
  | .clz w d a => Sys2Proof.Machine.execClz w d a s
  | .ctz w d a => Sys2Proof.Machine.execCtz w d a s
  | .popc w d a => Sys2Proof.Machine.execPopc w d a s
  | .bfx w d a b => Sys2Proof.Machine.execBfx w d a b s
  | .bfxSx w d a b => Sys2Proof.Machine.execBfxSx w d a b s
  | .bfi w d a b => Sys2Proof.Machine.execBfi w d a b s
  | .cmp c w d a b => Sys2Proof.Machine.execCmp c w d a b s
  | .vadd t d a b => Sys2Proof.Machine.execVadd t d a b s
  | .vsub t d a b => Sys2Proof.Machine.execVsub t d a b s
  | .vmul t d a b => Sys2Proof.Machine.execVmul t d a b s
  | .vfma t d a b => Sys2Proof.Machine.execVfma t d a b s
  | .vdiv t r d a b => Sys2Proof.Machine.execVdiv t r d a b s
  | .vsqrt t r d a => Sys2Proof.Machine.execVsqrt t r d a s
  | .vmin t d a b => Sys2Proof.Machine.execVmin t d a b s
  | .vmax t d a b => Sys2Proof.Machine.execVmax t d a b s
  | .vabs t d a => Sys2Proof.Machine.execVabs t d a s
  | .vneg t d a => Sys2Proof.Machine.execVneg t d a s
  | .vrcp t r d a => Sys2Proof.Machine.execVrcp t r d a s
  | .vrsq t r d a => Sys2Proof.Machine.execVrsq t r d a s
  | .vexp t r d a => Sys2Proof.Machine.execVexp t r d a s
  | .vlog t r d a => Sys2Proof.Machine.execVlog t r d a s
  | .vtanh t r d a => Sys2Proof.Machine.execVtanh t r d a s
  | .vcmp t d a b => Sys2Proof.Machine.execVcmp t d a b s
  | .vsel t d a b => Sys2Proof.Machine.execVsel t d a b s
  | .vand t d a b => Sys2Proof.Machine.execVand t d a b s
  | .vor t d a b => Sys2Proof.Machine.execVor t d a b s
  | .vxor t d a b => Sys2Proof.Machine.execVxor t d a b s
  | .vshl t d a b => Sys2Proof.Machine.execVshl t d a b s
  | .vshr t d a b => Sys2Proof.Machine.execVshr t d a b s
  | .vcvt dst src r d a => Sys2Proof.Machine.execVcvt dst src r d a s
  | .vdot t d a b => Sys2Proof.Machine.execVdot t d a b s
  | .vred t d a => Sys2Proof.Machine.execVred t d a s
  | .vperm t d a b => Sys2Proof.Machine.execVperm t d a b s
  | .vbcast t d a => Sys2Proof.Machine.execVbcast t d a s
  | .vext t d a b => Sys2Proof.Machine.execVext t d a b s
  | .vins t d a b => Sys2Proof.Machine.execVins t d a b s
  | .vcvtS dst src r d a => Sys2Proof.Machine.execVcvtS dst src r d a s
  | .vaddS t r d a b => Sys2Proof.Machine.execVaddS t r d a b s
  | .vsubS t r d a b => Sys2Proof.Machine.execVsubS t r d a b s
  | .vmulS t r d a b => Sys2Proof.Machine.execVmulS t r d a b s
  | .vfmaS t r d a b => Sys2Proof.Machine.execVfmaS t r d a b s
  | .vdivS t r d a b => Sys2Proof.Machine.execVdivS t r d a b s
  | .vsqrtS t r d a => Sys2Proof.Machine.execVsqrtS t r d a s
  | .vminS t d a b => Sys2Proof.Machine.execVminS t d a b s
  | .vmaxS t d a b => Sys2Proof.Machine.execVmaxS t d a b s
  | .vabsS t d a => Sys2Proof.Machine.execVabsS t d a s
  | .vnegS t d a => Sys2Proof.Machine.execVnegS t d a s
  | .vrcpS t r d a => Sys2Proof.Machine.execVrcpS t r d a s
  | .vrsqS t r d a => Sys2Proof.Machine.execVrsqS t r d a s
  | .vexpS t r d a => Sys2Proof.Machine.execVexpS t r d a s
  | .vlogS t r d a => Sys2Proof.Machine.execVlogS t r d a s
  | .vtanhS t r d a => Sys2Proof.Machine.execVtanhS t r d a s
  | .vcmpS t c d a b => Sys2Proof.Machine.execVcmpS t c d a b s
  | .parkedBundleReissue cid slot => Sys2Proof.Machine.execParkedBundleReissue cid slot s
  | .allowanceEnd cid slot => Sys2Proof.Machine.execAllowanceEnd cid slot s
  | .noticePush rid => Sys2Proof.Machine.execNoticePush rid s
  | .lateResultWriteback id => Sys2Proof.Machine.execLateResultWriteback id s
  | .storeAcknowledge id => Sys2Proof.Machine.execStoreAcknowledge id s
  | .storeBufferSend cid => Sys2Proof.Machine.execStoreBufferSend cid s
  | .bankRequestArrival bank ids => Sys2Proof.Machine.execBankRequestArrival bank ids s
  | .feRequestResend id => Sys2Proof.Machine.execFeRequestResend id s
  | .remoteRefusalArrival id => Sys2Proof.Machine.execRemoteRefusalArrival id s
  | .sliceAccessPerform id piece => Sys2Proof.Machine.execSliceAccessPerform id piece s
  | .lineRecallComplete line => Sys2Proof.Machine.execLineRecallComplete line s
  | .pinnedAccessResend id => Sys2Proof.Machine.execPinnedAccessResend id s
  | .pageWalkEnd id => Sys2Proof.Machine.execPageWalkEnd id s
  | .heldUpcallPush rid page => Sys2Proof.Machine.execHeldUpcallPush rid page s
  | .pgfillComplete id => Sys2Proof.Machine.execPgfillComplete id s
  | .wakeMessage cid slot => Sys2Proof.Machine.execWakeMessage cid slot s
  | .streamStoreArrival id => Sys2Proof.Machine.execStreamStoreArrival id s
  | .openStoreResend id => Sys2Proof.Machine.execOpenStoreResend id s
  | .streamCloseFlit n => Sys2Proof.Machine.execStreamCloseFlit n s
  | .rvArrivalCount n => Sys2Proof.Machine.execRvArrivalCount n s
  | .cpLin cl => Sys2Proof.Machine.execCpLin cl s
  | .cp2d cl => Sys2Proof.Machine.execCp2d cl s
  | .cpGath cl => Sys2Proof.Machine.execCpGath cl s
  | .cpScat cl => Sys2Proof.Machine.execCpScat cl s
  | .cpBcst cl => Sys2Proof.Machine.execCpBcst cl s
  | .copyBytesLand cl => Sys2Proof.Machine.execCopyBytesLand cl s
  | .remoteLandingReport n => Sys2Proof.Machine.execRemoteLandingReport n s
  | .followOnEnter cl => Sys2Proof.Machine.execFollowOnEnter cl s
  | .mxMma cl => Sys2Proof.Machine.execMxMma cl s
  | .mxSpmma cl => Sys2Proof.Machine.execMxSpmma cl s
  | .mxKStep cl => Sys2Proof.Machine.execMxKStep cl s
  | .mxDrain cl => Sys2Proof.Machine.execMxDrain cl s
  | .mxZero cl => Sys2Proof.Machine.execMxZero cl s
  | .mxsaveExecute cl => Sys2Proof.Machine.execMxsaveExecute cl s
  | .mxloadExecute cl => Sys2Proof.Machine.execMxloadExecute cl s
  | .tickNote cl => Sys2Proof.Machine.execTickNote cl s
  | .tickEntryExecute cl => Sys2Proof.Machine.execTickEntryExecute cl s
  | .engineCompletionPost cid => Sys2Proof.Machine.execEngineCompletionPost cid s
  | .messageAccept n => Sys2Proof.Machine.execMessageAccept n s
  | .hungerFlitArrival n => Sys2Proof.Machine.execHungerFlitArrival n s
  | .promiseFlitArrival n => Sys2Proof.Machine.execPromiseFlitArrival n s
  | .joinFlitArrival n => Sys2Proof.Machine.execJoinFlitArrival n s
  | .closeFlitArrival n => Sys2Proof.Machine.execCloseFlitArrival n s
  | .allowanceReturn n => Sys2Proof.Machine.execAllowanceReturn n s
  | .arrivalDispatch cid => Sys2Proof.Machine.execArrivalDispatch cid s
  | .deadLetterReturn n => Sys2Proof.Machine.execDeadLetterReturn n s
  | .sweepDelayExpiry cid => Sys2Proof.Machine.execSweepDelayExpiry cid s
  | .floorSweepStart rid => Sys2Proof.Machine.execFloorSweepStart rid s
  | .floorSweepComplete rid => Sys2Proof.Machine.execFloorSweepComplete rid s
  | .afaddAccept id => Sys2Proof.Machine.execAfaddAccept id s
  | .afaddResend id => Sys2Proof.Machine.execAfaddResend id s
  | .stealAttempt cid => Sys2Proof.Machine.execStealAttempt cid s
  | .launchRegisterWrite p v => Sys2Proof.Machine.execLaunchRegisterWrite p v s
  | .lresRead p => Sys2Proof.Machine.execLresRead p s
  | .teamPlacement cl => Sys2Proof.Machine.execTeamPlacement cl s
  | .teamRetire rid team => Sys2Proof.Machine.execTeamRetire rid team s
  | .regionEnd rid => Sys2Proof.Machine.execRegionEnd rid s
  | .regionAllowanceEnd rid => Sys2Proof.Machine.execRegionAllowanceEnd rid s
  | .roundBarrierComplete rid => Sys2Proof.Machine.execRoundBarrierComplete rid s
  | .regionStop rid => Sys2Proof.Machine.execRegionStop rid s
  | .teamDisplace rid => Sys2Proof.Machine.execTeamDisplace rid s
  | .displacedRequestArrival id => Sys2Proof.Machine.execDisplacedRequestArrival id s
  | .displacedRequestResend id => Sys2Proof.Machine.execDisplacedRequestResend id s
  | .teamRestore rid => Sys2Proof.Machine.execTeamRestore rid s
  | .tinkerServiceDispatch cl => Sys2Proof.Machine.execTinkerServiceDispatch cl s
  | .tinkerFaultRestart cl => Sys2Proof.Machine.execTinkerFaultRestart cl s
  | .poolSamplingInterval cl => Sys2Proof.Machine.execPoolSamplingInterval cl s
  | .cacheBankWritebackEnd bank => Sys2Proof.Machine.execCacheBankWritebackEnd bank s
  | .bankIdle bank => Sys2Proof.Machine.execBankIdle bank s
  | .bankClearEnd bank => Sys2Proof.Machine.execBankClearEnd bank s
  | .uncorrectableError key => Sys2Proof.Machine.execUncorrectableError key s
  | .scrubAccess key => Sys2Proof.Machine.execScrubAccess key s
  | .clusterReset cl cause => Sys2Proof.Machine.execClusterReset cl cause s
  | .drainTimeout cl => Sys2Proof.Machine.execDrainTimeout cl s
  | .clusterClearEnd cl => Sys2Proof.Machine.execClusterClearEnd cl s
  | .dieLinkFailure x y => Sys2Proof.Machine.execDieLinkFailure x y s
  | .porrokPortDown port => Sys2Proof.Machine.execPorrokPortDown port s
  | .migrationRequest v => Sys2Proof.Machine.execMigrationRequest v s
  | .migrationLineCopy => Sys2Proof.Machine.execMigrationLineCopy s
  | .migrationEnd => Sys2Proof.Machine.execMigrationEnd s
  | .rcStop v => Sys2Proof.Machine.execRcStop v s
  | .rcDisplace v => Sys2Proof.Machine.execRcDisplace v s
  | .rcResume v => Sys2Proof.Machine.execRcResume v s
  | .rcResRead => Sys2Proof.Machine.execRcResRead s
  | .featAcceptWrite v => Sys2Proof.Machine.execFeatAcceptWrite v s
  | .pkgIdWrite v => Sys2Proof.Machine.execPkgIdWrite v s
  | .nqHeadWrite v => Sys2Proof.Machine.execNqHeadWrite v s
  | .droverConfigWrite die dw v => Sys2Proof.Machine.execDroverConfigWrite die dw v s
  | .droverEntryTake die => Sys2Proof.Machine.execDroverEntryTake die s
  | .registerWrite off v => Sys2Proof.Machine.execRegisterWrite off v s
  | .hostCxlAccess acc => Sys2Proof.Machine.execHostCxlAccess acc s
  | .hostSnoop line => Sys2Proof.Machine.execHostSnoop line s
  | .pldmPowerCapSet mw => Sys2Proof.Machine.execPldmPowerCapSet mw s
  | .pldmSensorRead sensor => Sys2Proof.Machine.execPldmSensorRead sensor s
  | .mctpControl msg => Sys2Proof.Machine.execMctpControl msg s
  | .telemetrySample vals => Sys2Proof.Machine.execTelemetrySample vals s
  | .thermalReset => Sys2Proof.Machine.execThermalReset s
  | .firmwareUpdate fw => Sys2Proof.Machine.execFirmwareUpdate fw s
  | .quoteRequest nonce => Sys2Proof.Machine.execQuoteRequest nonce s
  | .eventLogRead n => Sys2Proof.Machine.execEventLogRead n s
  | .lpddr6Refresh ch => Sys2Proof.Machine.execLpddr6Refresh ch s
  | .lpddr6Retrain ch => Sys2Proof.Machine.execLpddr6Retrain ch s
  | .moduleReset verified => Sys2Proof.Machine.execModuleReset verified s
  | .unassignedOpcode word => Sys2Proof.Machine.execUnassignedOpcode word s
  | .bundleAddress addr => Sys2Proof.Machine.execBundleAddress addr s
  | .dieLinkRetrain x y => Sys2Proof.Machine.execDieLinkRetrain x y s
  | .porrokPortRetrain port => Sys2Proof.Machine.execPorrokPortRetrain port s
  | .msixVectorUnmask v => Sys2Proof.Machine.execMsixVectorUnmask v s
  | .poisonedPacketResend id => Sys2Proof.Machine.execPoisonedPacketResend id s

end Sys2Proof.Machine
end

