-- ==== Sys2Proof/Machine/Step.lean ====
section
/-! DEFINITION. One step of the machine, and a word placed where the next step fetches. -/

namespace Sys2Proof.Machine

/-- One step: an event or an issue that the environment has in store, the turn of the next core in this cycle, or the end
of the cycle. -/
def step (s : State) : Host.Outcome State Fault Refusal := stepWith exec s

/-- The state with an instruction word stored where the next step fetches: the table's rows have one 32-bit word. -/
def State.withFetchWord (s : State) (_nbits w : Nat) : State := s.placeWord (w % 2 ^ 32)

end Sys2Proof.Machine
end

