-- ==== Sys2Proof/Safety.lean ====
section
/-! DEFINITION. The terms in which claims about the machine are stated: when an instruction issues and takes effect (R20,
R46, R285), the values its operands give (R72, R77, R79), the state after a bundle (R25, R73, R93, R285, R286), and the
invariant of the memory. -/

namespace Sys2Proof

/-- Instructions that only compute in registers: every arithmetic word, and the immediates. -/
def Instr.inRegisters (i : Instr) : Bool :=
  i.shape.arith || (match i with
    | .movi _ _ => true
    | .movhi _ _ => true
    | .addi _ _ => true
    | .addiW _ _ => true
    | _ => false)

end Sys2Proof

namespace Sys2Proof.Machine

/-! ### When an instruction takes effect -/

/-- The instruction `i` stands in a lone bundle of the thread that `bun` names (R20) and passes everything that stands
before its effect: the pairing rule (R23), the checks of R46 in their order (feature R41, privilege R42, operand fields,
pending sources R76), the park conditions of every bundle (R23, R78, R104), frozen queues (R298) and the allowance
(R285). It is no reissue after a page fault (R24). -/
abbrev Issues (i : Instr) (s : State) : Prop :=
  s.bun.active = false ∧ s.bun.again = false ∧
  bundleOk s [i] = true ∧ featOk s i = true ∧ privOk s i = true ∧ operandOk s i = true ∧ pendingOk s i = true ∧
  parkReason s [i] = none ∧ frozenPop s [i] = none ∧ allowOk s = true

/-- The value a source field gives: the head of a popping register (R77, R79), else the general register (R72). -/
def State.operand (s : State) (r : Reg) : Word :=
  (s.myCore.peek (s.myCore.srcKind r.val)).getD (s.reg s.bun.cid s.bun.slot r.val)

/-- The write-backs of a destination register d of a non-memory instruction (R72, R77, R78, R91): none for `p0`, a push
for a queue register or an engine queue, else the register. -/
def State.dest (s : State) (d : Nat) (v : Word) : List WbAct :=
  match s.myCore.dstKind d with
  | .pushQueue k => [.qpush k v]
  | .pushEng q => [.epush q v]
  | .plain => if d = 0 then [] else [.gpr d v]
  | .illegal => []

/-- The write-back of a vector destination in the core's mode (R247). -/
def State.vdest (s : State) (d : Reg) (v : Nat) : List WbAct :=
  if s.myCore.long then [.wreg d.val (BitVec.ofNat 4096 v)] else [.vreg d.val (BitVec.ofNat 256 v)]

/-- Lane i, of b bits, of a register's value (R248). -/
def laneOf (b v i : Nat) : Nat := v / 2 ^ (b * i) % 2 ^ b

/-- Lane i of a vector source in the core's mode (R247, R248). -/
def State.lane (s : State) (b : Nat) (r : Reg) (i : Nat) : Nat := laneOf b (s.vsrc r.val) i

/-- Lanes of b bits of a register in the core's mode. -/
def State.laneCount (s : State) (b : Nat) : Nat := s.vbits / b

/-- A register value that fits the core's mode and whose lane i is f i for every lane (R248). -/
def State.IsLanes (s : State) (b v : Nat) (f : Nat → Nat) : Prop :=
  v < 2 ^ s.vbits ∧ ∀ i, i < s.laneCount b → laneOf b v i = f i % 2 ^ b

/-- The general register that a third-source field names (R90): it may not pop. -/
def State.own (s : State) (d : Reg) : Word := s.reg s.bun.cid s.bun.slot d.val

/-- The low 32 bits, sign-extended, in the `.W` form; the whole word otherwise (R85). -/
def atWidth (w : Bool) (x : Word) : Word := if w then (x.setWidth 32).signExtend 64 else x

/-- The unsigned view of R85 as a word. -/
def zeroWidth (w : Bool) (x : Word) : Word := if w then (x.setWidth 32).setWidth 64 else x

/-- Node j of level k of the reduction tree of R68 over m lanes: neighbours are combined, and the nodes are numbered level by
level from 0 on. -/
def redNode (node : Nat → Nat → Nat → Nat) (lane : Nat → Nat) (m : Nat) : Nat → Nat → Nat
  | 0, j => lane j
  | k + 1, j => node (m - m / 2 ^ k + j) (redNode node lane m k (2 * j)) (redNode node lane m k (2 * j + 1))

/-! ### The state after a bundle -/

/-- Acts registered for the write-back cycle of the bundle in progress, in their order (R73). -/
def State.withActs (s : State) (acts : List WbAct) (delay : Nat := 4) : State :=
  { s with
    nextId := s.nextId + acts.length
    wbs := s.wbs ++ acts.zipIdx.map (fun e =>
      ⟨s.cyc + delay, s.bun.cid, s.bun.slot, s.nextId + e.2, s.bun.addr, s.me.icnt, e.1⟩) }

/-- The thread of a bundle after it: `icnt` and `allow` moved by its words (R25, R285), the pc at the next bundle, the
bundle's address remembered (R22), and no turn in the seven cycles that follow (R93). -/
def Thread.advanced (t : Thread) (b : Bun) (npc : Word) (cyc : Nat) : Thread :=
  { t with
    icnt := t.icnt + b.words
    allow := if t.allow = Config.unlimited || isSup b.cid then t.allow else t.allow - wrap64 b.words
    pc := npc
    lastBundle := b.addr
    reissue := if t.walking then t.reissue else none
    notBefore := max t.notBefore (cyc + 8) }

/-- The state after the lone bundle of `i` whose effect gave `s`: `vals` were popped (R79), the thread has advanced to
`npc`, its region has counted the words (R286), and no bundle is in progress. -/
def State.advanced (s : State) (vals : List (Nat × Word)) (npc : Word) : State :=
  let b := s.bun
  let s := commitPops s b.cid b.slot vals
  let s := s.modThread b.cid b.slot (fun t => t.advanced b npc s.cyc)
  let s := match (s.core b.cid).region with
    | some rid => s.modRegion rid (fun r => r.addWords b.words b.cid b.slot)
    | none => s
  { s with bun := Bun.none }

/-- The state after `i` has issued in `s` as a lone bundle, where its effect turned `s` into `s1`. -/
def State.ended (s : State) (i : Instr) (s1 : State) (npc : Word) : State := s1.advanced (peekVals s [i]) npc

/-- The most usual end: `i` registers acts for its write-back cycle and the next bundle follows. -/
def State.issued (s : State) (i : Instr) (acts : List WbAct) : State := s.ended i (s.withActs acts) s.bun.npc

/-- A transfer of control to `target`, with acts for the write-back cycle. -/
def State.jumped (s : State) (i : Instr) (acts : List WbAct) (target : Word) : State :=
  s.ended i (s.withActs acts) target

/-- Wherever `i` issues, its effect turns the state into `s1`, and the next bundle follows. -/
abbrev Does (i : Instr) (s s1 : State) : Prop := Issues i s → exec i s = .next (s.ended i s1 s.bun.npc)

/-- Wherever `i` issues, it registers acts for its write-back cycle and does nothing else. -/
abbrev Acts (i : Instr) (s : State) (acts : List WbAct) : Prop := Issues i s → exec i s = .next (s.issued i acts)

/-- Wherever `i` issues, it answers the state in which its only act is the write of d with v. -/
abbrev Gives (i : Instr) (s : State) (d : Reg) (v : Word) : Prop := Issues i s → exec i s = .next (s.issued i (s.dest d.val v))

/-- Wherever `i` issues, its only act is the write of the vector register d, in the core's mode, with lanes f of b bits. -/
abbrev GivesLanes (i : Instr) (s : State) (d : Reg) (b : Nat) (f : Nat → Nat) : Prop :=
  Issues i s → ∃ v, s.IsLanes b v f ∧ exec i s = .next (s.issued i (s.vdest d v))

/-! ### The memory port -/

/-- A request whose addresses are known at issue (R126, R191): one outside the global space, or one whose pages are all in
the cluster's translation cache with the rights it needs; with the state in which those entries have been used. -/
def State.known (s : State) (r : Req) : Option (State × Req) :=
  if r.space ≠ .global then some (s, r)
  else match s.region? r.rid with
    | none => none
    | some _ => match xlate r.rid (s.tlbLook r.rid (clOf r.cid) (dieOf r.cid) r.op.needsW false) r.pieces with
      | .ok ps nc used => some (s.resolved r ps nc used)
      | .missing _ => none
      | .denied _ _ => none

/-- Wherever `i` issues, the request `r`, its addresses known, joins the port: unsent if it takes a store-buffer entry
(R209), on its way otherwise. -/
abbrev Sends (i : Instr) (s : State) (r : Req) : Prop :=
  ∀ s1 r1, s.known r = some (s1, r1) → Does i s (s1.addReq { r1 with stage := if r1.buffered then .unsent else .sent })

/-- Wherever `i` issues, the vector load `r` is sent; where all its elements lie in the thread's own home banks, with nothing
before them, they are read at issue, and the register is written six cycles later with each element at its place (R73,
R252). -/
abbrev SendsOrReads (i : Instr) (s : State) (r : Req) : Prop :=
  (s.ownHome r = false → Sends i s r) ∧
  (s.ownHome r = true → (∀ p ∈ r.pieces, s.orderOk r p = true ∧ s.poisoned p.key p.size = none) →
    Does i s ((s.withActs [.vload (r.vdst.getD 0) (BitVec.ofNat 4096 (r.pieces.foldl (fun acc p =>
      acc + s.read p.key p.size % 2 ^ (8 * p.size) * 2 ^ (8 * p.lane)) 0)) r.long s.nextId] 6).modMe
        (fun t => t.addOut s.nextId .ld)))

/-- The queued arrival that a message becomes (R142, R143). -/
def Flit.arrival (f : Flit) : Arrival :=
  { ts := f.ts, start := false, seq := f.seq, payload := f.payload, sender := f.src, senderIdx := f.sidx, released := false }

/-! ### Register writes -/

/-- The act writes v into the general register r: a result, or the delivery of a load (R73). -/
def WbAct.puts (a : WbAct) (r : Nat) (v : Word) : Prop := a = .gpr r v ∨ ∃ id, a = .load r v id

/-- The act writes v into the register r of the `y` bank, or of the `w` registers (R247). -/
def WbAct.putsY (a : WbAct) (r : Nat) (v : SVec) : Prop := a = .vreg r v ∨ ∃ x id, a = .vload r x false id ∧ v = x.setWidth 256
def WbAct.putsW (a : WbAct) (r : Nat) (v : LVec) : Prop := a = .wreg r v ∨ ∃ id, a = .vload r v true id

/-- The register that an act writes: r for a general register, 64 + r for `y`, 128 + r for `w`. -/
def WbAct.target : WbAct → Option Nat
  | .gpr r _ => some r
  | .load r _ _ => some r
  | .vreg r _ => some (64 + r)
  | .vload r _ long _ => some (if long then 128 + r else 64 + r)
  | .wreg r _ => some (128 + r)
  | _ => none

/-- Two acts write one register: the same number in the same core, and in the same thread where the register is its own (R71,
R247). -/
def Wb.sameReg (a b : Wb) : Prop :=
  a.cid = b.cid ∧ ∃ n, a.act.target = some n ∧ b.act.target = some n ∧ (a.slot = b.slot ∨ 32 ≤ n ∧ (n < 64 ∨ 96 ≤ n))

/-- The word that an act pushes into queue register k (R78). -/
def WbAct.pushed (k : Nat) : WbAct → Option Word
  | .qpush j v => if j = k then some v else none
  | _ => none

/-! ### Memory -/

/-- Keys of words, strictly rising. -/
def risingNat : List Nat → Bool
  | [] => true
  | [_] => true
  | a :: b :: t => decide (a < b) && risingNat (b :: t)

/-- THE INVARIANT: memory is in its canonical form. -/
abbrev State.wfMem (s : State) : Prop := Memory.wf s.mem = true

/-- Every byte of memory reads as before. -/
abbrev sameBytes (s t : State) : Prop := ∀ a, t.byte a = s.byte a

/-- Every byte outside [lo, lo + n) reads as before. -/
abbrev sameOutside (s t : State) (lo n : Nat) : Prop := ∀ a, ¬ (lo ≤ a ∧ a < lo + n) → t.byte a = s.byte a

/-- General, vector and segment registers, allowance and counters of a thread. -/
def State.threadRegs (s : State) (cid slot : Nat) : List (Nat × Word) × List (Nat × SVec) × List (Nat × SegReg) :=
  ((s.thread cid slot).regs, (s.thread cid slot).vregs, (s.thread cid slot).segs)

/-- A core's shared registers: general, short and long vector (R71, R247). -/
def State.coreRegs (s : State) (cid : Nat) : List (Nat × Word) × List (Nat × SVec) × List (Nat × LVec) :=
  ((s.core cid).regs, (s.core cid).yregs, (s.core cid).wregs)

end Sys2Proof.Machine
end

