-- ==== Sys2Proof/Certificates/Slice0/Obligations.lean ====
section
/-! DEFINITION. The statements for the provers. `Issues`, `Gives`, `GivesLanes` and the states `issued` and `jumped` are
those of Sys2Proof/Safety.lean. -/

open Sys2Proof Sys2Proof.Machine

/-! ### Integer instructions (R83 to R91) -/

/-- R86: the add, logic and compare groups. `ADD` and `SUB` give the exact sum and difference of the signed views under `.sat`,
of the unsigned views otherwise, finished by `fin` (R85); the minima and maxima, `MOV`, and `SEL`, which with A = 0 writes
nothing; bitwise logic on n bits and shifts by B mod n; `CMP` gives 1 or 0. -/
def Obligations.AddLogicAndCompareGroupsHaveTheirEffects : Prop :=
  ∀ (w : Bool) (m : IntMod) (d a b : Reg) (s : State),
    let n := if w then 32 else 64
    let VA := s.operand a
    let VB := s.operand b
    let A := uView w VA
    let B := uView w VB
    let SA := sView w VA
    let SB := sView w VB
    let k := VB.toNat % n
    Gives (.add w m d a b) s d (if m = .sat then fin m w (SA + SB) else fin m w ((A : Int) + B)) ∧
    Gives (.sub w m d a b) s d (if m = .sat then fin m w (SA - SB) else fin m w ((A : Int) - B)) ∧
    Gives (.min w d a b) s d (atWidth w (if SA ≤ SB then VA else VB)) ∧
    Gives (.max w d a b) s d (atWidth w (if SA ≤ SB then VB else VA)) ∧
    Gives (.minu w d a b) s d (atWidth w (if A ≤ B then VA else VB)) ∧
    Gives (.maxu w d a b) s d (atWidth w (if A ≤ B then VB else VA)) ∧
    Gives (.mov w d a) s d (atWidth w VA) ∧
    (A ≠ 0 → Gives (.sel w d a b) s d (atWidth w VB)) ∧
    (A = 0 → Issues (.sel w d a b) s → exec (.sel w d a b) s = .next (s.issued (.sel w d a b) [])) ∧
    Gives (.and w d a b) s d (atWidth w (VA &&& VB)) ∧
    Gives (.or w d a b) s d (atWidth w (VA ||| VB)) ∧
    Gives (.xor w d a b) s d (atWidth w (VA ^^^ VB)) ∧
    Gives (.andn w d a b) s d (atWidth w (VA &&& ~~~VB)) ∧
    Gives (.orn w d a b) s d (atWidth w (VA ||| ~~~VB)) ∧
    Gives (.shl w d a b) s d (atWidth w (VA <<< k)) ∧
    Gives (.shr w d a b) s d (atWidth w (zeroWidth w VA >>> k)) ∧
    Gives (.sra w d a b) s d (atWidth w ((atWidth w VA).sshiftRight k)) ∧
    Gives (.cmp .eq w d a b) s d (if A = B then 1 else 0) ∧
    Gives (.cmp .ne w d a b) s d (if A = B then 0 else 1) ∧
    Gives (.cmp .lt w d a b) s d (if SA < SB then 1 else 0) ∧
    Gives (.cmp .ge w d a b) s d (if SA < SB then 0 else 1) ∧
    Gives (.cmp .ltu w d a b) s d (if A < B then 1 else 0) ∧
    Gives (.cmp .geu w d a b) s d (if A < B then 0 else 1)

/-- R87: products, their high halves, and division truncating toward zero; divisor zero gives −1, all ones, the dividend, and
overflow −2^(n−1) with remainder 0. No fault is raised, and sub 111 of the group is unassigned. -/
def Obligations.DivisionTruncatesAndDefinesDivisorZero : Prop :=
  ∀ (w : Bool) (d a b : Reg) (s : State),
    let A := uView w (s.operand a)
    let B := uView w (s.operand b)
    let SA := sView w (s.operand a)
    let SB := sView w (s.operand b)
    let n := if w then 32 else 64
    (∀ m : IntMod, Gives (.mul w m d a b) s d (if m = .sat then fin m w (SA * SB) else fin m w ((A * B : Nat) : Int))) ∧
    Gives (.mulh w d a b) s d (fin .wrap w (Int.fdiv (SA * SB) (2 ^ n))) ∧
    Gives (.mulhu w d a b) s d (fin .wrap w ((A * B / 2 ^ n : Nat) : Int)) ∧
    Gives (.div w d a b) s d (if SB = 0 then -1 else fin .wrap w (Int.tdiv SA SB)) ∧
    Gives (.divu w d a b) s d (if B = 0 then -1 else fin .wrap w ((A / B : Nat) : Int)) ∧
    Gives (.rem w d a b) s d (if SB = 0 then atWidth w (s.operand a) else fin .wrap w (SA - SB * Int.tdiv SA SB)) ∧
    Gives (.remu w d a b) s d (if B = 0 then atWidth w (s.operand a) else fin .wrap w ((A - B * (A / B) : Nat) : Int)) ∧
    (SA = -(2 ^ (n - 1)) → SB = -1 → Gives (.div w d a b) s d (wrapI (-(2 ^ (n - 1)))) ∧ Gives (.rem w d a b) s d 0) ∧
    (∀ (lone : Bool), decodeWord ((if lone then 2 ^ 31 else 0) + 2 ^ 30 + (if w then 3 else 2) * 2 ^ 24 + d.val * 2 ^ 18 +
      a.val * 2 ^ 12 + b.val * 2 ^ 6 + 7) = .illegalOpcode)

/-- R88: rotation to the left by B mod n, the counts of leading zeros, trailing zeros and ones of the n-bit view, and the fields
of (4.3) and (4.4) bit by bit; sub 110 and 111 of the group are unassigned. -/
def Obligations.BitCountsAndFieldsAreTheirBits : Prop :=
  ∀ (w : Bool) (d a b : Reg) (s : State),
    let A := uView w (s.operand a)
    let n := if w then 32 else 64
    let pos := (s.operand b).toNat % 64
    let wd := min ((s.operand b).toNat / 2 ^ 8 % 128) n
    (∃ k : Nat, k ≤ n ∧ (∀ j, n - k ≤ j → A.testBit j = false) ∧ (k < n → A.testBit (n - 1 - k) = true) ∧
      Gives (.clz w d a) s d (wrap64 k)) ∧
    (∃ k : Nat, k ≤ n ∧ (∀ j, j < k → A.testBit j = false) ∧ (k < n → A.testBit k = true) ∧
      Gives (.ctz w d a) s d (wrap64 k)) ∧
    Gives (.popc w d a) s d (wrap64 ((List.range n).countP (fun j => A.testBit j))) ∧
    (∃ F : Nat, F < 2 ^ n ∧ (∀ j, j < n → F.testBit j = (decide (j < wd) && A.testBit (pos + j))) ∧
      Gives (.bfx w d a b) s d (fin .wrap w F) ∧
      Gives (.bfxSx w d a b) s d (fin .wrap w (if 0 < wd ∧ F.testBit (wd - 1) = true then (F : Int) - 2 ^ wd else F))) ∧
    (∃ F : Nat, F < 2 ^ n ∧
      (∀ j, j < n → F.testBit j = if pos ≤ j ∧ j < pos + wd then A.testBit (j - pos) else (uView w (s.own d)).testBit j) ∧
      Gives (.bfi w d a b) s d (fin .wrap w F)) ∧
    Gives (.rol w d a b) s d (if w then (((s.operand a).setWidth 32).rotateLeft ((s.operand b).toNat % 32)).signExtend 64
      else (s.operand a).rotateLeft ((s.operand b).toNat % 64)) ∧
    (∀ (lone : Bool) (sub : Nat), sub = 6 ∨ sub = 7 → decodeWord ((if lone then 2 ^ 31 else 0) + 2 ^ 30 +
      (if w then 7 else 6) * 2 ^ 24 + d.val * 2 ^ 18 + a.val * 2 ^ 12 + b.val * 2 ^ 6 + sub) = .illegalOpcode)

/-- R89, R90, R43: the immediate instructions, which read d itself as a plain register, and the no-operations. -/
def Obligations.ImmediatesAndNoOperations : Prop :=
  ∀ (d : Reg) (imm : BitVec 18) (s : State),
    Gives (.movi d imm) s d (imm.signExtend 64) ∧
    Gives (.movhi d imm) s d (s.own d * 2 ^ 18 ||| imm.setWidth 64) ∧
    Gives (.addi d imm) s d (s.own d + imm.signExtend 64) ∧
    Gives (.addiW d imm) s d (atWidth true (s.own d + imm.signExtend 64)) ∧
    (Issues .nop s → exec .nop s = .next (s.issued .nop [])) ∧
    (Issues .nopArith s → exec .nopArith s = .next (s.issued .nopArith []))

/-! ### Control (R106 to R108) -/

/-- R106: a branch whose condition holds goes to its bundle's address plus four times the offset; any other branch goes on
with the next bundle. `BENG` (R107) tests the status of the command that its engine's list holds for the token. -/
def Obligations.BranchesGoToTheirTargetsOrOn : Prop :=
  ∀ (a b : Reg) (off : BitVec 12) (s : State),
    let A := s.operand a
    let B := s.operand b
    let target := s.bun.addr + off.signExtend 64 * 4
    let ends (i : Instr) (c : Prop) : Prop :=
      Issues i s → (c → exec i s = .next (s.jumped i [] target)) ∧ (¬ c → exec i s = .next (s.issued i []))
    ends (.beq a b off) (A = B) ∧ ends (.bne a b off) (A ≠ B) ∧
    ends (.blt a b off) (A.toInt < B.toInt) ∧ ends (.bge a b off) (B.toInt ≤ A.toInt) ∧
    ends (.bltu a b off) (A.toNat < B.toNat) ∧ ends (.bgeu a b off) (B.toNat ≤ A.toNat) ∧
    ends (.bz a off) (A = 0) ∧ ends (.bnz a off) (A ≠ 0) ∧
    ∀ (eng : Eng) (cond : EngCond),
      ends (.beng eng cond a off)
        (∃ e, s.myCore.statusOf eng.code (A.toNat % 2 ^ 32) = some e ∧ e.status = engStatus cond)

/-- R106, R94: jumps go to their targets, and the linking forms write the address of the next bundle to `p31`. -/
def Obligations.JumpsGoToTheirTargetsAndLink : Prop :=
  ∀ (a : Reg) (off : BitVec 24) (s : State),
    let target := s.bun.addr + off.signExtend 64 * 4
    (Issues (.j off) s → exec (.j off) s = .next (s.jumped (.j off) [] target)) ∧
    (Issues (.jl off) s → exec (.jl off) s = .next (s.jumped (.jl off) [.gpr 31 s.bun.npc] target)) ∧
    (Issues (.jr a) s → exec (.jr a) s = .next (s.jumped (.jr a) [] (s.operand a))) ∧
    (Issues (.jlr a) s → exec (.jlr a) s = .next (s.jumped (.jlr a) [.gpr 31 s.bun.npc] (s.operand a)))

/-- R108: `YIELD` keeps the thread from a turn before cycle t + 16, `EXIT` ends it at write-back, and `TRAP` takes effect,
counts, and in its write-back cycle stops the thread with SOFTWARE_TRAP, whose record shows its address, the operand in word 5
and the `icnt` from before the bundle; at its write-back `EXIT` leaves its slot exited. That the stop comes at write-back is the model's
(log entry 80). -/
def Obligations.YieldExitAndTrapEndTheirTurn : Prop :=
  ∀ (a : Reg) (s : State),
    (Issues .yield s → ∃ t, exec .yield s = .next t ∧ s.cyc + 16 ≤ (t.thread s.bun.cid s.bun.slot).notBefore ∧
      (t.thread s.bun.cid s.bun.slot).pc = s.bun.npc ∧ t.wbs = s.wbs ∧ t.mem = s.mem) ∧
    (Issues .exit s → exec .exit s = .next (s.issued .exit [.exit])) ∧
    (Issues (.trap a) s → exec (.trap a) s = .next (s.issued (.trap a) [.trap (s.operand a)])) ∧
    (∀ (w : Wb) (v : Word), w.act = .trap v → (s.thread w.cid w.slot).runs = true →
      s.wbAct w = stopAs (s.flushWords w.cid w.slot) w.cid w.slot ⟨fSoftwareTrap, 0, 0, v⟩ w.bundle w.icnt) ∧
    (∀ w : Wb, w.act = .exit → (s.thread w.cid w.slot).runs = true → 1 ≤ w.slot → w.slot < 16 →
      (s.thread w.cid w.slot).handler = false → (s.core w.cid).foremanGone = false →
      (∀ r ∈ s.reqs, r.cid ≠ w.cid ∨ r.slot ≠ w.slot) → (∀ r, s.regionOf w.cid = some r → r.pagers = []) →
      ((s.wbAct w).thread w.cid w.slot).state = .exited)

/-! ### Special registers, slots, counters, scopes and modes -/

/-- R81, R82, R243: what `RDSR` reads of each special register, and `WRSR`, which at write-back sets `allow`, `seed` or `mxprog`; a
write of `mxprog` has to name the stopped command of the cluster, else the thread stops with ILLEGAL_OPERAND. It sets the step at which
that command resumes, and with stopped = 0 cancels it. That score, rank and floor read the
last value whatever R81's Reset column gives at thread start is the model's reading (log entry 93, DEDUCED). -/
def Obligations.SpecialRegistersReadAndWrite : Prop :=
  ∀ (d b : Reg) (sr : SrNum) (s : State),
    let c := s.bun.cid
    let entrant : Option Entrant := (s.regionOf c).bind (fun r =>
      if r.kind = .tournament then Table.find r.entrants s.myCore.entrant else none)
    (∀ v : Word, (sr.val, v) ∈ ([(0x00, wrap64 s.bun.slot), (0x01, wrap64 (coreOf c)), (0x02, wrap64 (cluOf c)),
        (0x03, wrap64 (dieOf c)), (0x04, wrap64 s.host.pkgId), (0x05, wrap64 (s.cycOf (dieOf c))), (0x06, wrap64 s.me.icnt),
        (0x07, s.me.allow), (0x08, wrap64 (s.nowOf c s.bun.slot)), (0x09, s.myCore.seed),
        (0x0A, if s.myCore.long then 1 else 0), (0x0B, (entrant.map (·.score)).getD 0),
        (0x0C, wrap64 ((entrant.map (fun e => if e.ranked = 255 then 0 else e.rank)).getD 0)),
        (0x0D, (s.cluster s.myCl).mxprog), (0x0E, wrap64 (((s.regionOf c).map (·.floor)).getD 0))] : List (Nat × Word)) →
      Gives (.rdsr d sr) s d v) ∧
    ((sr.val = 0x0D → mxprogOk (s.cluster s.myCl) (s.operand b) = true) →
      Acts (.wrsr b sr) s [.wrsr sr.val (s.operand b)]) ∧
    (sr.val = 0x0D → mxprogOk (s.cluster s.myCl) (s.operand b) = false → Issues (.wrsr b sr) s →
      exec (.wrsr b sr) s = .next (stopThread { s with bun := Bun.none } c s.bun.slot (refused (s.operand b)) s.bun.addr)) ∧
    (∀ (w : Wb) (v : Word),
      let t := s.wbAct w
      (w.act = .wrsr 0x07 v → (t.thread w.cid w.slot).allow = v) ∧
      (w.act = .wrsr 0x09 v → (t.core w.cid).seed = v) ∧
      (∀ x, w.act = .wrsr 0x0D v → (s.cluster (clOf w.cid)).waiting = some x →
        (2 ^ 63 ≤ v.toNat → (t.cluster (clOf w.cid)).mxprog = v ∧
          ∀ y ∈ (t.cluster (clOf w.cid)).mxQ, y.id = x.id → y.step = v.toNat / 2 ^ 32 % 2 ^ 16) ∧
        (v.toNat < 2 ^ 63 → (t.cluster (clOf w.cid)).mxprog = 0 ∧ ∀ y ∈ (t.cluster (clOf w.cid)).mxQ, y.id ≠ x.id)))

/-- R99 to R101: `TSTART` reserves an empty slot from 1 to 15 and at write-back starts it with registers zero and the region's
allowance; `TREAP` empties a slot at write-back; `TSTAT` gives 0 for an empty slot, else the state code, the handler mark, the park reason, the fault code of a
stopped thread and the low 32 bits of `icnt`, in their fields; a stopped thread whose record still waits for its writes shows as
ready (log entry 103, DEDUCED). -/
def Obligations.ForemanStartsReapsAndReadsSlots : Prop :=
  ∀ (d a b : Reg) (s : State),
    let v := s.operand a
    let t := s.thread s.bun.cid v.toNat
    let x := s.thread s.bun.cid (s.operand b).toNat
    (1 ≤ v.toNat → v.toNat ≤ 15 → t.state = .empty →
      Does (.tstart a b) s ((s.modCore s.bun.cid (fun c =>
        { c with reserved := NatSet.add c.reserved v.toNat, tstartWait := none })).withActs [.tstart v.toNat (s.operand b)])) ∧
    (1 ≤ v.toNat → v.toNat ≤ 15 → (t.state = .empty ∨ t.handler = false) → Acts (.treap a) s [.treap v.toNat]) ∧
    ((s.operand b).toNat ≤ 15 → x.state = .empty → Gives (.tstat d b) s d 0) ∧
    ((s.operand b).toNat ≤ 15 → s.recPending s.bun.cid (s.operand b).toNat = true →
      Gives (.tstat d b) s d (wrap64 (x.icnt % 2 ^ 32 * 2 ^ 32 + 1))) ∧
    ((s.operand b).toNat ≤ 15 → x.state ≠ .empty → s.recPending s.bun.cid (s.operand b).toNat = false → x.code < 2 ^ 8 →
      s.parkShown s.bun.cid (s.operand b).toNat < 2 ^ 4 →
      ∃ w : Word, Gives (.tstat d b) s d w ∧
        w.toNat / 2 ^ 32 = x.icnt % 2 ^ 32 ∧ w.toNat % 8 = x.state.code ∧ (w.toNat / 8 % 2 = 1 ↔ x.handler = true) ∧
        w.toNat / 2 ^ 24 % 2 ^ 8 = (if x.state = .stopped then x.code else 0) ∧
        w.toNat / 2 ^ 8 % 2 ^ 4 = s.parkShown s.bun.cid (s.operand b).toNat) ∧
    (∀ (w : Wb) (k : Nat) (r : Region), s.regionOf w.cid = some r → k < 16 →
      (∀ pc, w.act = .tstart k pc → r.field 43 = 0 → (s.thread w.cid k).state = .empty →
        let y := (s.wbAct w).thread w.cid k
        y.state = .ready ∧ y.pc = pc ∧ y.regs = [] ∧ y.vregs = [] ∧ y.allow = r.startAllow ∧ y.notBefore = s.cyc + 1 ∧
          ((s.wbAct w).core w.cid).reserved.contains k = false) ∧
      (w.act = .treap k → r.pagers = [] → (s.thread w.cid k).state ≠ .empty →
        ((s.thread w.cid k).handler = false ∨ w.slot = k) → (s.wbAct w).thread w.cid k = Thread.fresh))

/-- R105: `WAIT` goes on once every class it names is at or below its bound (15 names no bound), and otherwise parks with
reason 0, neither counted nor moved. R219, R221: `FENCE` and `WIDEN` widen the thread's pins once what they wait for is
performed; `FENCE` of its own thread waits for nothing. -/
def Obligations.WaitFenceAndWidenGoOnWhenReady : Prop :=
  ∀ (mx cp st ld : Fin 16) (sc : Scope) (s : State),
    let low (c : Cls) (n : Fin 16) : Prop := n = 15 ∨ s.me.count c ≤ n.val
    ((low .ld ld ∧ low .st st ∧ low .cp cp ∧ low .mx mx) → Acts (.wait mx cp st ld) s []) ∧
    (¬ (low .ld ld ∧ low .st st ∧ low .cp cp ∧ low .mx mx) → Issues (.wait mx cp st ld) s →
      ∃ t, exec (.wait mx cp st ld) s = .next t ∧
        t.thread s.bun.cid s.bun.slot =
          { s.me with state := .parked, reason := 0, waitOn := (t.thread s.bun.cid s.bun.slot).waitOn }) ∧
    Acts (.fence .thr) s [] ∧
    (sc ≠ .thr → fenceReady s sc = true → Does (.fence sc) s (s.widenPins s.bun.cid s.bun.slot sc)) ∧
    (widenReady s sc = true → Does (.widen sc) s (s.widenPins s.bun.cid s.bun.slot sc))

/-- R250: a `VMODE` that finds its mode in force only gives up its place in the wait; one that can switch claims the core
and sets the mode at write-back, with the `w` registers zero; `VMODE.LONG` needs a grant of `w` registers. -/
def Obligations.VmodeSwitchesAtWriteBack : Prop :=
  ∀ s : State,
    let left (c : Core) : Core := { c with vmodeWait := c.vmodeWait.filter (fun w => w.1 ≠ s.bun.slot) }
    let claim (c : Core) : Core := { left c with vmodeBusy := some s.bun.slot }
    (s.myCore.long = true → Does .vmodeLong s (s.modCore s.bun.cid left)) ∧
    (s.myCore.long = false → Does .vmode s (s.modCore s.bun.cid left)) ∧
    (s.myCore.vmodeBusy = none → s.vmemBusy s.bun.cid = false → s.myCore.long = true →
      Does .vmode s ((s.modCore s.bun.cid claim).withActs [.vmode false])) ∧
    (s.myCore.vmodeBusy = none → s.vmemBusy s.bun.cid = false → s.myCore.long = false → longFree s = true →
      Does .vmodeLong s ((s.modCore s.bun.cid claim).withActs [.vmode true])) ∧
    (∀ (w : Wb) (long : Bool), w.act = .vmode long →
      let c := (s.wbAct w).core w.cid
      c.long = long ∧ c.vmodeBusy = none ∧ ∀ i, (s.wbAct w).wreg w.cid i = 0)

/-- R110 to R112, R233: `RVINIT` sets the count of an uninitialised point from 1 to 256 and repeats its own value without
effect; `RVARR` adds an arrival to be counted; `RVWAIT` goes on once the phase of the thread's own counted arrival has
completed, and parks with reason 3 while it has not; `RVBYTES` adds its bytes to the point's counter at write-back, and to no
other. That an arrival which issues in a cycle in which its thread's own store was performed counts from the next one is R112. -/
def Obligations.RendezvousPointsCountArrivalsAndBytes : Prop :=
  ∀ (a : Reg) (pt : Point) (s : State),
    let v := (s.operand a).toNat
    let p := s.myPoint pt.val
    (1 ≤ v → v ≤ 256 → p.expect = none →
      Does (.rvinit a pt) s (s.setPoint s.rid s.myCore.team pt.val { p with expect := some v })) ∧
    (1 ≤ v → v ≤ 256 → p.expect = some v → Acts (.rvinit a pt) s []) ∧
    (p.expect.isSome = true → Does (.rvarr pt) s { s with
      nextId := s.nextId + 1
      arrivals := insertArrival ⟨s.bun.cid, s.bun.slot, s.rid, s.myCore.team, pt.val, s.nextId, max s.cyc s.me.stored⟩ s.arrivals }) ∧
    (∀ ph, p.expect.isSome = true → Table.find s.me.rv pt.val = some (ph, true) →
      s.arrivals.any (fun x => x.cid = s.bun.cid && x.slot = s.bun.slot && x.point = pt.val) = false →
      (p.phase ≠ ph → Does (.rvwait pt) s (s.modMe (fun t => { t with rvWait := none }))) ∧
      (p.phase = ph → Issues (.rvwait pt) s → exec (.rvwait pt) s =
        .next (parkThread { s with bun := Bun.none } s.bun.cid s.bun.slot 3))) ∧
    (p.expect.isSome = true → v + p.bytes < 2 ^ 40 →
      Acts (.rvbytes a pt) s [.rvbytes pt.val v]) ∧
    (∀ (w : Wb) (k n rid : Nat), w.act = .rvbytes k n → (s.core w.cid).region = some rid →
      (s.team? rid (s.core w.cid).team).isSome = true →
      ((s.wbAct w).point rid (s.core w.cid).team k).bytes = ((s.point rid (s.core w.cid).team k).bytes + n) % 2 ^ 40 ∧
        ∀ j, j ≠ k → (s.wbAct w).point rid (s.core w.cid).team j = s.point rid (s.core w.cid).team j)

/-! ### Scratchpad, segments, banks -/

/-- R126, R128: a load of each size from a bank that is not the core's own sends a read of its bytes, counted in `nld`; from
the core's own home bank, with nothing before it, it reads at issue and its result is written six cycles later, zero- or
sign-extended. -/
def Obligations.ScratchLoadsReadTheirBytes : Prop :=
  ∀ (d x : Reg) (g : Seg) (imm : BitVec 9) (s : State) (e : Ea),
    ∀ l ∈ ([(.ldB d x g imm, 1, false), (.ldH d x g imm, 2, false), (.ldW d x g imm, 4, false), (.ldD d x g imm, 8, false),
        (.ldBSx d x g imm, 1, true), (.ldHSx d x g imm, 2, true), (.ldWSx d x g imm, 4, true)] : List (Instr × Nat × Bool)),
      let i := l.1
      let n := l.2.1
      let home : Prop := e.space = .scratch ∧ coreOf s.bun.cid < 16 ∧ bankOfSa e.addr / 2 = coreOf s.bun.cid
      let r : Req := { s.newReq (.load l.2.2) e g [pieceOf s e n 0 0] with dst := some d.val, cls := some .ld }
      memCheck s g [.scratch, .remote] rightR (s.operand x + imm.signExtend 64 * wrap64 n) n n fMisaligned = .ok e →
      (¬ home → Does i s (s.addReq r)) ∧
      (home → s.bankHeld s.rid e.cl (bankOfSa e.addr) = true → s.orderOk r (pieceOf s e n 0 0) = true →
        s.buffer s.bun.cid = [] → s.poisoned (scratchKey e.cl e.addr) n = none →
        Does i s ((s.withActs [.load d.val (if l.2.2 then (BitVec.ofNat (8 * n) (s.read (scratchKey e.cl e.addr) n)).signExtend 64
            else wrap64 (s.read (scratchKey e.cl e.addr) n)) s.nextId] 6).modMe (fun t => t.addOut s.nextId .ld)))

/-- R126, R128, R209: a store of each size takes a store-buffer entry with its operand and counts in `nst`; while the buffer is
full it parks with reason 8. -/
def Obligations.ScratchStoresTakeABufferEntry : Prop :=
  ∀ (d x : Reg) (g : Seg) (imm : BitVec 9) (s : State) (e : Ea),
    ∀ l ∈ ([(.stB d x g imm, 1), (.stH d x g imm, 2), (.stW d x g imm, 4), (.stD d x g imm, 8)] : List (Instr × Nat)),
      memCheck s g [.scratch, .remote] rightW (s.operand x + imm.signExtend 64 * wrap64 l.2) l.2 l.2 fMisaligned = .ok e →
      (s.bufferFull s.bun.cid = false → Does l.1 s (s.addReq { s.newReq .store e g [pieceOf s e l.2 (s.operand d).toNat 0] with
        cls := some .st, buffered := true, stage := .unsent })) ∧
      (s.bufferFull s.bun.cid = true → Issues l.1 s →
        exec l.1 s = .next (parkThread { s with bun := Bun.none } s.bun.cid s.bun.slot 8))

/-- R129 to R131, R209: full/empty operations need the s right, and act on aligned words. `STF`, `FESET`, `FECLR` and `FEQ` send
their request to any bank, the core's own included, `STF` as a store-buffer entry and without parking (log entry 95, DEDUCED);
`LDS`, `LDF` and `STS` send theirs to a bank that is not the core's own. `LDS` on a full word of the core's own bank empties it
and reads it, and on an empty one parks with reason 4. `FESET` and `FECLR` count in no class. -/
def Obligations.FullEmptyOperationsSynchronise : Prop :=
  ∀ (d x : Reg) (g : Seg) (imm : BitVec 9) (s : State) (e : Ea),
    let off := s.operand x + imm.signExtend 64 * 8
    let home : Prop := e.space = .scratch ∧ coreOf s.bun.cid < 16 ∧ bankOfSa e.addr / 2 = coreOf s.bun.cid
    let ld (op : MemOp) : Req := { s.newReq op e g [pieceOf s e 8 0 0] with dst := some d.val, cls := some .ld }
    let st (op : MemOp) : Req := { s.newReq op e g [pieceOf s e 8 (s.operand d).toNat 0] with
      cls := some .st, buffered := true, stage := .unsent }
    (memCheck s g [.scratch, .remote] (rightR + rightS) off 8 8 fMisaligned = .ok e → ¬ home →
      Does (.lds d x g imm) s (s.addReq (ld .lds)) ∧ Does (.ldf d x g imm) s (s.addReq (ld .ldf))) ∧
    (memCheck s g [.scratch, .remote] (rightW + rightS) off 8 8 fMisaligned = .ok e → s.bufferFull s.bun.cid = false →
      (¬ home → Does (.sts d x g imm) s (s.addReq (st .sts))) ∧ Does (.stf d x g imm) s (s.addReq (st .stf))) ∧
    (memCheck s g [.scratch, .remote] (rightW + rightS) (s.operand x) 8 8 fMisaligned = .ok e →
      Does (.feset x g) s (s.addReq (s.newReq .feset e g [pieceOf s e 8 0 0])) ∧
      Does (.feclr x g) s (s.addReq (s.newReq .feclr e g [pieceOf s e 8 0 0]))) ∧
    (memCheck s g [.scratch, .remote] rightS (s.operand x) 8 8 fMisaligned = .ok e → Does (.feq d x g) s (s.addReq (ld .feq))) ∧
    (memCheck s g [.scratch, .remote] (rightR + rightS) off 8 8 fMisaligned = .ok e → home →
      s.bankHeld s.rid e.cl (bankOfSa e.addr) = true → s.reqs = [] → s.poisoned (scratchKey e.cl e.addr) 8 = none →
      (s.isFull (scratchKey e.cl e.addr) = true →
        Does (.lds d x g imm) s ((((s.setFull (scratchKey e.cl e.addr) false).stepBank (bankKey e.cl (bankOfSa e.addr))).withActs
          [.load d.val (wrap64 (s.read (scratchKey e.cl e.addr) 8)) s.nextId] 6).modMe (fun t => t.addOut s.nextId .ld))) ∧
      (s.isFull (scratchKey e.cl e.addr) = false → Issues (.lds d x g imm) s →
        exec (.lds d x g imm) s = .next (parkThread { s with bun := Bun.none } s.bun.cid s.bun.slot 4)))

/-- R127: `SEGSET` writes a valid pair at write-back, `SEGNARROW` one that also lies within the old pair; any other pair stops
the thread with ILLEGAL_OPERAND. `SEGGET` gives the two words to d and d + 1. -/
def Obligations.SegmentsAreSetReadAndNarrowed : Prop :=
  ∀ (d a b : Reg) (g : Seg) (s : State),
    let new : SegReg := ⟨s.operand a, s.operand b⟩
    let old := s.seg s.bun.cid s.bun.slot g.val
    let stops (i : Instr) : Prop := Issues i s →
      exec i s = .next (stopThread { s with bun := Bun.none } s.bun.cid s.bun.slot notHere s.bun.addr)
    (new.valid = true → Acts (.segset a b g) s [.segset g.val new.base new.lr]) ∧
    (new.valid = false → stops (.segset a b g)) ∧
    (new.valid = true → new.within old = true → Acts (.segnarrow a b g) s [.segset g.val new.base new.lr]) ∧
    (¬ (new.valid = true ∧ new.within old = true) → stops (.segnarrow a b g)) ∧
    Acts (.segget d g) s (s.dest d.val old.base ++ s.dest (d.val + 1) old.lr) ∧
    (∀ (w : Wb) (k : Nat) (base lr : Word), w.act = .segset k base lr →
      Table.canon SegReg.zero (s.thread w.cid w.slot).segs = true →
      (s.wbAct w).seg w.cid w.slot k = ⟨base, lr⟩ ∧ ∀ j, j ≠ k → (s.wbAct w).seg w.cid w.slot j = s.seg w.cid w.slot j)

/-- R117 to R119, R121 to R123: bank formats, histograms, pool roles and limits. A bank number has to name a bank that the
region holds. `BANKALLOC` of 0 gives the banks allocated; of more banks than it can take it takes none; else it takes them, and
where all of them were free the word names them. At write-back `BANKFMT` sets the format, `HISTCLR` clears the bins,
`BANKFREE` closes the bank and `POOLSET` sets the limits; a bin is delivered as it stands at the end of its cycle. That `BANKALLOC` changes the roles and reads the cache mask at issue is log entry
90 (DESIGN CHOICE), that `BANKFREE` acts at write-back is log entry 15 (DEDUCED). -/
def Obligations.BankInstructionsActOnHeldBanks : Prop :=
  ∀ (d a b : Reg) (bin : Fin 64) (s : State),
    let v := s.operand a
    let w := s.operand b
    let n := w.toNat
    let free := s.poolBanks (fun r => r = .free)
    let cache := s.poolBanks (fun r => r = .cache)
    let lim := (s.cluster s.myCl).limitsOf s.rid
    let owned := (s.ownedBanks s.rid s.myCl).length
    (ownBank s v = true → fmtBad w = false → (fmtRm w = 5 → s.host.featAccept.toNat.testBit 3 = true) →
      Acts (.bankfmt a b) s [.bankfmt (bankKey s.myCl v.toNat) w]) ∧
    (ownBank s w = true → Issues (.histrd d b bin) s → exec (.histrd d b bin) s = .next (s.ended (.histrd d b bin)
      (s.withActs [.histsample (bankKey s.myCl n) bin.val d.val] 2) s.bun.npc)) ∧
    (ownBank s v = true → Acts (.histclr a) s [.histclr (bankKey s.myCl v.toNat)]) ∧
    (32 ≤ v.toNat → v.toNat < 48 → (s.bank (bankKey s.myCl v.toNat)).role = .alloc s.rid →
      Acts (.bankfree a) s [.bankfree (bankKey s.myCl v.toNat)]) ∧
    (limitsOk v = true → Acts (.poolset a) s [.poolset v]) ∧
    (n = 0 → Gives (.bankalloc d b) s d (allocWord s (maskOf (s.allocBanks s.rid s.myCl)))) ∧
    (1 ≤ n → n ≤ 16 → (free.length + (cache.length - lim.cacheMin) < n ∨ lim.scratchMax < owned + n) →
      Gives (.bankalloc d b) s d (allocWord s 0)) ∧
    (1 ≤ n → n ≤ free.length → n ≤ 16 → owned + n ≤ lim.scratchMax → Issues (.bankalloc d b) s →
      ∃ t, exec (.bankalloc d b) s = .next t ∧
        (∀ j ∈ free.take n, (t.bank (bankKey s.myCl (32 + j))).role = .alloc s.rid) ∧
        t.wbs = s.wbs ++ ((s.dest d.val (wrap64 (maskOf (free.take n) * 2 ^ 32 +
          maskOf ((List.range 16).filter (fun j => (s.bank (bankKey s.myCl (32 + j))).role = .cache))))).zipIdx.map (fun e =>
            ⟨s.cyc + 4, s.bun.cid, s.bun.slot, s.nextId + e.2, s.bun.addr, s.me.icnt, e.1⟩))) ∧
    (∀ (w : Wb) (k : Nat) (v : Word),
      let t := s.wbAct w
      (w.act = .bankfmt k v → (t.bank k).fmt = v ∧ (t.bank k).bins = (s.bank k).bins ∧ (t.bank k).role = (s.bank k).role) ∧
      (w.act = .histclr k → (t.bank k).bins = [] ∧ (t.bank k).fmt = (s.bank k).fmt) ∧
      (∀ rid, w.act = .bankfree k → (s.bank k).role = .alloc rid → (t.bank k).role = .closing rid) ∧
      (∀ rid, w.act = .poolset v → (s.core w.cid).region = some rid →
        (t.cluster (clOf w.cid)).limitsOf rid = ⟨rid, v.toNat % 32, v.toNat / 2 ^ 8 % 32, v.toNat / 2 ^ 16 % 32⟩) ∧
      (∀ j r, w.act = .histsample k j r → t.wbs = s.wbs ++ [{ w with
        due := w.due + 2, act := s.deliver w.cid r (wrap64 (Table.get 0 (s.bank k).bins j)) }]))

/-! ### Global memory, streams, vector memory -/

/-- R126, R191, R202, R217: plain and acquiring global loads of each size, and acquiring scratchpad loads from a bank that is
not the core's own, send a read of their bytes. R192: a global load whose page is not in the translation cache waits for its
page walk, whatever the tables hold, and its thread goes on with nothing until then; one that the cache denies stops its thread with
PAGE_DENIED. -/
def Obligations.GlobalAndAcquiringLoadsSendTheirReads : Prop :=
  ∀ (d x : Reg) (g : Seg) (imm : BitVec 9) (sc : Scope) (z : Size) (sx : Bool) (s : State) (e : Ea),
    (∀ l ∈ ([(.ldgB d x g imm, 1, false), (.ldgH d x g imm, 2, false), (.ldgW d x g imm, 4, false), (.ldgD d x g imm, 8, false),
        (.ldgBSx d x g imm, 1, true), (.ldgHSx d x g imm, 2, true), (.ldgWSx d x g imm, 4, true)] : List (Instr × Nat × Bool)),
      let n := l.2.1
      let r : Req := { s.newReq (.load l.2.2) e g [pieceOf s e n 0 0] with dst := some d.val, cls := some .ld }
      memCheck s g [.global, .stack] rightR (s.operand x + imm.signExtend 64 * wrap64 n) n n fMisaligned = .ok e →
      Sends l.1 s r ∧
      (e.space = .global → s.tlbLook s.rid s.myCl (dieOf s.bun.cid) false false e.addr = .missing →
        (s.region? s.rid).isSome = true →
        Issues l.1 s → ∃ t, exec l.1 s = .next t ∧ t.reqs = s.reqs ++ [{ r with stage := .walking }] ∧
          (t.thread s.bun.cid s.bun.slot).walking = true ∧ (t.thread s.bun.cid s.bun.slot).pc = s.bun.npc) ∧
      (∀ k, e.space = .global → s.tlbLook s.rid s.myCl (dieOf s.bun.cid) false false e.addr = .denied k →
        (s.region? s.rid).isSome = true → Issues l.1 s →
        exec l.1 s = .next (stopThread { s with bun := Bun.none } s.bun.cid s.bun.slot (pageDenied k e.addr) s.bun.addr))) ∧
    (memCheck s g [.global, .stack] rightR (s.operand x) z.bytes z.bytes fMisaligned = .ok e →
      Sends (.ldgAcq z sx sc d x g) s { s.newReq (.load sx) e g [pieceOf s e z.bytes 0 0] with
        dst := some d.val, cls := some .ld, ord := .acq sc }) ∧
    (memCheck s g [.scratch, .remote] rightR (s.operand x) z.bytes z.bytes fMisaligned = .ok e →
      ¬ (e.space = .scratch ∧ coreOf s.bun.cid < 16 ∧ bankOfSa e.addr / 2 = coreOf s.bun.cid) →
      Sends (.ldAcq z sx sc d x g) s { s.newReq (.load sx) e g [pieceOf s e z.bytes 0 0] with
        dst := some d.val, cls := some .ld, ord := .acq sc })

/-- R202, R209, R217: global stores and releasing stores take a store-buffer entry with their operand, scope and bytes;
`CCLEAN` and `CINVAL` send the operation on their line; `PREF` sends its request or, where a check fails, does nothing. -/
def Obligations.GlobalStoresReleasesAndCacheOperations : Prop :=
  ∀ (d x : Reg) (g : Seg) (imm : BitVec 9) (sc : Scope) (z : Size) (s : State) (e : Ea),
    let st (n : Nat) (o : AOrd) : Req := { s.newReq .store e g [pieceOf s e n (s.operand d).toNat 0] with
      cls := some .st, buffered := true, ord := o }
    (s.bufferFull s.bun.cid = false →
      (∀ l ∈ ([(.stgB d x g imm, 1), (.stgH d x g imm, 2), (.stgW d x g imm, 4), (.stgD d x g imm, 8)] : List (Instr × Nat)),
        memCheck s g [.global, .stack] rightW (s.operand x + imm.signExtend 64 * wrap64 l.2) l.2 l.2 fMisaligned = .ok e →
        Sends l.1 s (st l.2 .plain)) ∧
      (memCheck s g [.global, .stack] rightW (s.operand x) z.bytes z.bytes fMisaligned = .ok e →
        Sends (.stgRel z sc d x g) s (st z.bytes (.rel sc))) ∧
      (memCheck s g [.scratch, .remote] rightW (s.operand x) z.bytes z.bytes fMisaligned = .ok e →
        Sends (.stRel z sc d x g) s (st z.bytes (.rel sc)))) ∧
    (memCheck s g [.global, .stack] rightW (s.operand x) 1 1 fMisaligned = .ok e →
      Sends (.cclean x g) s { s.newReq .cclean e g [pieceOf s e 1 0 0] with cls := some .st } ∧
      Sends (.cinval x g) s { s.newReq .cinval e g [pieceOf s e 1 0 0] with cls := some .st }) ∧
    (memCheck s g [.global, .stack] rightR (s.operand x) 1 1 fMisaligned = .ok e →
      Sends (.pref x g) s (s.newReq .pref e g [pieceOf s e 1 0 0])) ∧
    (∀ f, memCheck s g [.global, .stack] rightR (s.operand x) 1 1 fMisaligned = .error f → Acts (.pref x g) s [])

/-- R204, R217: each atomic sends its operation with its operand: 4 bytes, or 8 for `.D`; a returning form counts in `nld` and
names d, another counts in `nst`; the compare value of `ACAS` is register d + 1. R204: in a deterministic region a returning
integer atomic stops the thread with DET_ATOMIC_RESULT. -/
def Obligations.AtomicsSendTheirOperation : Prop :=
  ∀ (o : AOrd) (nret dw : Bool) (d x : Reg) (g : Seg) (s : State) (e : Ea),
    let n := if dw then 8 else 4
    let req (op : Nat) (dw : Bool) (n : Nat) (cmp : Word) : Req :=
      { s.newReq (.atomic op (!nret) dw cmp) e g [pieceOf s e n (s.operand d).toNat 0] with
        ord := o, dst := if nret then none else some d.val, cls := some (if nret then .st else .ld) }
    let det : Prop := ∃ rg, s.region? s.rid = some rg ∧ rg.det = true
    (∀ l ∈ ([(0, .aadd o nret dw d x g), (1, .aand o nret dw d x g), (2, .aor o nret dw d x g), (3, .axor o nret dw d x g),
        (4, .amin o nret dw d x g), (5, .amax o nret dw d x g), (6, .aminu o nret dw d x g), (7, .amaxu o nret dw d x g),
        (8, .axchg o nret dw d x g), (9, .acas o nret dw d x g)] : List (Nat × Instr)),
      memCheck s g [.global, .stack] rightA (s.operand x) n n fMisalignedAtomic = .ok e →
      (¬ (det ∧ nret = false) →
        Sends l.2 s (req l.1 dw n (if l.1 = 9 then s.reg s.bun.cid s.bun.slot (d.val + 1) else 0))) ∧
      (det → nret = false → Issues l.2 s → exec l.2 s =
        .next (stopThread { s with bun := Bun.none } s.bun.cid s.bun.slot (flt5 fDetAtomic 0) s.bun.addr))) ∧
    (memCheck s g [.global, .stack] rightA (s.operand x) 4 4 fMisalignedAtomic = .ok e → ¬ det →
      Sends (.afadd o nret d x g) s (req 10 false 4 0))

/-- R170, R171, R174, R179, R183: `RST` and `MST` take a store-buffer entry. On stream 0 there is no number; on another stream
the store takes the pair's next number, and a pair without an entry begins with number 0 and waits for its open store; where
the pair has 64 outstanding the bundle parks with reason 2. -/
def Obligations.StreamStoresTakeTheNextNumber : Prop :=
  ∀ (k : Fin 16) (z : Size) (d x : Reg) (g : Seg) (imm : BitVec 9) (s s1 : State) (e : Ea) (r1 : Req),
    let i : Instr := .rst k z d x g
    let r : Req := { s.newReq (.rst k.val) e g [pieceOf s e z.bytes (s.operand d).toNat 0] with cls := some .st, buffered := true }
    let dest := s1.destOf r1
    s.bufferFull s.bun.cid = false →
    (memCheck s g [.scratch, .remote, .global, .stack] rightW (s.operand x) z.bytes z.bytes fMisaligned = .ok e →
      s.known r = some (s1, r1) →
      (k = 0 → Does i s (s1.addReq { r1 with dest := dest, stage := .unsent })) ∧
      (∀ en, k ≠ 0 → s.myCore.streamTab.find? (fun y => y.stream = k.val && y.dest = dest) = some en →
        (en.outst < 64 → Issues i s → ∃ t, exec i s = .next t ∧
          t.reqs = s.reqs ++ [{ r1 with dest := dest, seqn := some en.next, stage := .unsent }] ∧
          { en with next := (en.next + 1) % 2 ^ 16, outst := en.outst + 1 } ∈ (t.core s.bun.cid).streamTab) ∧
        (64 ≤ en.outst → Issues i s → exec i s = .next (parkThread { s with bun := Bun.none } s.bun.cid s.bun.slot 2))) ∧
      (k ≠ 0 → s.myCore.streamTab.find? (fun y => y.stream = k.val && y.dest = dest) = none → s.myCore.streamTab.length < 32 →
        Issues i s → ∃ t, exec i s = .next t ∧
          t.reqs = s.reqs ++ [{ r1 with dest := dest, seqn := some 0, stage := .unsent }] ∧
          (⟨k.val, dest, 1, 1, true⟩ : StreamEntry) ∈ (t.core s.bun.cid).streamTab)) ∧
    (memCheck s g [.global] rightW (s.operand x + imm.signExtend 64 * 8) 8 8 fMisaligned = .ok e →
      Sends (.mst d x g imm) s { s.newReq .mst e g [pieceOf s e 8 (s.operand d).toNat 0] with cls := some .st, buffered := true })

/-- R180, R181: `SWAIT` with no `RST` of the stream outstanding writes what its last one reported at write-back, and otherwise
waits as a load, until the acknowledgement of the last `RST` before it gives it that store's apply tag; `SSEQ` gives the pair's entry
for a cluster named by its coordinates, and stops on coordinates out of range. -/
def Obligations.StreamReadsReportTheirPair : Prop :=
  ∀ (k : Fin 16) (d b : Reg) (s : State),
    let v := (s.operand b).toNat
    let busy := s.reqs.any (fun r => r.cid = s.bun.cid && r.slot = s.bun.slot && r.op = .rst k.val && !r.dropped)
    let last := Table.find s.me.lastRst k.val
    (busy = false → Does (.swait d k) s ((s.withActs [.load d.val (match last with
        | some l => if l.refused then 2 ^ 63 else wrap64 (l.tag % 2 ^ 48)
        | none => 0) s.nextId]).modMe (fun t => t.addOut s.nextId .ld))) ∧
    (busy = true → Issues (.swait d k) s → ∃ t r, exec (.swait d k) s = .next t ∧ t.reqs = s.reqs ++ [r] ∧
      r.op = .swait k.val ∧ r.dst = some d.val ∧ r.stage = .sent) ∧
    (v < 2 ^ 26 → v / 2 ^ 14 = s.host.pkgId → v / 2 ^ 8 % 16 < 12 → v / 2 ^ 4 % 16 < 12 →
      Gives (.sseq d b k) s d (match s.myCore.streamTab.find? (fun y => y.stream = k.val &&
          y.dest = v / 2 ^ 12 % 4 * 144 + v / 2 ^ 8 % 16 * 12 + v / 2 ^ 4 % 16) with
        | some y => wrap64 (2 ^ 24 + (if y.openWait then 2 ^ 23 else 0) + y.outst * 2 ^ 16 + y.next)
        | none => 0)) ∧
    (v < 2 ^ 26 → ¬ (v / 2 ^ 8 % 16 < 12 ∧ v / 2 ^ 4 % 16 < 12) → Issues (.sseq d b k) s → exec (.sseq d b k) s =
      .next (stopThread { s with bun := Bun.none } s.bun.cid s.bun.slot (refused (s.operand b)) s.bun.addr)) ∧
    (∀ r q : Req, s.reqs = [r, q] → r.op = .rst k.val → r.stage = .served → r.dropped = false → r.nulled = false → r.ord = .plain →
      q.op = .swait k.val → q.cid = r.cid → q.slot = r.slot → r.id < q.id → q.dest ≤ r.id → q.dropped = false → q.stage = .sent →
      ∃ t, exec (.storeAcknowledge r.id) s = .next t ∧
        t.reqs = [{ q with dest := r.id, stage := .served, result := r.result % 2 ^ 48 }] ∧ t.mem = s.mem)

/-- R247, R252, R253: a vector load or store of a whole register sends its bytes, in short mode as one access of 32 bytes;
strided, gathered and scattered ones send one access for each element, in ascending order, at the offsets the rule gives.
R73: a load from the thread's own home banks, with nothing before it, is written at issue + 6. -/
def Obligations.VectorMemorySendsItsElements : Prop :=
  ∀ (t : Reg) (z : Size) (d x : Reg) (g : Seg) (imm : BitVec 9) (s : State) (e : Ea),
    let off := s.operand x + imm.signExtend 64 * 32
    let spaces : List Space := [.scratch, .remote, .global, .stack]
    let n := if s.myCore.long then 512 else 32
    let pieces (data : Nat) : List Piece := if s.myCore.long then wholePieces s e data else [pieceOf s e 32 data 0]
    let count := n / z.bytes
    let gathered := n / max z.bytes 4
    let index (j : Nat) : Word := s.operand x + (BitVec.ofNat 32 (s.lane 32 t j)).signExtend 64
    let strided := (List.range count).map (fun j => (j, s.operand x + wrap64 j * s.operand t, 0))
    let gather := (List.range gathered).map (fun j => (j, index j, 0))
    let scatter := (List.range gathered).map (fun j => (j, index j, s.lane (8 * z.bytes) d j))
    (memCheck s g spaces rightR off n 32 fMisaligned = .ok e → oneBank e n = true →
      SendsOrReads (.vld d x g imm) s { s.newReq .vload e g (pieces 0) with
        vdst := some d.val, long := s.myCore.long, cls := some .ld }) ∧
    (memCheck s g spaces rightW off n 32 fMisaligned = .ok e → oneBank e n = true →
      Sends (.vst d x g imm) s { s.newReq .vstore e g (pieces (s.vsrc d.val)) with cls := some .st }) ∧
    (∀ f l, checkElems s g rightR z.bytes strided = .ok (f :: l) →
      SendsOrReads (.vlds t z d x g) s { s.newReq .vload f.1 g ((f :: l).map (·.2)) with
        vdst := some d.val, long := s.myCore.long, cls := some .ld }) ∧
    (∀ f l, checkElems s g rightR z.bytes gather = .ok (f :: l) →
      SendsOrReads (.vgath t z d x g) s { s.newReq .vload f.1 g ((f :: l).map (·.2)) with
        vdst := some d.val, long := s.myCore.long, cls := some .ld }) ∧
    (∀ f l, checkElems s g rightW z.bytes scatter = .ok (f :: l) →
      Sends (.vscat t z d x g) s { s.newReq .vstore f.1 g ((f :: l).map (·.2)) with cls := some .st })

/-! ### Vector arithmetic -/

/-- R255, R256: the lane-wise sums, differences, products and fused products: on a float type one rounding of the exact
result in the mode of the form, with lane i's stochastic bits; on an integer type the exact result, clamped by its modifier
and taken to the low bits. -/
def Obligations.VectorSumsAndProductsAreLaneWise : Prop :=
  ∀ (d a b : Reg) (s : State),
    (∀ (f : FT) (rm : Rm),
      let n := f.fmt.bits
      let x (r : Reg) (i : Nat) : FV := f.fmt.decode (s.lane n r i)
      let out (i : Nat) (y : FRes) : Nat := f.fmt.finish rm (s.srgNow i) (s.nanNow i) y
      GivesLanes (.vadd (.fl f rm) d a b) s d n (fun i => out i (exactAdd rm (x a i) (x b i))) ∧
      GivesLanes (.vsub (.fl f rm) d a b) s d n (fun i => out i (exactSub rm (x a i) (x b i))) ∧
      GivesLanes (.vmul (.fl f rm) d a b) s d n (fun i => out i (exactMul (x a i) (x b i))) ∧
      GivesLanes (.vdiv f rm d a b) s d n (fun i => out i (exactDiv f.fmt (x a i) (x b i))) ∧
      GivesLanes (.vsqrt f rm d a) s d n (fun i => out i (exactSqrt f.fmt (x a i))) ∧
      GivesLanes (.vfma (.fl f rm) d a b) s d n (fun i => out i (exactDot rm [(x a i, x b i)] (some (x d i))))) ∧
    (∀ (t : IT) (m : IntMod),
      let n := t.bits
      let x (r : Reg) (i : Nat) : Int := intVal n t.signed (s.lane n r i)
      let out (y : Int) : Nat := (clampMod m n y % 2 ^ n).toNat
      GivesLanes (.vadd (.int t m) d a b) s d n (fun i => out (x a i + x b i)) ∧
      GivesLanes (.vsub (.int t m) d a b) s d n (fun i => out (x a i - x b i)) ∧
      GivesLanes (.vmul (.int t m) d a b) s d n (fun i => out (x a i * x b i)) ∧
      GivesLanes (.vfma (.int t m) d a b) s d n (fun i => out (x a i * x b i + x d i)))

/-- R256 to R258: minima, maxima, signs, and the special functions, whose one rounding is that of the mode; comparisons fill a
lane with ones; `VSEL` takes b's lane where a's is not zero, else keeps d's. `VEXP`, `VLOG` and `VTANH` are stated by `spExp`,
`spLog` and `spTanh`, whose working precision is the model's (log entry 5, DESIGN CHOICE, unsafe). -/
def Obligations.VectorSelectionsSignsAndFunctions : Prop :=
  ∀ (d a b : Reg) (s : State),
    (∀ (f : FT) (rm : Rm),
      let n := f.fmt.bits
      let x (r : Reg) (i : Nat) : FV := f.fmt.decode (s.lane n r i)
      let out (i : Nat) (y : FRes) : Nat := f.fmt.finish rm (s.srgNow i) (s.nanNow i) y
      GivesLanes (.vmin (.fl f) d a b) s d n (fun i => f.fmt.minMax false (s.lane n a i) (s.lane n b i)) ∧
      GivesLanes (.vmax (.fl f) d a b) s d n (fun i => f.fmt.minMax true (s.lane n a i) (s.lane n b i)) ∧
      GivesLanes (.vabs (.fl f) d a) s d n (fun i => f.fmt.withSign (fun _ => false) (s.lane n a i)) ∧
      GivesLanes (.vneg (.fl f) d a) s d n (fun i => f.fmt.withSign (fun g => !g) (s.lane n a i)) ∧
      GivesLanes (.vrcp f rm d a) s d n (fun i => out i (exactDiv f.fmt (.num false 1 0) (x a i))) ∧
      GivesLanes (.vrsq f rm d a) s d n (fun i => out i (exactRsqrt f.fmt (x a i))) ∧
      GivesLanes (.vexp f rm d a) s d n (fun i => out i (spExp 41 (x a i))) ∧
      GivesLanes (.vlog f rm d a) s d n (fun i => out i (spLog 41 (x a i))) ∧
      GivesLanes (.vtanh f rm d a) s d n (fun i => out i (spTanh 41 (x a i))) ∧
      ∀ c : VCond, GivesLanes (.vcmp (.fl f c) d a b) s d n (fun i => if c.holds (x a i) (x b i) then 2 ^ n - 1 else 0)) ∧
    (∀ (t : IT) (sat : Bool),
      let n := t.bits
      let x (r : Reg) (i : Nat) : Int := intVal n t.signed (s.lane n r i)
      let out (y : Int) : Nat := (clampMod (if sat then .sat else .wrap) n y % 2 ^ n).toNat
      GivesLanes (.vmin (.int t) d a b) s d n (fun i => if x a i ≤ x b i then s.lane n a i else s.lane n b i) ∧
      GivesLanes (.vmax (.int t) d a b) s d n (fun i => if x a i ≤ x b i then s.lane n b i else s.lane n a i) ∧
      GivesLanes (.vabs (.int t sat) d a) s d n (fun i => out (if x a i < 0 then -x a i else x a i)) ∧
      GivesLanes (.vneg (.int t sat) d a) s d n (fun i => out (-x a i)) ∧
      ∀ c : ICond, GivesLanes (.vcmp (.int t c) d a b) s d n (fun i => if c.holds (x a i) (x b i) then 2 ^ n - 1 else 0)) ∧
    (∀ t : VT, GivesLanes (.vsel t d a b) s d t.bits (fun i =>
      if s.lane t.bits a i = 0 then s.lane t.bits d i else s.lane t.bits b i))

/-- R256, R259 to R261: bitwise logic and shifts by lane modulo the width, conversions that keep the lanes above the count of
the wider type, permutes, and the moves between lanes and general registers. -/
def Obligations.VectorLogicConversionsAndMoves : Prop :=
  ∀ (d a b : Reg) (s : State),
    (∀ t : IT,
      let n := t.bits
      GivesLanes (.vand t d a b) s d n (fun i => s.lane n a i &&& s.lane n b i) ∧
      GivesLanes (.vor t d a b) s d n (fun i => s.lane n a i ||| s.lane n b i) ∧
      GivesLanes (.vxor t d a b) s d n (fun i => s.lane n a i ^^^ s.lane n b i) ∧
      GivesLanes (.vshl t d a b) s d n (fun i => s.lane n a i * 2 ^ (s.lane n b i % n)) ∧
      GivesLanes (.vshr t d a b) s d n (fun i =>
        (Int.fdiv (intVal n t.signed (s.lane n a i)) (2 ^ (s.lane n b i % n)) % 2 ^ n).toNat)) ∧
    (∀ (dst src : VT) (rm : Rm),
      GivesLanes (.vcvt dst src rm d a) s d dst.bits (fun i =>
        if i < s.vbits / max dst.bits src.bits then convert dst.num src.num rm (s.srgNow i) (s.lane src.bits a i)
        else s.lane dst.bits d i)) ∧
    (∀ t : VT,
      let n := t.bits
      let m := s.laneCount n
      GivesLanes (.vperm t d a b) s d n (fun i => s.lane n a (s.lane n b i % m)) ∧
      GivesLanes (.vbcast t d a) s d n (fun _ => (s.operand a).toNat) ∧
      GivesLanes (.vins t d a b) s d n (fun i =>
        if i = (s.operand b).toNat % m then (s.operand a).toNat else s.lane n d i)) ∧
    (∀ f : FT, Gives (.vext (.fl f) d a b) s d (wrap64 (s.lane f.fmt.bits a ((s.operand b).toNat % s.laneCount f.fmt.bits)))) ∧
    (∀ t : IT, Gives (.vext (.int t) d a b) s d
      (wrapI (intVal t.bits t.signed (s.lane t.bits a ((s.operand b).toNat % s.laneCount t.bits)))))

/-- R67, R68, R260: `VDOT` adds the products of all lanes to d's low element, on an integer type exactly, and clears the rest of
d; `VRED` combines neighbouring lanes level by level, with one rounding or clamp at every node, so that an integer type without
saturation gives the sum modulo the width. That a saturating `VRED` re-reads each node's result as its lane type is read from
R260 by inference (log entry 72, DEDUCED). -/
def Obligations.VectorReductionsSumTheirLanes : Prop :=
  ∀ (d a b : Reg) (s : State),
    (∀ (f : FT) (rm : Rm) , Issues (.vdot (.fl f rm) d a b) s → exec (.vdot (.fl f rm) d a b) s =
      .next (s.issued (.vdot (.fl f rm) d a b) (s.vdest d (Fmt.fp32.finish rm (s.srgNow 0) (s.nanNow 0)
        (exactDot rm ((List.range (s.laneCount f.fmt.bits)).map (fun i =>
            (f.fmt.decode (s.lane f.fmt.bits a i), f.fmt.decode (s.lane f.fmt.bits b i))))
          (some (Fmt.fp32.decode (s.lane 32 d 0)))))))) ∧
    (∀ (t : IT) (m : IntMod),
      let n := t.bits
      let w := if n = 64 then 64 else 32
      let x (r : Reg) (i : Nat) : Int := intVal n t.signed (s.lane n r i)
      let sum := ((List.range (s.laneCount n)).map (fun i => x a i * x b i)).sum
      Issues (.vdot (.int t m) d a b) s → exec (.vdot (.int t m) d a b) s = .next (s.issued (.vdot (.int t m) d a b)
        (s.vdest d (clampMod m w (intVal w true (s.lane w d 0) + sum) % 2 ^ w).toNat))) ∧
    (∀ t : IT,
      let n := t.bits
      let sum := ((List.range (s.laneCount n)).map (fun i => s.lane n a i)).sum
      Issues (.vred (.int t .wrap) d a) s → exec (.vred (.int t .wrap) d a) s =
        .next (s.issued (.vred (.int t .wrap) d a) (s.vdest d (sum % 2 ^ n)))) ∧
    (∀ v : VArith,
      let n := v.vtype.bits
      let m := s.laneCount n
      let node (e x y : Nat) : Nat := match v with
        | .fl f rm => f.fmt.finish rm (s.srgNow e) (s.nanNow 0) (exactAdd rm (f.fmt.decode x) (f.fmt.decode y))
        | .int t md => (clampMod md n (intVal n t.signed x + intVal n t.signed y) % 2 ^ n).toNat
      Issues (.vred v d a) s → exec (.vred v d a) s =
        .next (s.issued (.vred v d a) (s.vdest d (redNode node (s.lane n a) m (Nat.log2 m) 0))))

/-- R262: the scalar floating-point forms act on the low bits of general registers, round once, and write the result
zero-extended; `VCMP.S` gives 1 or 0, and `VCVT.S` sign-extends signed integers. That the addend of `VFMA.S` is a popping source
like any other is log entry 14 (DEDUCED); the working precision of `VEXP.S`, `VLOG.S` and `VTANH.S` is log entry 5 (DESIGN CHOICE,
unsafe). -/
def Obligations.ScalarFloatFormsRoundOnce : Prop :=
  ∀ (t : SF) (rm : Rm) (d a b : Reg) (s : State),
    let f := t.fmt
    let bits (r : Reg) : Nat := (s.operand r).toNat % 2 ^ f.bits
    let x (r : Reg) : FV := f.decode (bits r)
    let out (y : FRes) : Word := wrap64 (f.finish rm (s.srgNow 0) (s.nanNow 0) y)
    Gives (.vaddS t rm d a b) s d (out (exactAdd rm (x a) (x b))) ∧
    Gives (.vsubS t rm d a b) s d (out (exactSub rm (x a) (x b))) ∧
    Gives (.vmulS t rm d a b) s d (out (exactMul (x a) (x b))) ∧
    Gives (.vdivS t rm d a b) s d (out (exactDiv f (x a) (x b))) ∧
    Gives (.vfmaS t rm d a b) s d
      (out (exactDot rm [(x a, x b)] (some (x d)))) ∧
    Gives (.vsqrtS t rm d a) s d (out (exactSqrt f (x a))) ∧
    Gives (.vminS t d a b) s d (wrap64 (f.minMax false (bits a) (bits b))) ∧
    Gives (.vmaxS t d a b) s d (wrap64 (f.minMax true (bits a) (bits b))) ∧
    Gives (.vabsS t d a) s d (wrap64 (f.withSign (fun _ => false) (bits a))) ∧
    Gives (.vnegS t d a) s d (wrap64 (f.withSign (fun n => !n) (bits a))) ∧
    Gives (.vrcpS t rm d a) s d (out (exactDiv f (.num false 1 0) (x a))) ∧
    Gives (.vrsqS t rm d a) s d (out (exactRsqrt f (x a))) ∧
    Gives (.vexpS t rm d a) s d (out (spExp (if t = .f64 then 66 else 41) (x a))) ∧
    Gives (.vlogS t rm d a) s d (out (spLog (if t = .f64 then 66 else 41) (x a))) ∧
    Gives (.vtanhS t rm d a) s d (out (spTanh (if t = .f64 then 66 else 41) (x a))) ∧
    (∀ c : VCond, Gives (.vcmpS t c d a b) s d (if c.holds (x a) (x b) then 1 else 0)) ∧
    (∀ dst src : ST,
      let y := convert dst.num src.num rm (s.srgNow 0) ((s.operand a).toNat % 2 ^ src.num.bits)
      Gives (.vcvtS dst src rm d a) s d (match dst with
        | .int .i32 => (BitVec.ofNat 32 y).signExtend 64
        | .int .i64 => wrap64 y
        | .int .u32 => wrap64 y
        | .int .u64 => wrap64 y
        | .fl _ => wrap64 y))

/-! ### Engines and the tick array -/

/-- R233, R235, R244, R245: `CPSTREAM` arms a free stream register at write-back, with no test of configured queues, since no
stream register can be one (log entry 96, DEDUCED); `MXSAVE` and `MXLOAD` count in `nmx` and enter
the matrix queue at write-back, and park with reason 2 while it has no room; `ACCRD` reads one accumulator word once the matrix
commands before it are done: at issue where there are none, else as the last of them is. -/
def Obligations.EngineInstructionsEnterAtWriteBack : Prop :=
  ∀ (d a b : Reg) (k t : Fin 4) (s : State),
    let n := (s.operand b).toNat
    let area (load : Bool) : State := (({ s with nextId := s.nextId + 1 }).modMe (fun t => t.addOut s.nextId .mx)).withActs
      [.mxarea load (s.operand a).toNat s.nextId]
    (s.myCore.stream? k.val = none → Acts (.cpstream b k) s [.cpstream k.val (n % 2 ^ 32)]) ∧
    (((s.holdsMx s.bun.cid s.rid = false ∧ isSup s.bun.cid = false) ∨ s.engRoom s.myCl 29 = true) →
      Does (.mxsave a) s (area false) ∧ Does (.mxload a) s (area true)) ∧
    ((s.holdsMx s.bun.cid s.rid = true ∨ isSup s.bun.cid = true) → s.engRoom s.myCl 29 = false → Issues (.mxsave a) s →
      exec (.mxsave a) s = .next (parkThread { s with bun := Bun.none } s.bun.cid s.bun.slot 2)) ∧
    (s.holdsMx s.bun.cid s.rid = true → n < 2 ^ 16 → n % 2 ^ 8 ≤ 95 → Does (.accrd d b t) s (s.addReq
      (s.arrayReq (.accrd t.val (n / 2 ^ 8) (n % 2 ^ 8)) d.val (s.cluster s.myCl).mxIds))) ∧
    (∀ row col : Nat,
      let r := s.arrayReq (.accrd t.val row col) d.val (s.cluster s.myCl).mxIds
      r.dst = some d.val ∧ ((s.cluster s.myCl).mxIds ≠ [] → r.stage = .sent ∧ r.deps = (s.cluster s.myCl).mxIds) ∧
      ((s.cluster s.myCl).mxIds = [] → r.stage = .served ∧ r.result = ((s.cluster s.myCl).accWord t.val row col).toNat)) ∧
    (∀ (q : Req) (row col : Nat), s.reqs = [q] → q.op = .accrd t.val row col → q.stage = .sent → q.deps ≠ [] →
      ((s.arrayDone (q.deps.headD 0)).reqs = [if q.deps.all (fun x => x = q.deps.headD 0)
        then { q with deps := [], stage := .served, result := ((s.cluster (clOf q.cid)).accWord t.val row col).toNat }
        else { q with deps := q.deps.filter (fun x => x ≠ q.deps.headD 0) }])) ∧
    (∀ (w : Wb) (m token : Nat), w.act = .cpstream m token →
      ((s.wbAct w).core w.cid).stream? m = some ⟨token, w.slot, none, [], [], false⟩) ∧
    (∀ (w : Wb) (load : Bool) (va id : Nat), w.act = .mxarea load va id → (∀ r ∈ s.reqs, r.cid ≠ w.cid ∨ r.slot ≠ w.slot) →
      (s.thread w.cid w.slot).acquired = [] → s.holdsMx w.cid (((s.core w.cid).region).getD 0) = true →
      (s.cluster (clOf w.cid)).ready = [] → (s.cluster (clOf w.cid)).mxQ.length < 16 →
      ∃ c, ((s.wbAct w).cluster (clOf w.cid)).mxQ = (s.cluster (clOf w.cid)).mxQ ++ [c] ∧ c.id = id ∧ c.area = some (load, va) ∧
        c.cid = w.cid ∧ c.slot = w.slot ∧ (s.wbAct w).mem = s.mem)

/-- R265, R269 to R273: in the region that holds the tick array each command counts in `nmx` and enters the tick queue at
write-back; `TKFIRST` waits for the entries before it, those of its own thread that are on their way to the queue included, and gives the
indices of the first k outputs to rise, in ascending order of tick and index; `TKSTAT` reads the array at once; in any other region each stops with ILLEGAL_OPERAND and 0 in word 5. -/
def Obligations.TickInstructionsEnterTheTickQueue : Prop :=
  ∀ (d a b : Reg) (s : State),
    let v := s.operand a
    let w := s.operand b
    let enters (i : Instr) (op : TkOp) : Prop := Does i s
      ((({ s with nextId := s.nextId + 1 }).modMe (fun t => t.addOut s.nextId .mx)).withActs [.tick op s.nextId])
    let k := s.cluster s.myCl
    (s.holdsTk s.bun.cid s.rid = true → s.engRoom s.myCl 30 = true →
      (1 ≤ v.toNat → v.toNat ≤ 255 → enters (.tkwin a) (.win v.toNat)) ∧
      (w.toNat < 2 ^ 15 → w.toNat / 2 ^ 6 % 4 = 0 → 1 ≤ w.toNat / 2 ^ 8 → w.toNat % 2 ^ 6 + w.toNat / 2 ^ 8 ≤ 64 →
        s.tickAddr v (64 * (w.toNat / 2 ^ 8)) = true →
        enters (.tkload a b) (.load v.toNat (w.toNat % 2 ^ 6) (w.toNat / 2 ^ 8))) ∧
      (s.tickAddr v 64 = true → enters (.tklaunch a) (.launch v.toNat false) ∧
        enters (.tklaunchAnd a) (.launch v.toNat true) ∧ enters (.tkcapt a) (.capt v.toNat)) ∧
      enters .tkreset .reset) ∧
    (s.holdsTk s.bun.cid s.rid = true →
      (1 ≤ w.toNat → w.toNat ≤ 8 → Does (.tkfirst d b) s (s.addReq (s.arrayReq (.tkfirst w.toNat) d.val s.tickIds))) ∧
      Gives (.tkstat d) s d (wrap64 ((if k.andMode then 2 ^ 40 else 0) + k.win * 2 ^ 32 + k.rises.length * 2 ^ 24 +
        k.tkQ.length * 2 ^ 16 + (if k.tkRun = none then 0 else 1)))) ∧
    (s.holdsTk s.bun.cid s.rid = false → ∀ i ∈ ([.tkwin a, .tkload a b, .tklaunch a, .tklaunchAnd a, .tkcapt a, .tkreset,
        .tkfirst d b, .tkstat d] : List Instr), Issues i s → exec i s =
      .next (stopThread { s with bun := Bun.none } s.bun.cid s.bun.slot (flt5 fIllegalOperand 0) s.bun.addr)) ∧
    (∀ n : Nat, n ≤ 8 → (s.arrayReq (.tkfirst n) d.val []).stage = .served ∧
      ∃ l : List Nat, l.Perm ((List.range 64).filter (fun j => k.outTick j ≠ 255)) ∧
        l.Pairwise (fun i j => k.outTick i < k.outTick j ∨ (k.outTick i = k.outTick j ∧ i < j)) ∧
        ∀ i, i < 8 → (s.arrayReq (.tkfirst n) d.val []).result / 2 ^ (8 * i) % 256 = if i < n then l.getD i 255 else 255) ∧
    (∀ (q : Req) (n id : Nat), s.reqs = [q] → q.op = .tkfirst n → q.stage = .sent → q.deps = [id] → clOf q.cid = s.myCl →
      (s.arrayDone id).reqs = [{ q with deps := [], stage := .served, result := (s.arrayReq (.tkfirst n) d.val []).result }]) ∧
    (∀ (w : Wb) (op : TkOp) (id : Nat), w.act = .tick op id → (∀ r ∈ s.reqs, r.cid ≠ w.cid ∨ r.slot ≠ w.slot) →
      (s.thread w.cid w.slot).acquired = [] → (s.cluster (clOf w.cid)).tkBack = [] → (s.cluster (clOf w.cid)).tkQ.length < 16 →
      ∃ e, ((s.wbAct w).cluster (clOf w.cid)).tkQ = (s.cluster (clOf w.cid)).tkQ ++ [e] ∧ e.op = op ∧ e.id = id ∧ e.cid = w.cid ∧
        e.slot = w.slot ∧ (s.wbAct w).mem = s.mem)

/-! ### Event regions -/

/-- R140, R142, R148, R150, R151, R154, R160, R162, R149: the instructions of an event region, in their own states: `CHDECL`
declares the end at issue (log entry 130, DEDUCED), with its peer, lookahead, quantum or class from the operands and nothing told, and
sends its join flit; `SEND` sends a message with `p16` to `p23`, takes
one of the end's allowance and one number of its sequence; `RECV` writes the arrival it was given; `EVSTART` queues its start
event, whose record it reads as the core sees it, its own store buffer included (log entry 25, DEDUCED); `PROMISE` raises K at
issue (log entry 130, DEDUCED); `FLOOR` gives the floor and asks for a sweep; at write-back `RECV` moves the tile-task `now`, `HDLSET`
sets its end's handler, `CHCLOSE` closes the end, telling ENDT on an outbound one and returning what is queued on an inbound one, and
`EVDONE` detaches the tile task. -/
def Obligations.EventInstructionsMoveMessagesAndTime : Prop :=
  ∀ (d a b : Reg) (out : Bool) (n : Fin 16) (s : State) (r : Region),
    let c := s.bun.cid
    let v := (s.operand a).toNat
    s.regionOf c = some r → r.kind = .event →
    (let m := (s.operand b).toNat;
      s.me.handler = false → n.val < r.field 13 →
      (out = true → (s.myCore.outEnd? n.val).isNone = true) → (out = false → (s.myCore.inEnd? n.val).isNone = true) →
      v < 2 ^ 32 → m / 2 ^ 50 % 2 ^ 6 = 0 → coordOk (m / 2 ^ 24 % 2 ^ 26) = true → (out = true → m % 2 ^ 24 ≠ 0) →
      (v ≠ 0 ∨ r.lockstep = true) → Issues (.chdecl a b out n) s → ∃ t f, exec (.chdecl a b out n) s = .next t ∧
        t.flits = s.flits ++ [f] ∧ f.kind = .join ∧ f.dst = m / 2 ^ 24 % 2 ^ 26 ∧ f.didx = m / 2 ^ 56 % 2 ^ 4 ∧ f.src = s.coord c ∧
        f.sidx = n.val ∧ f.rid = r.id ∧ f.ts = v ∧ f.payload = [if out then 1 else 0] ∧
        (out = true → (t.core c).outEnd? n.val = some
          { look := v, quantum := m % 2 ^ 24, peer := m / 2 ^ 24 % 2 ^ 26, pidx := m / 2 ^ 56 % 2 ^ 4, told := 0, floorK := 0,
            hunger := false, joined := false, closed := false, allow := 8, seq := 0, unret := [] }) ∧
        (out = false → ∃ e, (t.core c).inEnd? n.val = some e ∧ e.peer = m / 2 ^ 24 % 2 ^ 26 ∧ e.pidx = m / 2 ^ 56 % 2 ^ 4 ∧
          e.cls = m / 2 ^ 60 ∧ e.promise = 0 ∧ e.joined = false ∧ e.closed = false ∧ e.handler = 0 ∧ e.queue = [] ∧ e.starts = [])) ∧
    (∀ e, s.myCore.outEnd? n.val = some e → s.detached = false → e.closed = false → e.joined = true → 0 < e.allow →
      tsAdd (s.nowOf c s.bun.slot) e.look ≤ v → e.floorK ≤ v → e.told ≤ v → v < 2 ^ 64 - 1 →
      s.acquiring c s.bun.slot s.nextId = false → Issues (.send a n) s → ∃ t f, exec (.send a n) s = .next t ∧
        t.flits = s.flits ++ [f] ∧ f.kind = .msg ∧ f.dst = e.peer ∧ f.didx = e.pidx ∧ f.seq = e.seq ∧ f.ts = v ∧
        f.payload = (List.range 8).map (fun k => s.reg c s.bun.slot (16 + k)) ∧
        (t.core c).outEnd? n.val = some { e with allow := e.allow - 1, seq := (e.seq + 1) % 2 ^ 16, told := v, hunger := false,
                                                 unret := e.unret ++ [(e.seq, v)] }) ∧
    (∀ j q, s.bun.slot = 0 → s.me.handler = false → s.myCore.attached = true → s.me.gift = some (j, q) →
      Does (.recv d) s ((s.modMe (fun t => { t with gift := none })).withActs
        ((List.range 8).map (fun k => WbAct.gpr (16 + k) (q.payload.getD k 0)) ++ [.gpr 24 (wrap64 q.sender), .gpr 25 (wrap64 j)] ++
          s.dest d.val (wrap64 q.ts) ++ [.recv j q]))) ∧
    (∀ e, s.me.handler = false → s.myCore.inEnd? n.val = some e → e.closed = false →
      Acts (.hdlset a n) s [.hdlset n.val (s.operand a)]) ∧
    (∀ e, s.myCore.outEnd? n.val = some e → e.closed = false →
      Does (.promise a n) s (s.setOut c n.val { e with floorK := max e.floorK v })) ∧
    Does (.floor d) s ((s.modRegion r.id (fun r => { r with sweepDue := true })).withActs (s.dest d.val (wrap64 r.floor))) ∧
    ((s.myCore.outEnd? n.val).isSome = true → Acts (.chclose true n) s [.chclose true n.val]) ∧
    ((s.myCore.inEnd? n.val).isSome = true → Acts (.chclose false n) s [.chclose false n.val]) ∧
    ((s.me.handler = true ∨ s.bun.slot = 0) → Acts .evdone s [.evdone]) ∧
    (∀ e, s.me.handler = false → s.myCore.attached = true → startInHome c v = true → s.poisoned (scratchKey s.myCl v) 80 = none →
      let at' (k : Nat) : Nat := s.seenDw c (scratchKey s.myCl v + 8 * k)
      at' 1 < 16 → s.myCore.inEnd? (at' 1) = some e → e.closed = false → at' 0 < 2 ^ 64 - 1 → s.myCore.tileNow ≤ at' 0 →
      let payload := (List.range 8).map (fun k => wrap64 (at' (2 + k)))
      let arr : Arrival := ⟨at' 0, true, 0, payload, s.coord c, 0, false⟩
      e.starts.length < 8 → Does (.evstart a) s ((s.setIn c (at' 1) { e with starts := e.starts ++ [arr] }).tileFlits c)) ∧
    (∀ w : Wb,
      let y := s.core w.cid
      let t := s.wbAct w
      (∀ j q, w.act = .recv j q → y.attached = true → (t.core w.cid).tileNow = q.ts) ∧
      (∀ i h e, w.act = .hdlset i h → y.inEnd? i = some e → (t.core w.cid).inEnd? i = some { e with handler := h }) ∧
      (w.act = .evdone → (s.thread w.cid w.slot).handler = false → (t.core w.cid).attached = false ∧ t.mem = s.mem) ∧
      (∀ i e, w.act = .chclose true i → y.outEnd? i = some e → e.closed = false → ∃ e', (t.core w.cid).outEnd? i = some e' ∧
        e'.closed = true ∧ (e.joined = true → e.look ≠ 0 → e'.told = 2 ^ 64 - 1 ∧ ∃ f, t.flits = s.flits ++ [f] ∧ f.kind = .promise ∧
          f.dst = e.peer ∧ f.didx = e.pidx ∧ f.seq = e.seq ∧ f.ts = 2 ^ 64 - 1)) ∧
      (∀ i e, w.act = .chclose false i → y.inEnd? i = some e → e.closed = false → ∃ e' l f, (t.core w.cid).inEnd? i = some e' ∧
        e'.closed = true ∧ e'.queue = [] ∧ e'.starts = [] ∧ t.flits = s.flits ++ l ++ [f] ∧ f.kind = .close ∧ f.dst = e.peer ∧
        f.didx = e.pidx ∧ l.map (fun g => (g.kind, g.dst, g.didx, g.seq)) = e.queue.map (fun q => (FlitKind.ret, e.peer, e.pidx, q.seq))))

/-! ### Tasks, launches, tournaments -/

/-- R291 to R294, R296: `SPAWN` keeps its continuation for the deque and goes to the child, and its write-back puts it at the
young end with `p24` to `p31`; `SYNC` decides at write-back: with no child open the frame goes, and with children open the frame keeps the
continuation and the slot becomes empty;
`TASKEND` of a thread with children open waits for them, of one with neither children nor parent ends, and with its parent's
continuation still in the core's deque or its spill area goes on with it; where that was stolen, the last child to end resumes the waiting
continuation and any other ends; `QCFG` configures or removes a queue register at write-back. The parts of the spill area that each of them
writes or reads are in reach (log entry 110, DEDUCED). -/
def Obligations.ForkJoinTasksSpawnSyncAndEnd : Prop :=
  ∀ (off : BitVec 24) (a : Reg) (k : Fin 4) (s : State) (r : Region),
    let c := s.bun.cid
    let v := (s.operand a).toNat
    let pending := ((s.me.frame.bind (fun f => Table.find r.frames f)).map (·.pending)).getD 0
    let reach (entries places : List Nat) : Prop := s.spillCut r (dieOf c) s.myCore entries places = none
    (s.regionOf c = some r → r.kind = .forkjoin →
      (s.myCore.deque.length + s.spawning c < r.dequeCap → reach (s.overflows c) [] → Issues (.spawn off) s →
        ∃ t f, exec (.spawn off) s = .next t ∧ f = s.me.frame.getD s.frameTag ∧
          t.wbs = s.wbs ++ [⟨s.cyc + 4, c, s.bun.slot, s.nextId, s.bun.addr, s.me.icnt, .spawn s.bun.npc f s.me.parent⟩] ∧
          (t.thread c s.bun.slot).parent = some f ∧ (t.thread c s.bun.slot).frame = none ∧
          (t.thread c s.bun.slot).pc = s.bun.addr + off.signExtend 64 * 4) ∧
      (reach [] (s.recordAt s.me.frame) → Acts .sync s [.sync s.bun.npc]) ∧
      (0 < pending → Issues .taskend s → exec .taskend s = .next (s.jumped .taskend [.sync s.bun.addr] s.bun.addr)) ∧
      (pending = 0 → s.me.parent = none → Acts .taskend s [.exit]) ∧
      (∀ p e, pending = 0 → s.me.parent = some p → (s.fullDeque c).find? (fun x => x.frame = some p) = some e →
        s.myCore.dequeFrozen = false → s.spillFault r s.myCore ((s.fullDeque c).idxOf e) = none →
        reach (s.myCore.spillGone ((s.fullDeque c).idxOf e)) [] → Issues .taskend s → ∃ t, exec .taskend s = .next t ∧
          (t.thread c s.bun.slot).pc = e.pc ∧ (t.thread c s.bun.slot).frame = some p ∧
          (t.thread c s.bun.slot).parent = e.parent ∧ (t.core c).deque = (s.fullDeque c).erase e) ∧
      (∀ p fr, pending = 0 → s.me.parent = some p → (s.fullDeque c).find? (fun x => x.frame = some p) = none →
        Table.find r.frames p = some fr → s.releaseReady (commonScope c fr.core) = true → reach [] [fr.place] →
        ((fr.saved = none ∨ 2 ≤ fr.pending) → Does .taskend s (((s.widenPins c s.bun.slot (commonScope c fr.core)).setFrame s.rid p
          { fr with pending := fr.pending - 1 }).withActs [if s.bun.slot = 0 then .exit else .treap s.bun.slot])) ∧
        (∀ e, fr.saved = some e → fr.pending = 1 → Issues .taskend s → ∃ t, exec .taskend s = .next t ∧
          (t.thread c s.bun.slot).pc = e.pc ∧ (t.thread c s.bun.slot).frame = e.frame ∧
          (t.thread c s.bun.slot).parent = e.parent))) ∧
    (v < 2 ^ 9 → v / 2 ^ 5 % 8 = 0 → v % 2 ^ 5 ≤ 16 →
      (v % 2 ^ 5 = 0 ∨ (s.myCore.queue? k.val = none ∧ s.configuring c k.val = false)) →
      Acts (.qcfg a k) s [.qcfg k.val (s.operand a)]) ∧
    (∀ w : Wb,
      let y := s.core w.cid
      let x := s.thread w.cid w.slot
      let t := s.wbAct w
      (∀ pc f p, w.act = .spawn pc f p → (t.core w.cid).deque = ⟨pc, (List.range 8).map (fun j => s.reg w.cid w.slot (24 + j)), some f, p⟩ ::
        s.fullDeque w.cid) ∧
      (∀ pc rid f g fr, w.act = .sync pc → x.runs = true → (∀ q ∈ s.reqs, q.cid ≠ w.cid ∨ q.slot ≠ w.slot) → y.region = some rid →
        x.frame = some f → s.region? rid = some g → Table.find g.frames f = some fr →
        (fr.pending = 0 → (t.region? rid).map (·.frames) = some (Table.erase g.frames f) ∧ t.thread w.cid w.slot = x) ∧
        (0 < fr.pending → w.slot ≠ 0 → y.foremanGone = false → g.pagers = [] →
          (t.region? rid).map (fun h => Table.find h.frames f) = some (some { fr with
            saved := some (⟨pc, (List.range 8).map (fun j => s.reg w.cid w.slot (24 + j)), some f, x.parent⟩ : DeqEntry) }) ∧
          t.thread w.cid w.slot = Thread.fresh)) ∧
      (∀ j v, w.act = .qcfg j v → v.toNat % 32 ≠ 0 →
        (t.core w.cid).queue? j = some ⟨v.toNat % 32, decide (v.toNat / 2 ^ 8 % 2 = 1), false, []⟩) ∧
      (∀ j v, w.act = .qcfg j v → v.toNat % 32 = 0 → Table.sorted y.queues = true →
        (∀ g, s.regionOf w.cid = some g → ∀ p ∈ g.pagers, p.cid ≠ w.cid ∨ p.q ≠ j) → (t.core w.cid).queue? j = none))

/-- R288, R289: `LAUNCH` waits in the port as a release (that its thread issues nothing until it has read its records and block is
log entry 104), and its acceptance queues the region: the fields given in the block or else the parent's, the teams waiting or, where
their record has no task, retired, and the block in memory with the effective values, every mask bit, the parent and the status; `RWAIT`
on a child, with nothing before it to wait for and with the two doublewords that it reads in reach (log entry 110), goes on once its
status is 4 or 5, and parks until then; either way it has read the lines of its page walk and of the block. R311 to R314: the tournament
instructions act at write-back, where `TSCORE` sets the entrant's score, `TROUND` ends its round and waits at the barrier, `TGROW` gives
the descriptor word and starts a held core, and `TRANK` gives a standing; they stop with ILLEGAL_OPERAND outside a tournament. -/
def Obligations.LaunchesAndTournamentInstructions : Prop :=
  ∀ (d a b : Reg) (s : State) (r : Region),
    let va := (s.operand a).toNat
    let n := (s.operand b).toNat
    s.regionOf s.bun.cid = some r →
    (n ≤ 65535 → va % 32 = 0 → (n = 0 → va % 256 = 0) → va < 2 ^ 57 →
      Does (.launch a b) s (walk (s.enter [.launch a b]) { s.newReq (.launch n) ⟨.global, s.myCl, va, s.operand a⟩ 0 [⟨va, 0, 8, 0, 0, false⟩] with
        cls := some .st, ord := .rel .sys })) ∧
    (∀ id q p c ds recs g, canLaunch s id = true → s.req? id = some q → q.pieces = [p] → s.launchAns q p = .go c ds recs →
      s.region? q.rid = some g →
      (∀ i, i < 32 → ds.getD i 0 = s.dw (s.fwd (c.blockPa + 8 * i))) ∧ c.parent = g.block ∧ kindOf (ds.getD 0 0 % 8) = some c.kind ∧
      (∀ k, q.op = .launch k → k ≠ 0 → c.field 12 = k % 2 ^ 64) ∧
      (∀ f ∈ fieldSpecs, f.bit ≠ 12 → c.field f.bit =
        if ds.getD 1 0 / 2 ^ f.bit % 2 = 1 then ds.getD f.dw 0 / 2 ^ f.lo % 2 ^ f.width else g.field f.bit) ∧
      ∃ t h, exec (.sliceAccessPerform id 0) s = .next t ∧ t.region? c.id = some h ∧ t.acceptNo = s.acceptNo + 1 ∧
        t.host.locked = true ∧ h.state = 1 ∧ h.kind = c.kind ∧ h.fields = c.fields ∧ h.blockPa = c.blockPa ∧ h.order = s.acceptNo ∧
        (∀ i rec, recs[i]? = some rec → Table.find h.records i = some rec) ∧
        h.retired = ((List.range c.nTeams).filter (fun i => i < recs.length ∧ ((recs.getD i []).getD 1 0).toNat % 2 ^ 16 = 0)).length ∧
        (∀ i, i < c.nTeams → Table.find h.teams i = some { Team.fresh with
          st := if i < recs.length ∧ ((recs.getD i []).getD 1 0).toNat % 2 ^ 16 = 0 then .retired else .waiting }) ∧
        (c.field 25 = 0 → s.host.mig = none → s.homeQ = [] → (∀ e ∈ s.clusters, e.2.copies = []) → (∀ e ∈ s.cores, e.2.pins = []) →
          s.wfMem → t.dw (c.blockPa + 8) = 2 ^ 45 - 1 ∧ t.dw (c.blockPa + 16) = g.block % 2 ^ 64 ∧
            t.dw (c.blockPa + 136) = h.retired % 2 ^ 16 * 2 ^ 48 + 1 ∧
            ∀ i, i < 32 → t.dw (c.blockPa + 8 * i) = (effBlock h ds).getD i 0 % 2 ^ 64)) ∧
    (∀ pa leaf bits, va < 2 ^ 57 → va % 256 = 0 → s.acquireWaits s.bun.cid s.bun.slot va 256 = false →
      s.translate r (dieOf s.bun.cid) va false false = .pa pa leaf bits → s.dw (s.fwd (pa + 16)) % 2 ^ 57 = r.block →
      s.readsMeet s.bun.cid s.bun.slot [(va + 16, s.fwd (pa + 16), 8), (va + 136, s.fwd (pa + 136), 8)] = .go →
      let st := s.dw (s.fwd (pa + 136)) % 16
      let seen (u : State) : State := (s.walkTo s.bun.cid va ++ [lineOf (s.fwd (pa + 16)), lineOf (s.fwd (pa + 136))]).foldl
        (fun u l => u.lineSeen l s.bun.cid) u
      ((st = 4 ∨ st = 5) → Does (.rwait a) s (seen s)) ∧
      (¬ (st = 4 ∨ st = 5) → Issues (.rwait a) s →
        exec (.rwait a) s = .next (parkThread (seen { s with bun := Bun.none }) s.bun.cid s.bun.slot 0))) ∧
    (∀ (w : Wb) (g : Region),
      let e := (s.core w.cid).entrant
      let t := s.wbAct w
      s.regionOf w.cid = some g →
      (∀ v, w.act = .tscore v → (t.region? g.id).map (fun h => ((h.entrant e).score, (h.entrant e).scored)) =
        some (v, (g.entrant e).scored || decide (g.round < g.field 29))) ∧
      (w.act = .tround → (s.thread w.cid w.slot).runs = true → g.kind = .tournament → g.round < g.field 29 →
        (Table.find g.entrants e).isSome = true → s.region? g.id = some g →
        (t.region? g.id).map (fun h => (h.entrant e).roundOver) = some true ∧
        ((s.thread w.cid w.slot).state = .ready → t.thread w.cid w.slot =
          { s.thread w.cid w.slot with state := .parked, reason := 3, barrier := true })) ∧
      (∀ k, w.act = .tgrow k →
        let held := (s.entrantCores g.id e).filter (fun c => (s.core c).held)
        let v := g.round % 2 ^ 8 * 2 ^ 50 + (g.entrant e).source % 2 ^ 8 * 2 ^ 42 + (s.entrantCores g.id e).length % 2 ^ 10 * 2 ^ 32 +
          (g.entrant e).growths % 2 ^ 5
        (held = [] → t = { s with wbs := s.wbs ++ [{ w with act := s.deliver w.cid k (wrap64 v) }] }) ∧
        (∀ c, held = [c] → g.field 43 = 0 → s.region? g.id = some g → (t.core c).held = false ∧
          (t.thread c 0).state = .ready ∧ (t.thread c 0).pc = g.entry ∧
          t.wbs = s.wbs ++ [{ w with act := s.deliver w.cid k (wrap64 (v + 2 ^ 63)) }])) ∧
      (∀ k i, w.act = .trank k i → t = { s with wbs := s.wbs ++ [{ w with act := s.deliver w.cid k (wrap64
        ((if (g.entrant i).live then 2 ^ 63 else 0) + (if (g.entrant i).scored then 2 ^ 62 else 0) +
          (g.entrant i).ranked % 2 ^ 8 * 2 ^ 48 + (g.entrant i).rank % 2 ^ 8)) }] })) ∧
    (r.kind = .tournament → Acts (.tscore a) s [.tscore (s.operand a)] ∧ Acts .tround s [.tround] ∧
      Acts (.tgrow d) s [.tgrow d.val] ∧ (n < r.nTeams → Acts (.trank d b) s [.trank d.val n])) ∧
    (r.kind ≠ .tournament → ∀ i ∈ ([.tscore a, .tround, .tgrow d, .trank d b] : List Instr), Issues i s → exec i s =
      .next (stopThread { s with bun := Bun.none } s.bun.cid s.bun.slot notHere s.bun.addr))

/-! ### Records, thaws, contexts, pagers -/

/-- R329, R330: `FRECRD` of a well-formed selector reads its word when it returns, as an acquire (log entry 26, DEDUCED): the word of an
occupied mailbox slot, which `consume` then frees, the word of a faulted engine command's record, or 0; `QTHAW` of a core to which a path
is up (log entry 136) thaws at write-back. R194, R195: `PGREG` adds a registration of free pages served by a configured queue, at issue
(log entry 27, DEDUCED), and `PGFILL` of a page of the thread's own sends its request. R337, R338: `ERET` ends the service routine,
`CTXLOAD` sets a core from a valid image in reach (over what a save kept of it, log entry 30) and makes its withdrawn requests again, one in
long mode once it has `w` registers, and `CTXSAVE` of a drained and settled core that is being saved closes its pairs that have nothing
outstanding (R178), writes the image to its page and empties its slots; of the image are stated the header, `s`, `y` and the slots' state
and registers, whose word order is log entry 30 (DESIGN CHOICE). -/
def Obligations.RecordThawPagerAndContextInstructions : Prop :=
  ∀ (d a b : Reg) (w : Fin 8) (s : State),
    let c := s.bun.cid
    let va := (s.operand a).toNat
    let vb := (s.operand b).toNat
    let target := thawCore (s.operand a)
    (vb / 2 ^ 32 % 2 ^ 29 = 0 → (vb / 2 ^ 62 = 0 → vb % 2 ^ 32 ≤ 15) → (vb / 2 ^ 62 ≠ 0 → vb / 2 ^ 61 % 2 = 0) →
      Does (.frecrd d b w) s (s.addReq { s.newReq (.frecrd (s.operand b) w.val) ⟨.none, s.myCl, 0, 0⟩ 0 [] with
        dst := some d.val, cls := some .ld, ord := .acq .sys })) ∧
    (va < 2 ^ 34 → va / 2 ^ 26 % 2 ^ 6 = 0 → coordPkg (va % 2 ^ 26) = s.host.pkgId → coordOk (va % 2 ^ 26) = true →
      (s.core target).region = some s.rid → ((s.core target).queue? (va / 2 ^ 32)).isSome = true →
      s.clustersLinked s.myCl (clOf target) = true →
      Acts (.qthaw a) s [.qthaw target false (va / 2 ^ 32)]) ∧
    (va / 2 ^ 34 = 2 ^ 29 → va / 2 ^ 26 % 2 ^ 8 = 0 → coordPkg (va % 2 ^ 26) = s.host.pkgId → coordOk (va % 2 ^ 26) = true →
      (s.core target).region = some s.rid → s.clustersLinked s.myCl (clOf target) = true →
      Acts (.qthaw a) s [.qthaw target true 0]) ∧
    (∀ r, s.regionOf c = some r → va < 2 ^ 57 → va / 4 % 2 ^ 14 = 0 → vb < 2 ^ 57 → vb / 4 % 2 ^ 14 = 0 → vb % 4 ≠ 3 →
      1 ≤ vb / 2 ^ 16 → va / 2 ^ 16 + vb / 2 ^ 16 ≤ 2 ^ 41 → r.pagers.any (pagesMeet (va / 2 ^ 16) (vb / 2 ^ 16)) = false →
      r.pagers.length < 8 → (s.myCore.queue? (va % 4)).isSome = true → Does (.pgreg a b) s (s.setRegion r.id { r with
        pagers := r.pagers ++ [⟨c, s.bun.slot, va / 2 ^ 16, vb / 2 ^ 16, vb % 2 = 1, vb / 2 % 2 = 1, va % 4⟩] })) ∧
    (∀ r, s.regionOf c = some r → va % 65536 = 0 → vb % 65536 = 0 → vb < 2 ^ 57 →
      r.pagers.any (fun p => p.cid = c && p.slot = s.bun.slot && p.base ≤ va / 65536 && va / 65536 < p.base + p.pages) = true →
      Does (.pgfill a b) s (s.addReq { s.newReq (.pgfill vb) ⟨.none, s.myCl, va, s.operand a⟩ 0 [⟨va, 0, 0, 0, 0, false⟩] with
        cls := some .st })) ∧
    Does .eret s (endService s s.myCl) ∧
    (∀ r, let x := ctxCore s.myCl (s.operand a)
      s.regionOf x = some r → va / 16 % 2 ^ 8 = 0 → (∀ k, k < 16 → (s.thread x k).state = .empty) →
      s.rangeClear r (dieOf x) (ctxVa (s.operand a)) imageBytes = true →
      imgFault s r (dieOf x) (ctxVa (s.operand a)) imageBytes = none → imageValid s r (dieOf x) (ctxVa (s.operand a)) = true →
      (imgLong s r (dieOf x) (ctxVa (s.operand a)) = true → s.longRoom x = true) →
      let sv := (((s.team? r.id (s.core x).team).map (·.saved)).bind (fun l => l.find? (fun y => y.cid = x))).getD (s.savedCore x)
      let s0 := s.vaSeen r (dieOf x) (ctxVa (s.operand a)) imageBytes
      let u := (((s0.loadSaved r (dieOf x) (ctxVa (s.operand a)) sv).resendImage r (dieOf x) (ctxVa (s.operand a))
        sv).readsBehind [x]).modeAsked
      let dw (o : Nat) : Nat := (s.dwVa r (dieOf x) (ctxVa (s.operand a) + o)).getD 0
      Does (.ctxload a) s u ∧
      (u.core x).team = dw 16 ∧ (u.core x).pos = dw 24 ∧ (u.core x).long = decide (dw 32 % 2 = 1) ∧
      (∀ i, i < 32 → Table.get 0 (u.core x).regs i = wrap64 (dw (0x100 + 8 * i)) ∧
        ∀ j, j < 4 → (Table.get (0 : SVec) (u.core x).yregs i).toNat / 2 ^ (64 * j) % 2 ^ 64 = dw (0x200 + 32 * i + 8 * j)) ∧
      (∀ k, k < 16 →
        let at' (o : Nat) : Nat := dw (0x5000 + 2048 * k + o)
        let t := u.thread x k
        (at' 8 % 8 = 0 → t = Thread.fresh) ∧
        (at' 8 % 8 ≠ 0 → t.state = TState.ofCode (at' 8 % 8) ∧ t.pc = wrap64 (at' 0) ∧ t.icnt = at' 16 ∧ t.allow = wrap64 (at' 24) ∧
          (∀ i, 1 ≤ i → i < 32 → Table.get 0 t.regs i = wrap64 (at' (256 + 8 * i))) ∧
          (∀ i, i < 8 → Table.get SegReg.zero t.segs i = ⟨wrap64 (at' (512 + 16 * i)), wrap64 (at' (520 + 16 * i))⟩) ∧
          (∀ i j, i < 32 → j < 4 → (Table.get (0 : SVec) t.vregs i).toNat / 2 ^ (64 * j) % 2 ^ 64 = at' (1024 + 32 * i + 8 * j))))) ∧
    (∀ r pa, let x := ctxCore s.myCl (s.operand a)
      let y := ctxVa (s.operand a)
      let shut := (s.core x).streamTab.filter (fun e => e.outst = 0)
      s.regionOf x = some r → s.bun.slot < 16 → va / 16 % 2 ^ 8 = 0 → (s.core x).away = true → s.drained x = true →
      s.settled r.id s.myCl [x] = true → s.rangeClear r (dieOf x) y imageBytes = true →
      s.host.mig = none → s.homeQ = [] → s.wfMem → (∀ e ∈ s.clusters, e.2.copies = []) →
      (∀ l, pa / 128 ≤ l → l ≤ (pa + imageBytes - 1) / 128 → s.pinOf l = none) →
      (∀ u : State, u.host = s.host → (∀ k, (k < pa ∨ pa + imageBytes ≤ k) → u.byte k = s.byte k) →
        ∀ o, o < imageBytes → ∃ l b, u.translate r (dieOf x) (y + o) true false = .pa (pa + o) l b) →
      Issues (.ctxsave a) s → ∃ t, exec (.ctxsave a) s = .next t ∧ (∀ k, k < 16 → (t.thread x k).state = .empty) ∧
        t.closeFlits = s.closeFlits ++ shut.map (fun e => (x, e.stream, e.dest)) ∧
        (t.core x).streamTab = (s.core x).streamTab.filter (fun e => e.outst ≠ 0) ∧
        (∀ k, (k < pa ∨ pa + imageBytes ≤ k) → t.byte k = s.byte k) ∧
        (∀ o, 8 * o < imageBytes → t.dw (pa + 8 * o) = imageWord r (s.shutPairs x |>.savedCore x) (8 * o) % 2 ^ 64)) ∧
    (∀ (r : Region) (sv : SavedCore),
      let word := imageWord r sv
      (∀ i, i < 5 → word (8 * i) = [r.block, r.id, sv.core.team, sv.core.pos, if sv.core.long then 1 else 0].getD i 0) ∧
      (∀ i j, i < 32 → j < 4 → word (0x100 + 8 * i) = (Table.get (0 : Word) sv.core.regs i).toNat ∧
        word (0x200 + 32 * i + 8 * j) = (Table.get (0 : SVec) sv.core.yregs i).toNat / 2 ^ (64 * j) % 2 ^ 64) ∧
      (∀ k, k < 16 →
        let t := Table.get Thread.fresh sv.threads k
        let at' (o : Nat) : Nat := word (0x5000 + 2048 * k + o)
        at' 0 = t.pc.toNat ∧ at' 8 % 8 = t.state.code' ∧ at' 16 = t.icnt % 2 ^ 64 ∧ at' 24 = t.allow.toNat ∧
        (∀ i, i < 32 → at' (256 + 8 * i) = (Table.get (0 : Word) t.regs i).toNat) ∧
        (∀ i, i < 8 → at' (512 + 16 * i) = (Table.get SegReg.zero t.segs i).base.toNat ∧
          at' (520 + 16 * i) = (Table.get SegReg.zero t.segs i).lr.toNat) ∧
        (∀ i j, i < 32 → j < 4 → at' (1024 + 32 * i + 8 * j) = (Table.get (0 : SVec) t.vregs i).toNat / 2 ^ (64 * j) % 2 ^ 64))) ∧
    (∀ (q : Req) (sel : Word) (i : Nat) (g : Region),
      let n := sel.toNat
      q.op = .frecrd sel i → s.req? q.id = some q → canLateResult s q.id = true → s.mailMeet q = .go → q.dropped = false →
      q.vdst = none → s.region? q.rid = some g →
      let v := if n / 2 ^ 62 = 0 then
          if g.mail.contains (n % 16) then (s.dwVa g 0 (g.field 24 + 64 * (n % 16) + 8 * i)).getD 0 else 0
        else match (s.core q.cid).statusOf (n / 2 ^ 62 - 1) (n % 2 ^ 32) with
          | some e => if e.status = .faulted then (e.record.getD i 0).toNat else 0
          | none => 0
      ∃ t, exec (.lateResultWriteback q.id) s = .next t ∧
        (t.wbs.getLast?).map (fun w => (w.due, w.cid, w.slot, w.act)) =
          some (s.cyc, q.cid, q.slot, .load (q.dst.getD 0) (wrap64 v) q.id) ∧
        (n / 2 ^ 62 = 0 → g.mail.contains (n % 16) = true → (t.region? q.rid).map (·.mail) =
          some (if n / 2 ^ 61 % 2 = 1 then g.mail.filter (fun m => m ≠ n % 16) else g.mail))) ∧
    (∀ (w : Wb) (x k : Nat),
      let t := s.wbAct w
      (w.act = .qthaw x true k → (s.core x).region = some (((s.core w.cid).region).getD 0) → (t.core x).dequeFrozen = false) ∧
      (w.act = .qthaw x false k → (t.core x).queue? k = ((s.core x).queue? k).map (fun q => { q with frozen := false })))

/-! ### The memory port's own steps -/

/-- R73, R126, R134, R173, R175, R209, R220, R322, R335, R341: a buffered store is sent, oldest first; a refused request whose
64 cycles have passed is sent again, by the step of its kind; a store whose packet was poisoned goes back to its buffer entry; a
served result is written in this cycle's write-back, and a served store without a stream completes, each whatever has become of its path
(log entry 99, DESIGN CHOICE); a refusal that arrives stops the thread. -/
def Obligations.PortRequestsAreSentAnsweredAndRefused : Prop :=
  ∀ (id c : Nat) (s : State) (r : Req),
    s.req? id = some r →
    (∀ cid, s.oldestUnsent cid = some r → exec (.storeBufferSend cid) s = .next (s.setReq { r with stage := .sent })) ∧
    (r.stage = .refused c → c ≤ s.cyc →
      (r.scratchy = true → r.op.isSync = true → exec (.feRequestResend id) s = .next (s.setReq { r with stage := .sent })) ∧
      (r.scratchy = false → r.afTag = none → exec (.pinnedAccessResend id) s = .next (s.setReq { r with stage := .sent })) ∧
      (r.isOpenStore s = true → exec (.openStoreResend id) s = .next (s.setReq { r with stage := .sent })) ∧
      (s.displacedKind r = true → exec (.displacedRequestResend id) s = .next (s.setReq { r with stage := .sent })) ∧
      (r.afTag.isSome = true → exec (.afaddResend id) s = .next (s.setReq { r with stage := .sent }))) ∧
    (r.stage = .sent → r.buffered = true →
      exec (.poisonedPacketResend id) s = .next (s.setReq { r with stage := .unsent })) ∧
    (r.stage = .served → (r.op.isLoad = true ∨ r.op.isAtomic = true) → r.op.late = true → r.dropped = false → r.vdst = none →
      ∃ t, exec (.lateResultWriteback id) s = .next t ∧
        t.wbs = s.wbs ++ [⟨s.cyc, r.cid, r.slot, id, r.bundle, r.icnt, .load (r.dst.getD 0) r.value id⟩] ∧
        t.req? id = some { r with stage := .writing } ∧ t.mem = s.mem) ∧
    (r.stage = .served → r.op.late = false → r.op.isRst = none → r.nulled = false →
      exec (.storeAcknowledge id) s = .next (s.endReq r)) ∧
    (∀ code detail p, r.stage = .bounced code detail → r.pieces.find? (fun p => !p.done) = some p →
      exec (.remoteRefusalArrival id) s = .next (s.failReq r ⟨code, r.eaOf s p, 0, wrap64 detail⟩))

/-- R191, R192, R194: the end of a page walk makes the thread eligible and lets the access go its way with its translated
addresses, once no engine owns a line that the walk reads and no pin keeps the thread from one (R366) and every one of them is in
reach; on a missing page it drops the thread, whose needed rights the upcall names; a waking message makes a dropped
thread ready; a held upcall is pushed into its pager's queue once that has room. -/
def Obligations.PageWalksEndAndThreadsWake : Prop :=
  (∀ (id : Nat) (s : State) (r : Req) (g : Region), s.req? id = some r → r.stage = .walking → s.region? r.rid = some g →
    (r.op.isLoad = true ∨ r.op = .store ∨ r.op.isAtomic = true) → r.afTag = none → s.walkDown g r = none → s.walkClear g r = true →
    (∀ ps nc used, xlate r.rid (fun va => s.translate g (dieOf r.cid) va r.op.needsW false) r.pieces = .ok ps nc used →
      ∃ t, exec (.pageWalkEnd id) s = .next t ∧ (t.thread r.cid r.slot).walking = false ∧
        (t.thread r.cid r.slot).reissue = none ∧
        t.req? id = some { r with pieces := replicate r used ps, nc := nc, stage := if r.buffered then .unsent else .sent }) ∧
    (∀ va, xlate r.rid (fun va => s.translate g (dieOf r.cid) va r.op.needsW false) r.pieces = .missing va →
      s.liveReq r = true →
      exec (.pageWalkEnd id) s = .next (((s.walkRecalls g r).endReq r).dropThread r.rid r.cid r.slot va r.op.dropBits r.bundle r.icnt))) ∧
  (∀ (cid slot : Nat) (s : State), (s.thread cid slot).state = .dropped → (s.thread cid slot).woken = true →
    exec (.wakeMessage cid slot) s =
      .next (s.setThread cid slot { s.thread cid slot with state := .ready, woken := false })) ∧
  (∀ (rid page : Nat) (s : State) (r : Region) (u : Upcall) (p : Pager) (q : QReg), s.region? rid = some r →
    r.upcalls = [u] → u.page = page → u.pushed = false → r.pagerFor (page * 65536) = some p → (s.core p.cid).region = some rid →
    (s.core p.cid).queues = [(p.q, q)] → s.queueRoom p.cid p.q = true →
    ∃ t, exec (.heldUpcallPush rid page) s = .next t ∧
      (t.core p.cid).queues = [(p.q, { q with elems := q.elems ++ [wrap64 (2 ^ 63 + page % 2 ^ 41 * 2 ^ 16 + u.bits)] })])

/-- R115, R128 to R133, R197, R202, R204, R205: an access performed at its home slice or its bank. A store writes exactly its
bytes; a load takes the bytes as they stand and leaves memory unchanged; an atomic takes the old value and writes the new one
of its operation. At a bank `LDS` takes a full word and empties it, `LDF` takes it and leaves it full, `STS` fills an empty word, `STF` any
word, `FESET` and `FECLR` set the bit alone and `FEQ` reads it; one that cannot proceed takes an entry of the park table, or, at its thread's
own home bank, waits without one (R130); the other words' bits stay. -/
def Obligations.AccessesArePerformedOnExactlyTheirBytes : Prop :=
  (∀ (id : Nat) (s : State) (r : Req) (p : Piece), s.wfMem → s.req? id = some r → r.pieces = [p] → canSlice s id 0 = true →
    r.ord = .plain → r.dropped = false → s.pathUp r.cid (s.fwd p.key) = true → s.pinOf (lineOf (s.fwd p.key)) = none →
    s.grantOf (lineOf (s.fwd p.key)) = none → s.coverOf r p = .none → s.poisoned (s.fwd p.key) p.size = none →
    let key := s.fwd p.key
    (r.op = .store → ∃ t, exec (.sliceAccessPerform id 0) s = .next t ∧
      t.read key p.size = p.data % 2 ^ (8 * p.size) ∧ sameOutside s t key p.size) ∧
    (∀ sx, r.op = .load sx → ∃ t q, exec (.sliceAccessPerform id 0) s = .next t ∧ sameBytes s t ∧
      t.req? id = some q ∧ q.stage = .served ∧ q.result = s.read key p.size) ∧
    (∀ op ret dw cmp, r.op = .atomic op ret dw cmp → p.size = (if dw then 8 else 4) →
      ∃ t q, exec (.sliceAccessPerform id 0) s = .next t ∧ t.req? id = some q ∧ q.stage = .served ∧
        q.result = (if dw then BitVec.ofNat 64 (s.read key p.size) else (BitVec.ofNat 32 (s.read key p.size)).signExtend 64).toNat ∧
        sameOutside s t key p.size ∧
        (match atomicNew op dw (s.read key p.size) (p.data % 2 ^ (8 * p.size)) (cmp.toNat % 2 ^ (8 * p.size))
            (nanPayload r.bundle.toNat 0) with
          | some v => t.read key p.size = v % 2 ^ (8 * p.size)
          | none => sameBytes s t))) ∧
  (∀ (id bank : Nat) (s : State) (r : Req) (p : Piece), s.wfMem → s.req? id = some r → r.pieces = [p] → (s.bank bank).park = [] →
    s.bankTakes r bank = true → r.ord = .plain → r.cl < 576 → s.bankHeld r.rid r.cl (bankOfSa p.addr) = true →
    p.key = scratchKey r.cl p.addr → bank = bankKey r.cl (bankOfSa p.addr) → s.clustersLinked (clOf r.cid) r.cl = true → s.coverOf r p = .none →
    s.poisoned p.key p.size = none →
    (r.op = .store → ∃ t, exec (.bankRequestArrival bank [id]) s = .next t ∧
      t.read p.key p.size = p.data % 2 ^ (8 * p.size) ∧ sameOutside s t p.key p.size ∧ t.full = s.full) ∧
    (∀ sx, r.op = .load sx → ∃ t q, exec (.bankRequestArrival bank [id]) s = .next t ∧ sameBytes s t ∧ t.full = s.full ∧
      t.req? id = some q ∧ q.stage = .served ∧ q.result = s.read p.key p.size) ∧
    (p.size = 8 → p.addr % 8 = 0 →
      let full := s.isFull p.key
      let others (t : State) : Prop := ∀ k, k / 8 ≠ p.key / 8 → t.isFull k = s.isFull k
      let gives (v : Nat) (t : State) : Prop := exec (.bankRequestArrival bank [id]) s = .next t ∧
        ∃ q, t.req? id = some q ∧ q.stage = .served ∧ q.result = v
      (r.op = .lds → full = true → ∃ t, gives (s.read p.key 8) t ∧ sameBytes s t ∧ t.isFull p.key = false ∧ others t) ∧
      (r.op = .ldf → full = true → ∃ t, gives (s.read p.key 8) t ∧ sameBytes s t ∧ t.full = s.full) ∧
      (((r.op = .sts ∧ full = false) ∨ r.op = .stf) → ∃ t, gives 0 t ∧ t.read p.key 8 = p.data % 2 ^ 64 ∧
        sameOutside s t p.key 8 ∧ t.isFull p.key = true ∧ others t) ∧
      (r.op = .feset → ∃ t, gives 0 t ∧ sameBytes s t ∧ t.isFull p.key = true ∧ others t) ∧
      (r.op = .feclr → ∃ t, gives 0 t ∧ sameBytes s t ∧ t.isFull p.key = false ∧ others t) ∧
      (r.op = .feq → ∃ t, gives (if full then 1 else 0) t ∧ sameBytes s t ∧ t.full = s.full) ∧
      ((((r.op = .lds ∨ r.op = .ldf) ∧ full = false) ∨ (r.op = .sts ∧ full = true)) →
        (s.ownHome r = true → exec (.bankRequestArrival bank [id]) s = .next s) ∧
        (s.ownHome r = false → ∃ t, exec (.bankRequestArrival bank [id]) s = .next t ∧ sameBytes s t ∧ t.full = s.full ∧
          (t.bank bank).park = [id] ∧ t.req? id = some { r with stage := .parked }))))

/-- R171, R173, R175, R201, R320, R335, R195: a stream store whose number is the one its pair expects is performed, and the next
number is expected; one that comes early is held; a close flit frees its pair's entry, whatever has become of its path (log entry 99,
DESIGN CHOICE); an `AFADD` of a deterministic region is held by its slice; a request that reads at a displaced team is refused for 64
cycles; a recalled line lets the waiting access be performed, a store at its home slice with no grant left; a served `PGFILL` completes
with its page filled or declined: a filled page takes the next page of the pool with the bytes of the one named, gets its leaf, wakes the
threads that wait for it and ends its upcall; a declined one stops a waiting thread with PAGE_DENIED and its detail. -/
def Obligations.StreamStoresHeldAtomicsAndRecalls : Prop :=
  (∀ (id k n : Nat) (s : State) (r : Req) (p : Piece) (c : Commit), s.wfMem → s.req? id = some r → r.op = .rst k → r.seqn = some n →
    r.pieces = [p] → canStream s id = true → n ≠ 0 → s.commit? r.dest r.cid k = some c → c.held = [] →
    r.scratchy = true → r.cl < 576 → s.displacedOwner r.rid r.cl (bankOfSa p.addr) = none →
    s.bankHeld r.rid r.cl (bankOfSa p.addr) = true → s.clustersLinked (clOf r.cid) r.cl = true →
    (n = c.expect → ∃ t q c', exec (.streamStoreArrival id) s = .next t ∧
      t.read (scratchKey r.cl p.addr) p.size = p.data % 2 ^ (8 * p.size) ∧ sameOutside s t (scratchKey r.cl p.addr) p.size ∧
      t.req? id = some q ∧ q.stage = .served ∧ q.result = (t.bank (bankKey r.cl (bankOfSa p.addr))).apply ∧
      t.commit? r.dest r.cid k = some c' ∧ c'.expect = (c.expect + 1) % 2 ^ 16) ∧
    (n ≠ c.expect → r.stage = .sent → ∃ t c', exec (.streamStoreArrival id) s = .next t ∧
      t.req? id = some { r with stage := .held } ∧ t.commit? r.dest r.cid k = some c' ∧ c'.held = [(n, id)] ∧ sameBytes s t)) ∧
  (∀ (n src stream dest : Nat) (s : State), s.closeFlits[n]? = some (src, stream, dest) →
    ∃ t, exec (.streamCloseFlit n) s = .next t ∧ t.commit? dest src stream = none ∧
      t.closeFlits = s.closeFlits.eraseIdx n) ∧
  (∀ (id w n : Nat) (s : State) (r : Req) (p : Piece), s.req? id = some r → r.pieces = [p] → canAfadd s id = true →
    r.afTag = some (w, n) → r.ord = .plain → (s.region? r.rid).map (fun g => g.live && !g.stopDue) = some true →
    s.pathUp r.cid (s.fwd p.key) = true → s.pinnedFrom r p (lineOf (s.fwd p.key)) = false →
    (s.slice (s.sliceOf (s.fwd p.key))).held.length < 16384 →
    ∃ t q, exec (.afaddAccept id) s = .next t ∧ t.req? id = some q ∧ q.stage = .served ∧ sameBytes s t ∧
      (t.slice (s.sliceOf (s.fwd p.key))).held = (s.slice (s.sliceOf (s.fwd p.key))).held ++
        [⟨r.nc, r.rid, r.dest, w, n, s.fwd p.key, BitVec.ofNat 32 p.data, r.bundle, r.cid, r.slot, r.icnt, r.now⟩]) ∧
  (∀ (id : Nat) (s : State) (r : Req), s.req? id = some r → id < 2 ^ 48 → canDisplaced s id = true → r.op.writes = false →
    s.clustersLinked (clOf r.cid) r.cl = true →
    exec (.displacedRequestArrival id) s = .next (s.setReq { r with stage := .refused (s.cyc + 64) })) ∧
  (∀ (line : Nat) (s : State) (r : Req) (p : Piece), s.recalls line = [r] → r.pieces = [p] → r.op = .store → r.afTag = none →
    let r' := { r with stage := .sent }
    let s1 := (s.returnGrant line).setReq r'
    s1.orderOk r' p = true → s1.lineReady r' p = true → lineOf (s1.fwd p.key) = line →
    exec (.lineRecallComplete line) s = .next (s1.performLine r' 0 p) ∧
    (s.wfMem → s.req? r.id = some r → p.done = false → r.ord = .plain → r.dropped = false → s1.coverOf r' p = .none →
      s1.pathUp r.cid (s1.fwd p.key) = true → s1.pinOf line = none → s1.grantOf line = none →
      let key := s1.fwd p.key
      let t := s1.performLine r' 0 p
      t.read key p.size = p.data % 2 ^ (8 * p.size) ∧ sameOutside s t key p.size ∧ t.grantOf line = none ∧
        (t.req? r.id).map (·.stage) = some .served)) ∧
  (∀ (id b : Nat) (s s1 : State) (r r1 : Req) (p : Piece) (g : Region) (q : Pager), s.req? id = some r → r.op = .pgfill b →
    r.pieces = [p] → r.stage = .sent → s.orderOk r p = true → s.region? r.rid = some g →
    s.fillClear r.rid (dieOf r.cid) (p.addr / 65536) b = true → g.pagers.find? (fun q => q.cid = r.cid && q.slot = r.slot && q.base ≤ p.addr / 65536 && p.addr / 65536 < q.base + q.pages)
      = some q →
    s1 = s.fillPage r.rid (dieOf r.cid) (p.addr / 65536) b q.w q.x → s1.req? id = some r1 →
    exec (.pgfillComplete id) s = .next (s1.endReq r1) ∧
    (let page := p.addr / 65536
     let data := (g.field 27 + g.poolNext) * 65536
     let asleep := s.droppedIn r.rid (page * 65536) (page * 65536 + 65536)
     let t := s1.endReq r1
     let heard (n : Nat) : Prop := (t.region? r.rid).map (fun h => (h.poolNext, h.upcalls)) =
       some (n, g.upcalls.filter (fun u => u.page ≠ page))
     (∀ a src l k, b ≠ 0 → missAt s (page * 65536) walkLevels (g.field 11) = some (4, a) → g.poolNext + 1 ≤ g.field 21 →
       s.translate g (dieOf r.cid) b false false = .pa src l k → s.host.mig = none → s.homeQ = [] → s.wfMem →
       (∀ e ∈ s.clusters, e.2.copies = []) → (∀ l ∈ lineSpan a 8, s.pinOf l = none) → (a + 8 ≤ data ∨ data + 65536 ≤ a) →
       t.dw a = (2 ^ 63 + 2 ^ 62 + (if q.w then 2 ^ 61 else 0) + (if q.x then 2 ^ 60 else 0) + data) % 2 ^ 64 ∧
       (∀ k, k < 65536 → t.byte (data + k) = s.byte (src + k)) ∧
       (∀ k, (k < data ∨ data + 65536 ≤ k) → (k < a ∨ a + 8 ≤ k) → t.byte k = s.byte k) ∧
       heard (g.poolNext + 1) ∧ ∀ e ∈ asleep, (t.thread e.1 e.2).woken = true) ∧
     (∀ d, ((b = 0 ∧ d = 1) ∨ (b ≠ 0 ∧ d = 2 ∧ (∃ a, missAt s (page * 65536) walkLevels (g.field 11) = some (4, a)) ∧
          g.field 21 < g.poolNext + 1)) →
       (asleep = [] → heard g.poolNext ∧ sameBytes s t) ∧
       (∀ e, asleep = [e] → ∃ s0 : State, s0.mem = s.mem ∧ s0.thread e.1 e.2 = s.thread e.1 e.2 ∧
         s1 = stopDropped s0 e.1 e.2 ⟨fPageDenied, wrap64 (s.thread e.1 e.2).dropVa, 0, wrap64 d⟩))))

/-! ### Engines at work -/

/-- R222, R226, R229 to R232, R234, R365: a copy at the head of the carter queue leaves it and begins, is done at once when it
has no element (before any check: log entry 32, DEDUCED), and ends with its detail when a check refuses it; the last element of a byte copy within a cluster lands
exactly, and the copy is over; a follow-on command enters the matrix queue, and what a restored team had queued enters its queues
again, as there is room; a report of remote bytes is counted, whatever has become of its path (log entry 99, DESIGN CHOICE); a finished
command that waited for room posts its completion record. R47, R48: a word that a thread writes to an engine queue is gathered, and its
command's last word enters the command or pair into its queue, with the thread's counters, or has it rejected: it takes no entry, its
completion record and its status are faulted and the record carries token and detail, 1 for an unknown code and 10 for an array that the
region does not hold. -/
def Obligations.CopiesBeginLandAndReport : Prop :=
  (∀ (cl : Nat) (s : State) (c : Cmd), (s.cluster cl).nextCopy s = some c → (s.cluster cl).copies.length < 8 →
    c.cl = cl → copyReadable s c = true → (∀ r ∈ (s.cluster cl).copies, r.cmd.id ≠ c.id) →
    let s0 := (s.modCluster cl (fun x => { x with copyQ := x.copyQ.filter (fun y => y.id ≠ c.id) })).tallyStart c
    let run : CopyRun := ⟨c, 0, c.geom.total * (c.targets s.host.pkgId).length, c.readIdx s, none, s0.nextId⟩
    let s1 := ({ s0 with nextId := s0.nextId + 1 } : State).modCluster cl (fun x => { x with copies := x.copies ++ [run] })
    ∀ e ∈ ([(1, .cpLin cl), (2, .cp2d cl), (3, .cpGath cl), (4, .cpScat cl), (5, .cpBcst cl)] : List (Nat × Instr)),
      c.code = e.1 →
      (c.geom.total = 0 → exec e.2 s = .next (s0.endCopy c none)) ∧
      (c.geom.total ≠ 0 → copyCheck s1 c run.idx = .pass → idxPoison s1 c = none →
        exec e.2 s = .next (s1.takeLines run)) ∧
      (∀ d a, c.geom.total ≠ 0 → copyCheck s1 c run.idx = .bad d a → exec e.2 s = .next (s1.endCopy c (some (d, a))))) ∧
  (∀ (cl : Nat) (s : State) (run : CopyRun), s.wfMem →
    let c := run.cmd
    let g := c.geom
    let e := g.total - 1
    let a := (c.ends s.host.pkgId cl).1
    let b := (c.ends s.host.pkgId cl).2
    let src := a.p.addr + (g.srcRow run.idx (e / g.len) + e % g.len) * a.size
    let dst := b.p.addr + (g.dstRow run.idx (e / g.len) + e % g.len) * b.size
    let key := scratchKey cl (dst % 2 ^ 23)
    cl < 576 → (s.cluster cl).copies = [run] → run.waitPage = none → c.cl = cl → c.code ≠ 5 → a.p.space = 1 → b.p.space = 1 →
    run.total = g.total → run.pos + 1 = g.total → converts a b = false → c.stream = none → c.setFull = false → c.point = none →
    c.follow = [] → copyReadable s c = true → s.displacedFor c cl (bankOfSa (dst % 2 ^ 23)) = none →
    s.poisoned (scratchKey cl (src % 2 ^ 23)) a.size = none →
    ∃ t, exec (.copyBytesLand cl) s = .next t ∧ t.read key a.size = s.read (scratchKey cl (src % 2 ^ 23)) a.size ∧
      sameOutside s t key a.size ∧ (t.cluster cl).copies = []) ∧
  (∀ (cl : Nat) (s : State),
    let k := s.cluster cl
    k.mxQ.length + k.ready.length ≤ 16 → k.copyQ.length + k.copyBack.length ≤ 32 → k.tkQ.length + k.tkBack.length ≤ 16 →
    exec (.followOnEnter cl) s = .next (s.setCluster cl { k with
      ready := [], mxQ := k.mxQ ++ k.ready, copyBack := [], copyQ := k.copyQ ++ k.copyBack,
      tkBack := [], tkQ := k.tkQ ++ k.tkBack })) ∧
  (∀ (n : Nat) (s : State) (r : Report) (t : Tally), s.reports[n]? = some r → s.tallies = [t] → t.cmd.id = r.cmd →
    ∃ u, exec (.remoteLandingReport n) s = .next u ∧ u.reports = s.reports.eraseIdx n ∧
      u.tallies = [{ t with landed := t.landed + r.bytes, coming := t.coming - 1 }]) ∧
  (∀ (cid : Nat) (s : State) (w : CompWait) (l : List CompWait), (s.core cid).compWait = w :: l →
    (s.core cid).comp.length < 64 → w.record = [] →
    ∃ t, exec (.engineCompletionPost cid) s = .next t ∧ (t.core cid).compWait = l ∧
      (t.core cid).comp = (s.core cid).comp ++ [wrap64 ((if w.faulted then 2 else 1) * 2 ^ 62 + w.engine * 2 ^ 60 + w.token)]) ∧
  (∀ (s : State) (w : Wb) (q : Nat) (v : Word), w.act = .epush q v → (∀ r ∈ s.reqs, r.cid ≠ w.cid ∨ r.slot ≠ w.slot) →
    (s.thread w.cid w.slot).acquired = [] →
    let x := s.thread w.cid w.slot
    let y := s.core w.cid
    let cl := clOf w.cid
    let k := s.cluster cl
    let t := s.wbAct w
    let k' := t.cluster cl
    let rejected (eng token d : Nat) : Prop :=
      k'.copyQ = k.copyQ ∧ k'.mxQ = k.mxQ ∧ k'.tkQ = k.tkQ ∧
      (y.region.isSome = true → y.comp.length < 64 → y.compWait = [] →
        (t.core w.cid).comp = y.comp ++ [wrap64 (2 ^ 63 + eng * 2 ^ 60 + token)] ∧
        ∃ e, (t.core w.cid).statusOf eng token = some e ∧ e.status = .faulted ∧ e.record.getD 4 0 = wrap64 token ∧
          e.record.getD 5 0 = wrap64 d)
    (q = 28 →
      let ws := x.cart ++ [v]
      let at' := if ws.length ≤ 4 then (w.bundle, w.icnt) else x.cartAt
      let c : Cmd := { s.mkCmd w.cid w.slot at'.1 at'.2 (ws.take 4) (ws.drop 4) with followBundle := w.bundle, followIcnt := w.icnt }
      let m := s.followCmd c
      let rm := if c.follow = [] then none else s.mxReject m true
      (ws.length ≠ cartLen ws → t.thread w.cid w.slot = { x with cart := ws, cartAt := at' } ∧ k' = k) ∧
      (ws.length = cartLen ws → y.armed w.slot c.token = none →
        (t.thread w.cid w.slot).cart = [] ∧
        (cpReject c = none → rm = none → k.copyBack = [] → k.copyQ.length < 32 → ∃ c', k'.copyQ = k.copyQ ++ [c'] ∧
          c'.words = ws.take 4 ∧ c'.follow = ws.drop 4 ∧ c'.cid = w.cid ∧ c'.slot = w.slot ∧ (c'.bundle, c'.icnt) = at' ∧
          (t.thread w.cid w.slot).outs = x.outs ++ [⟨c'.id, .cp, false⟩] ++ (if c.follow = [] then [] else [⟨c'.followId, .mx, false⟩])) ∧
        (c.follow = [] → ∀ d, cpReject c = some d → rejected 0 c.token d) ∧
        (c.follow ≠ [] → (cpReject c ≠ none ∨ rm ≠ none) → k'.copyQ = k.copyQ ∧ k'.mxQ = k.mxQ))) ∧
    (q = 29 →
      let ws := x.matx ++ [v]
      let c := s.mkCmd w.cid w.slot w.bundle w.icnt ws []
      (ws.length ≠ 3 → t.thread w.cid w.slot = { x with matx := ws } ∧ k' = k) ∧
      (ws.length = 3 → (t.thread w.cid w.slot).matx = [] ∧
        (s.mxReject c false = none → k.ready = [] → k.mxQ.length < 16 → ∃ c', k'.mxQ = k.mxQ ++ [c'] ∧
          c'.words = ws ∧ c'.cid = w.cid ∧ c'.slot = w.slot ∧ c'.bundle = w.bundle ∧ c'.icnt = w.icnt ∧
          (t.thread w.cid w.slot).outs = x.outs ++ [⟨c'.id, .mx, false⟩]) ∧
        (∀ d, s.mxReject c false = some d → rejected 1 c.token d))) ∧
    (q = 30 →
      let c := s.mkCmd w.cid w.slot w.bundle w.icnt [v] []
      (s.tkReject c = none → k.tkBack = [] → k.tkQ.length < 16 → ∃ e, k'.tkQ = k.tkQ ++ [e] ∧ e.op = .note c.token ∧
        e.cid = w.cid ∧ e.slot = w.slot ∧ (t.thread w.cid w.slot).outs = x.outs ++ [⟨e.id, .mx, false⟩]) ∧
      (∀ d, s.tkReject c = some d → rejected 2 c.token d))) ∧
  (∀ (s : State) (c : Cmd),
    (c.code = 0 ∨ 5 < c.code → cpReject c = some 1) ∧
    (c.code < 0x11 ∨ 0x14 < c.code → s.mxReject c false = some 1) ∧
    (0x11 ≤ c.code → c.code ≤ 0x14 → hdrBad (c.word 0) = false → hdrFollow (c.word 0) = false → hdrSetFull (c.word 0) = false →
      (s.cluster (clOf c.cid)).mxHolder ≠ some c.rid → s.mxReject c false = some 10) ∧
    (c.code ≠ 0x20 → s.tkReject c = some 1) ∧
    (c.code = 0x20 → hdrBad (c.word 0) = false → hdrFollow (c.word 0) = false → hdrSetFull (c.word 0) = false →
      (s.cluster (clOf c.cid)).tkHolder ≠ some c.rid → s.tkReject c = some 10))

/-- R65, R66, R226, R236, R239 to R242: a multiplication begins 24 cycles before its first step is done; a step adds, in every
accumulator word of its rows, the 144 products of A and B to the word (or to 0 in the first step with the zero flag), exactly
and then wrapped or clamped on integers, with one rounding on floating point, and leaves every other word; a raw drain writes a
row's words to scratch and nothing else; a zeroing clears a row. That a format fault names the address of A in word 2 is log entry
39 (DEDUCED). -/
def Obligations.MatrixCommandsRunByTheirSteps : Prop :=
  (∀ (cl : Nat) (s : State) (c : Cmd), (s.cluster cl).mxRun = none → (s.cluster cl).nextMx s = some c → c.cl = cl →
    s.copyPosted c = true →
    ∀ e ∈ ([(0x11, .mxMma cl), (0x12, .mxSpmma cl)] : List (Nat × Instr)), c.code = e.1 →
      (mxFmtOk (s.mx c) = true → c.step < (s.mx c).nk → ∃ t, exec e.2 s = .next t ∧ t.mem = s.mem ∧
        (t.cluster cl).mxRun = some ⟨{ c with stopped := false }, c.step, s.cyc + 24 + (s.mx c).cycles⟩ ∧
        (t.cluster cl).mxQ = (s.cluster cl).mxQ.filter (fun y => y.id ≠ c.id)) ∧
      (mxFmtOk (s.mx c) = false → c.stopped = false →
        exec e.2 s = .next ((s.takeMx cl c).failCmd 1 c 2 (s.mx c).aAddr))) ∧
  (∀ (cl : Nat) (s : State) (run : MxRun),
    let c := run.cmd
    let x := s.mx c
    let prod (m i n : Nat) : Option (FV × FV) :=
      (s.bVal cl x (144 * (x.step0 + run.step) + i) n).map (fun b => (s.aVal cl x m (144 * run.step + i), b))
    (s.cluster cl).mxRun = some run → run.nextAt ≤ s.cyc → isMma c = true → c.cl = cl → Table.canon 0 (s.cluster cl).acc = true →
    s.displacedFor c cl (bankOfSa x.aAddr) = none → s.bClear c x run.step = true → s.stepCheck c x run.step = .pass →
    ∃ t, exec (.mxKStep cl) s = .next t ∧
      (∀ m n, m < x.m → n < 96 →
        let old := (s.cluster cl).accWord x.tile (x.row0 + m) n
        let first : Bool := x.zero && run.step = 0
        let l := (List.range 144).filterMap (fun i => prod m i n)
        (intFmt x.fa = true →
          let v := (if first then 0 else old.toInt) + (l.map (fun p => p.1.toInt * p.2.toInt)).sum
          (t.cluster cl).accWord x.tile (x.row0 + m) n =
            BitVec.ofInt 32 (if x.rm = 6 then max (-(2 ^ 31)) (min (2 ^ 31 - 1) v) else v)) ∧
        (intFmt x.fa = false → (t.cluster cl).accWord x.tile (x.row0 + m) n = BitVec.ofNat 32 (Fmt.fp32.finish (rmOfCode x.rm)
          (s.srgCmd c ((run.step * 256 + m) * 96 + n)) (nanPayload c.bundle.toNat n)
          (exactDot (rmOfCode x.rm) l (some (if first then .num false 0 0 else Fmt.fp32.decode old.toNat)))))) ∧
      (∀ k, ¬ (accKey x.tile x.row0 0 ≤ k ∧ k < accKey x.tile (x.row0 + x.m) 0) →
        Table.get 0 (t.cluster cl).acc k = Table.get 0 (s.cluster cl).acc k)) ∧
  (∀ (cl : Nat) (s : State) (run : MxRun), s.wfMem →
    let c := run.cmd
    let dst (n : Nat) : Nat := scratchKey cl ((mxAddr (c.word 2) + (run.step * mxStride (c.word 2) + n) * 4) % 2 ^ 23)
    cl < 576 → (s.cluster cl).mxRun = some run → run.nextAt ≤ s.cyc → c.code = 0x13 → c.cl = cl → c.fmtA = 0 →
    (∀ b, s.displacedFor c cl b = none) →
    ∃ t, exec (.mxDrain cl) s = .next t ∧
      (∀ n, n < 96 → t.read (dst n) 4 = ((s.cluster cl).accWord (mxAcc (c.word 1)) (mxRow0 (c.word 1) + run.step) n).toNat) ∧
      (∀ k, (∀ n, n < 96 → ¬ (dst n ≤ k ∧ k < dst n + 4)) → t.byte k = s.byte k)) ∧
  (∀ (cl : Nat) (s : State) (run : MxRun),
    let c := run.cmd
    (s.cluster cl).mxRun = some run → run.nextAt ≤ s.cyc → c.code = 0x14 → c.cl = cl → Table.canon 0 (s.cluster cl).acc = true →
    ∃ t, exec (.mxZero cl) s = .next t ∧ t.mem = s.mem ∧
      ∀ k, Table.get 0 (t.cluster cl).acc k =
        if accKey (mxAcc (c.word 1)) (mxRow0 (c.word 1) + run.step) 0 ≤ k ∧
          k < accKey (mxAcc (c.word 1)) (mxRow0 (c.word 1) + run.step + 1) 0 then 0 else Table.get 0 (s.cluster cl).acc k)

/-- R244: `MXSAVE` writes its area line by line, with `mxprog` at 0, the stopped command's words or 0 at 8 to 31, zeros to 4,095 and then
the tiles row by row, and `MXLOAD` of a valid area sets all accumulators and `mxprog` from the same places, each once its
turn comes; an area that is not 4,096-aligned ends the command with detail 1. R267, R268, R270, R274: a race reads its inputs as
it starts and takes 8 + ⌈W/4⌉ + 2 cycles; its outputs are the first, or with `.and` the last, of the sums of input and delay
below W, else 255; the window, the cells and the outputs are set as the entry says, `TKCAPT` writes the outputs to its 64 bytes (for a
displaced team whose log is full, 64 cycles later: R335), and a note posts its record. That a `TKLOAD` reads and a `TKCAPT` writes at the
end of its occupancy is log entry 144 (DESIGN CHOICE). -/
def Obligations.SaveAreasAndTickEntriesArePerformed : Prop :=
  (∀ (cl va : Nat) (s : State) (c : Cmd) (r : Region), (s.cluster cl).mxRun = none → (s.cluster cl).nextMx s = some c →
    c.cl = cl → s.copyPosted c = true → s.areaRegion c = some r →
    (c.area = some (false, va) → va % 4096 ≠ 0 → exec (.mxsaveExecute cl) s = .next ((s.takeMx cl c).endArea c (some (1, va)))) ∧
    (c.area = some (true, va) → va % 4096 ≠ 0 → exec (.mxloadExecute cl) s = .next ((s.takeMx cl c).endArea c (some (1, va)))) ∧
    (∀ s1, c.area = some (false, va) → va % 4096 = 0 → areaFree s r c va true = true →
      saveArea r c va (areaBytes / 128) 0 (s.takeMx cl c) = (s1, none) →
      exec (.mxsaveExecute cl) s = .next (s1.endArea c none)) ∧
    (∀ lines s1, c.area = some (true, va) → va % 4096 = 0 → areaFree s r c va false = true → s1 = (s.takeMx cl c).areaSeen r c va →
      s1.areaRegion c = some r → loadArea s1 r c va (areaBytes / 128) 0 = .ok lines → areaValid s1 c lines = true →
      ∃ t, exec (.mxloadExecute cl) s = .next t ∧ (t.cluster cl).acc = areaAcc lines ∧
        (t.cluster cl).mxprog = wrap64 (lines.headD 0 % 2 ^ 64)) ∧
    (∀ pa, va % 4096 = 0 → s.host.mig = none →
      let k := s.cluster cl
      let stopped := (k.mxQ.filter (fun y => y.id ≠ c.id)).find? (fun y => y.stopped)
      let place (tile row n : Nat) : Nat := pa + 4096 + tile * 98304 + row * 384 + n * 4
      (c.area = some (false, va) → areaFree s r c va true = true → s.wfMem →
        (∀ u : State, u.host = s.host → (∀ i, (i < pa ∨ pa + areaBytes ≤ i) → u.byte i = s.byte i) →
          ∀ j, 128 * j < areaBytes → ∃ l b, u.translate r (dieOf c.cid) (va + 128 * j) true false = .pa (pa + 128 * j) l b) →
        ∃ t, exec (.mxsaveExecute cl) s = .next t ∧ t.dw pa = k.mxprog.toNat ∧
          (∀ j, j < 3 → t.dw (pa + 8 + 8 * j) = (stopped.map (fun y => y.word j)).getD 0 % 2 ^ 64) ∧
          (∀ i, 32 ≤ i → i < 4096 → t.byte (pa + i) = 0) ∧
          (∀ tile row n, tile < 4 → row < 256 → n < 96 → t.read (place tile row n) 4 = (k.accWord tile row n).toNat) ∧
          (∀ i, (i < pa ∨ pa + areaBytes ≤ i) → t.byte i = s.byte i)) ∧
      (c.area = some (true, va) → areaFree s r c va false = true → s.dw pa < 2 ^ 48 → (∀ i, 8 ≤ i → i < 4096 → s.byte (pa + i) = 0) →
        (∀ j, 128 * j < areaBytes → s.poisoned (pa + 128 * j) 128 = none ∧
          ∃ l b, s.translate r (dieOf c.cid) (va + 128 * j) false false = .pa (pa + 128 * j) l b) →
        ∃ t, exec (.mxloadExecute cl) s = .next t ∧ (t.cluster cl).mxprog = wrap64 (s.dw pa) ∧ sameBytes s t ∧
          (k.mxHolder ≠ none → (t.cluster cl).mxQ = k.mxQ.filter (fun y => y.id ≠ c.id)) ∧
          ∀ tile row n, tile < 4 → row < 256 → n < 96 →
            (t.cluster cl).accWord tile row n = BitVec.ofNat 32 (s.read (place tile row n) 4)))) ∧
  (∀ (cl token at' : Nat) (s : State) (e : TkEntry), (s.cluster cl).tkRun = some (e, at') → at' ≤ s.cyc → clOf e.cid = cl →
    e.op = .note token →
    exec (.tickNote cl) s = .next (((s.modCluster cl (fun k => { k with tkRun := none })).arrayDone e.id).finishCmd e.cid
      ⟨e.id, e.slot, 2, false, token, []⟩ e.rid)) ∧
  (∀ (cl at' : Nat) (s : State) (e : TkEntry), (s.cluster cl).tkRun = some (e, at') → at' ≤ s.cyc → clOf e.cid = cl →
    tickFault s e = none →
    (∀ w, e.op = .win w → ∃ t, exec (.tickEntryExecute cl) s = .next t ∧ (t.cluster cl).win = w) ∧
    (e.op = .reset → ∃ t, exec (.tickEntryExecute cl) s = .next t ∧ (t.cluster cl).outs = []) ∧
    (∀ o m, e.op = .raced o m → ∃ t, exec (.tickEntryExecute cl) s = .next t ∧ (t.cluster cl).outs = o ∧
      (t.cluster cl).andMode = m) ∧
    (∀ a f n, e.op = .load a f n → Table.canon 255 (s.cluster cl).cells = true → ∃ t, exec (.tickEntryExecute cl) s = .next t ∧
      ∀ i, Table.get (255 : Byte) (t.cluster cl).cells i =
        if 64 * f ≤ i ∧ i < 64 * f + 64 * n then s.byte (scratchKey cl (a + (i - 64 * f)))
        else Table.get 255 (s.cluster cl).cells i) ∧
    (∀ a, e.op = .capt a → (s.displacedFor e.cmd cl (bankOfSa a) = none → s.wfMem → ∃ t, exec (.tickEntryExecute cl) s = .next t ∧
        (∀ j, j < 64 → (t.byte (scratchKey cl a + j)).toNat = (s.cluster cl).outTick j) ∧ sameOutside s t (scratchKey cl a) 64 ∧
        (t.cluster cl).tkRun = none) ∧
      (s.captRefused e = true → ∃ t, exec (.tickEntryExecute cl) s = .next t ∧ t.mem = s.mem ∧
        (t.cluster cl).tkRun = some (e, s.cyc + 64)))) ∧
  (∀ (cl a : Nat) (m : Bool) (s : State) (e : TkEntry), (s.cluster cl).tkRun = none → tickHead s cl = some e → clOf e.cid = cl →
    e.op = .launch a m → (s.cluster cl).win ≤ 255 → tickFault s e = none →
    let k := s.cluster cl
    let inp (i : Nat) : Nat := (s.byte (scratchKey cl (a + i))).toNat
    let joined (i j : Nat) : Prop := i < 64 ∧ k.cell i j ≠ 255
    ∃ t o, exec (.tickEntryExecute cl) s = .next t ∧
      (t.cluster cl).tkRun = some ({ e with op := .raced o m }, s.cyc + 8 + (k.win + 3) / 4 + 2) ∧ t.mem = s.mem ∧
      ∀ j, j < 64 →
        let v := (Table.get (255 : Byte) o j).toNat
        (m = false →
          (∀ i, joined i j → inp i ≠ 255 → inp i + k.cell i j < k.win → v ≤ inp i + k.cell i j) ∧
          (v = 255 ∨ (v < k.win ∧ ∃ i, joined i j ∧ inp i ≠ 255 ∧ v = inp i + k.cell i j))) ∧
        (m = true →
          ((∃ i, joined i j) → (∀ i, joined i j → inp i ≠ 255 ∧ inp i + k.cell i j < k.win) →
            (∀ i, joined i j → inp i + k.cell i j ≤ v) ∧ ∃ i, joined i j ∧ v = inp i + k.cell i j) ∧
          ((∀ i, ¬ joined i j) ∨ (∃ i, joined i j ∧ (inp i = 255 ∨ k.win ≤ inp i + k.cell i j)) → v = 255)))

/-! ### Messages and sweeps -/

/-- R141, R143, R152, R153, R155 to R157, R162, R163: a flit at its end, which it reaches while its path holds (log entry 99, DESIGN
CHOICE). A message in sequence is queued and raises the promise, one out of sequence is held, one for an exited region turns back; a
promise raises the end's; hunger asks the sender's end, a close flit closes it, and a returned allowance adds one; a join flit joins the
end it names and is answered; a dead letter closes the sender's end. The horizon of a tile is the least of its running handlers' times, its
first queued arrival's, its attached task's and the promises of its open ends with lookahead, or ENDT; an outbound end promises the larger of
horizon plus lookahead and its floor, at most ENDT, or ENDT once closed. A tile asks the least of the ends that block its candidate, once;
a hungry end whose promise has grown by its quantum sends it in one flit; one that cannot answer passes the hunger on to the least inbound
end when that end's promise alone holds the horizon. -/
def Obligations.FlitsReachTheirEnds : Prop :=
  (∀ (n cid : Nat) (s : State) (f : Flit), s.flits[n]? = some f → s.flitPath f = true → Table.sorted (s.core cid).inEnds = true →
    Table.sorted (s.core cid).outEnds = true →
    let s0 := { s with flits := s.flits.eraseIdx n }
    (∀ e : InEnd, f.kind = .msg → s.endAt f (matchIn f) = .live cid → (s.core cid).inEnd? f.didx = some e → e.joined = true →
      (f.seq = e.expect → e.early = [] → e.closed = false → f.poisoned = false →
        ∃ t e', exec (.messageAccept n) s = .next t ∧ (t.core cid).inEnd? f.didx = some e' ∧
          e'.queue = e.queue ++ [f.arrival] ∧
          e'.promise = max e.promise f.ts ∧ e'.expect = (e.expect + 1) % 2 ^ 16) ∧
      (f.seq ≠ e.expect → exec (.messageAccept n) s = .next (s0.setIn cid f.didx { e with early := e.early ++ [f] }))) ∧
    (f.kind = .msg → s.endAt f (matchIn f) = .gone →
      exec (.messageAccept n) s = .next { s with flits := s.flits.eraseIdx n ++ [{ f with kind := .dead }] }) ∧
    (∀ e : InEnd, f.kind = .promise → s.endAt f (matchIn f) = .live cid → (s.core cid).inEnd? f.didx = some e →
      e.joined = true → f.seq = e.expect → e.early = [] → f.poisoned = false →
      ∃ t e', exec (.promiseFlitArrival n) s = .next t ∧ (t.core cid).inEnd? f.didx = some e' ∧
        e'.promise = max e.promise f.ts ∧ e'.queue = e.queue ∧ e'.expect = (e.expect + 1) % 2 ^ 16) ∧
    (∀ e : OutEnd, s.endAt f (matchOut f) = .live cid → (s.core cid).outEnd? f.didx = some e →
      (f.kind = .hunger → exec (.hungerFlitArrival n) s = .next ((s0.setOut cid f.didx { e with hunger := true }).tileFlits cid)) ∧
      (f.kind = .close → ∃ t e', exec (.closeFlitArrival n) s = .next t ∧ (t.core cid).outEnd? f.didx = some e' ∧
        e'.closed = true) ∧
      (f.kind = .ret → exec (.allowanceReturn n) s = .next (s0.setOut cid f.didx
        { e with allow := e.allow + 1, unret := e.unret.filter (fun u => u.1 ≠ f.seq) })) ∧
      (f.kind = .join → f.payload ≠ [1] → e.joined = false → ∃ t e' g, exec (.joinFlitArrival n) s = .next t ∧
        (t.core cid).outEnd? f.didx = some e' ∧ e'.joined = true ∧ g ∈ t.flits ∧ g.kind = .join ∧ g.dst = f.src ∧
        g.payload = [1] ∧ g.ts = e.look)) ∧
    (∀ e : InEnd, f.kind = .join → f.payload = [1] → s.endAt f (matchIn f) = .live cid →
      (s.core cid).inEnd? f.didx = some e → e.joined = false → ∃ t e' g, exec (.joinFlitArrival n) s = .next t ∧
        (t.core cid).inEnd? f.didx = some e' ∧ e'.joined = true ∧ (e'.zero = true ↔ f.ts = 0) ∧
        g ∈ t.flits ∧ g.kind = .join ∧ g.dst = f.src ∧ g.payload = [0]) ∧
    (∀ e : OutEnd, f.kind = .dead → canDead s n = true → cid = coordCid f.src → (s.core cid).outEnd? f.sidx = some e →
      (s.core cid).region = some f.rid → e.peer = f.dst → ∃ t e', exec (.deadLetterReturn n) s = .next t ∧
        (t.core cid).outEnd? f.sidx = some e' ∧ e'.closed = true ∧ e'.allow = e.allow + 1)) ∧
  (∀ (cid : Nat) (s : State), Table.sorted (s.core cid).inEnds = true →
    let c := s.core cid
    let h := s.horizon cid
    let own (v : Nat) : Prop :=
      (∃ k, k < 16 ∧ (s.thread cid k).handler = true ∧ (s.thread cid k).state ≠ .empty ∧ v = (s.thread cid k).now) ∨
      (∃ q, c.candidate = some q ∧ v = q.2.ts) ∨ (c.attached = true ∧ v = c.tileNow)
    let holds (v : Nat) : Prop := own v ∨ ∃ j e, (j, e) ∈ c.inEnds ∧ e.closed = false ∧ e.zero = false ∧ v = e.promise
    (h ≤ 2 ^ 64 - 1 ∧ (∀ v, holds v → h ≤ v) ∧ (h = 2 ^ 64 - 1 ∨ holds h)) ∧
    (∀ e : OutEnd, e.promise h = if e.closed then 2 ^ 64 - 1 else min (2 ^ 64 - 1) (max (h + e.look) e.floorK)) ∧
    (∀ q j e, c.outEnds = [] → c.candidate = some q → c.deliverable q = false → (j, e) ∈ c.blockers q.1 q.2.ts →
      (∀ i x, (i, x) ∈ c.blockers q.1 q.2.ts → e.promise < x.promise ∨ (e.promise = x.promise ∧ j ≤ i)) → e.joined = true →
      (e.asked = true → s.tileFlits cid = s) ∧
      (e.asked = false → ∃ g, (s.tileFlits cid).flits = s.flits ++ [g] ∧ g.kind = .hunger ∧ g.dst = e.peer ∧ g.didx = e.pidx ∧
        g.sidx = j ∧ ((s.tileFlits cid).core cid).inEnd? j = some { e with asked := true })) ∧
    (∀ i e, c.candidate = none → c.outEnds = [(i, e)] → e.hunger = true → e.joined = true → e.closed = false → e.look ≠ 0 →
      (e.told + e.quantum ≤ e.promise h → ∃ g, (s.tileFlits cid).flits = s.flits ++ [g] ∧ g.kind = .promise ∧ g.dst = e.peer ∧
        g.didx = e.pidx ∧ g.sidx = i ∧ g.seq = e.seq ∧ g.ts = e.promise h ∧
        ((s.tileFlits cid).core cid).outEnd? i =
          some { e with told := e.promise h, hunger := false, seq := (e.seq + 1) % 2 ^ 16 }) ∧
      (∀ j x, e.promise h < min (2 ^ 64 - 1) (e.told + e.quantum) → (j, x) ∈ c.inEnds → x.closed = false → x.zero = false → x.joined = true →
        (∀ k y, (k, y) ∈ c.inEnds → y.closed = false → y.zero = false → x.promise < y.promise ∨ (x.promise = y.promise ∧ j ≤ k)) →
        (x.promise = h → ¬ own h → x.asked = false → ∃ g, (s.tileFlits cid).flits = s.flits ++ [g] ∧ g.kind = .hunger ∧
          g.dst = x.peer ∧ g.didx = x.pidx ∧ g.sidx = j) ∧
        ((own h ∨ x.asked = true) → s.tileFlits cid = s))))

/-- R144 to R148, R158, R159: the candidate is the first arrival by (t, c, k); it is deliverable when no other open end could still
bring an earlier one, or once a sweep released it; dispatch gives it to the parked `RECV`, or starts its handler in the lowest free slot
(slot 15 in a deterministic region) with the arrival's timestamp, payload, sender and index; the floor is the least of the running
handlers' times, the queued arrivals', the attached tasks' and the sent messages' whose allowances have not returned; a tile blocked for longer than the sweep delay triggers a sweep; a sweep starts when none is in progress; as it
completes, the floor is its result and every inbound promise of the region rises to it, that of an end that has not joined
included (log entry 126, DEDUCED). R295: a steal starts the oldest entry of the victim's deque in the thief's lowest empty
slot; the victim may be a deque that a released core has left (log entry 46, DEDUCED). -/
def Obligations.DispatchSweepsAndSteals : Prop :=
  (∀ (cid : Nat) (s : State) (q : Queued) (e : InEnd) (r : Region), (s.core cid).candidate = some q →
    (s.core cid).inEnd? q.1 = some e → s.regionOf cid = some r →
    (s.route cid = .recv → ∃ t, exec (.arrivalDispatch cid) s = .next t ∧ (t.thread cid 0).gift = some q) ∧
    (∀ k, s.route cid = .handler k → r.field 43 = 0 → ∃ t, exec (.arrivalDispatch cid) s = .next t ∧ (t.thread cid k).state = .ready ∧
      (t.thread cid k).handler = true ∧ (t.thread cid k).pc = e.handler ∧ (t.thread cid k).now = q.2.ts ∧
      (∀ i v, i < 8 → q.2.payload[i]? = some v → t.reg cid k (16 + i) = v) ∧ t.reg cid k 24 = wrap64 q.2.sender ∧
      t.reg cid k 25 = wrap64 q.1)) ∧
  (∀ (cid : Nat) (s : State) (q : Queued) (e : InEnd) (r : Region),
    let c := s.core cid
    c.candidate = some q → c.inEnd? q.1 = some e → s.regionOf cid = some r → r.kind = .event →
    (q ∈ c.queued ∧ ∀ p ∈ c.queued, q.2.ts < p.2.ts ∨ (q.2.ts = p.2.ts ∧ (q.1 < p.1 ∨ (q.1 = p.1 ∧
      (q.2.start = true ∨ p.2.start = false))))) ∧
    (c.deliverable q = true ↔ q.2.released = true ∨ (e.zero = false ∧ ∀ j x, (j, x) ∈ c.inEnds → j ≠ q.1 → x.closed = false →
      x.zero = false → q.2.ts < x.promise ∨ (q.2.ts = x.promise ∧ q.1 < j))) ∧
    (s.route cid = .recv ↔ c.away = false ∧ c.deliverable q = true ∧ e.handler = 0 ∧ s.recvParked cid = true ∧
      ∀ k, k < 16 → (s.thread cid k).handler = false ∨ (s.thread cid k).state = .empty) ∧
    (∀ k, s.route cid = .handler k → c.deliverable q = true ∧ e.handler ≠ 0 ∧ 1 ≤ k ∧ k < 16 ∧ (s.thread cid k).state = .empty ∧
      (r.det = true → k = 15) ∧
      (r.det = false → ∀ i, 1 ≤ i → i < k → (s.thread cid i).state ≠ .empty ∨ i ∈ c.reserved ∨ c.tstartWait = some i) ∧
      ((∀ k, k < 16 → (s.thread cid k).handler = false ∨ (s.thread cid k).state = .empty) →
        c.attached = true → s.recvParked cid = true))) ∧
  (∀ (s : State) (r : Region), r.kind = .event → r.det = false →
    let given (cid v : Nat) : Prop :=
      (∃ k, k < 16 ∧ (s.thread cid k).handler = true ∧ (s.thread cid k).state ≠ .empty ∧ v = (s.thread cid k).now) ∨
      (∃ q ∈ (s.core cid).queued, v = q.2.ts) ∨ ((s.core cid).attached = true ∧ v = (s.core cid).tileNow) ∨
      (∃ i e n, (i, e) ∈ (s.core cid).outEnds ∧ (n, v) ∈ e.unret)
    s.sweepResult r ≤ 2 ^ 64 - 1 ∧ (∀ cid ∈ s.tiles r.id, ∀ v, given cid v → s.sweepResult r ≤ v) ∧
    (s.sweepResult r = 2 ^ 64 - 1 ∨ ∃ cid ∈ s.tiles r.id, given cid (s.sweepResult r))) ∧
  (∀ (cid c0 : Nat) (s : State) (r : Region), (s.core cid).region = some r.id → s.region? r.id = some r → r.kind = .event →
    s.blocked cid = true → (s.core cid).blockedSince = some c0 → c0 + r.field 18 < s.cyc →
    ∃ t, exec (.sweepDelayExpiry cid) s = .next t ∧ (t.region? r.id).map (·.sweepDue) = some true) ∧
  (∀ (rid : Nat) (s : State) (r : Region), s.region? rid = some r → canSweep s rid = true →
    exec (.floorSweepStart rid) s = .next (s.setRegion rid { r with sweeping := true, sweepDue := false })) ∧
  (∀ (rid : Nat) (s : State) (r : Region), s.region? rid = some r → r.id = rid → r.kind = .event → r.sweeping = true →
    r.anyDisplaced = false → r.live = true → r.stopDue = false → r.det = false → s.afClear rid (s.sweepResult r) = true → (∀ c, Table.sorted (s.core c).inEnds = true) →
    ∃ t, exec (.floorSweepComplete rid) s = .next t ∧ (t.region? rid).map (·.floor) = some (s.sweepResult r) ∧
      (t.region? rid).map (·.sweeping) = some false ∧
      ∀ cid i e, (s.core cid).region = some rid → (s.core cid).inEnd? i = some e →
        ((t.core cid).inEnd? i).map (·.promise) = some (max e.promise (s.sweepResult r))) ∧
  (∀ (cid k rid : Nat) (s : State) (r : Region), canSteal s cid = true → (s.core cid).region = some rid →
    s.region? rid = some r → r.id = rid → r.field 43 = 0 → s.handlerSlot cid false = some k →
    (∀ v e, s.victim rid cid = some (.core v) → v ≠ cid → (s.core v).spilled ≤ (s.core v).deque.length →
      (s.fullDeque v).getLast? = some e → s.spillFault r (s.core v) ((s.core v).deque.length - 1) = none →
      ∃ t, exec (.stealAttempt cid) s = .next t ∧ (t.thread cid k).state = .ready ∧ (t.thread cid k).pc = e.pc ∧
        (t.thread cid k).parent = e.parent ∧ (t.core v).deque = (s.fullDeque v).dropLast ∧
        (t.core cid).stealAt = s.cyc + 64) ∧
    (∀ n e x, s.victim rid cid = some (.left n) → r.left[n]? = some x → (s.dequeAt r x.2).getLast? = some e →
      s.spillFault r x.2 (x.2.deque.length - 1) = none →
      ∃ t, exec (.stealAttempt cid) s = .next t ∧ (t.thread cid k).state = .ready ∧ (t.thread cid k).pc = e.pc ∧
        (t.thread cid k).parent = e.parent ∧ (t.core cid).stealAt = s.cyc + 64))

/-! ### Regions -/

/-- R17, R71, R80, R282, R283: placing the head team of a region without a load table allots its cores and starts a foreman in
slot 0 of each, at the region's entry with the region's allowance, every other slot empty. R287: a team that is done is counted
as retired and, in a grid or forkjoin region, gives its cores back, where the region keeps a deque that still holds an entry (log
entry 46, DEDUCED); a finished region ends with status 4 and gives back its
cores. R286, R331: a region that reached its allowance is to be stopped; a stopped one ends with status 5. R305 to R308: a round
barrier ranks the live entrants and lets the upper half live: each survivor takes the cores of the entrant half the field below it,
which are held with every slot empty, and its threads' entrant segment doubles; the last barrier releases the losers' cores and names the
winner. -/
def Obligations.TeamsArePlacedRetiredAndEnded : Prop :=
  (∀ (cl n : Nat) (s : State) (r : Region) (cs : List Nat), canPlace s cl = true → s.head = some (r, n) →
    s.region? r.id = some r → s.teamCores r cl = some cs → r.field 43 = 0 →
    ∃ t, exec (.teamPlacement cl) s = .next t ∧ (t.team? r.id n).map (·.st) = some .placed ∧
      (t.team? r.id n).map (·.cores) = some cs ∧
      ∀ c ∈ cs, (t.core c).region = some r.id ∧ (t.core c).team = n ∧ (t.thread c 0).state = .ready ∧
        (t.thread c 0).pc = r.entry ∧ (t.thread c 0).allow = r.startAllow ∧ (t.thread c 0).regs = [] ∧
        ∀ k, 1 ≤ k → k < 16 → (t.thread c k).state = .empty) ∧
  (∀ (rid n : Nat) (s : State) (r : Region) (x : Team), canRetire s rid n = true → s.region? rid = some r →
    s.team? rid n = some x →
    ∃ t, exec (.teamRetire rid n) s = .next t ∧ (t.team? rid n).map (·.st) = some .retired ∧
      (t.region? rid).map (·.retired) = some (r.retired + 1) ∧
      (∀ c ∈ x.cores, (r.kind = .grid ∨ r.kind = .forkjoin) → (t.core c).region = none) ∧
      ∀ c ∈ x.cores, r.kind = .forkjoin → (s.core c).deque ≠ [] →
        ∃ e, ((t.region? rid).bind (fun g => g.left.find? (fun y => y.1 = c && y.2.deque = (s.core c).deque))) = some e) ∧
  (∀ (rid : Nat) (s : State), canEnd s rid = true →
    ∃ t, exec (.regionEnd rid) s = .next t ∧ (t.region? rid).map (·.state) = some 4 ∧
      ∀ c, (s.core c).region = some rid → (t.core c).region = none) ∧
  (∀ (rid cid slot : Nat) (s : State) (r : Region), canAllowanceStop s rid = true → s.region? rid = some r →
    r.totalHit = some (cid, slot) →
    exec (.regionAllowanceEnd rid) s = .next ((s.stopRecord rid fAllowanceEnd 4 cid slot 0 (Config.openWord5 fAllowanceEnd)).modRegion
      rid (fun r => { r with stopDue := true, totalHit := none }))) ∧
  (∀ (rid : Nat) (s : State), canStop s rid = true → (s.stopWork rid).enginesBusy rid = false →
    (s.stopWork rid).writesOut rid = false →
    ∃ t, exec (.regionStop rid) s = .next t ∧ (t.region? rid).map (·.state) = some 5 ∧
      ∀ c, (s.core c).region = some rid → (t.core c).region = none) ∧
  (∀ (rid : Nat) (s : State) (r : Region), canBarrier s rid = true → s.region? rid = some r → r.id = rid →
    Table.sorted r.entrants = true →
    ∃ t r', exec (.roundBarrierComplete rid) s = .next t ∧ t.region? rid = some r' ∧ r'.round = r.round + 1 ∧
      (∀ i e, r.ranking[i]? = some e → (r'.entrant e).rank = i ∧ (r'.entrant e).ranked = r.round ∧
        ((r'.entrant e).live = true ↔ i < r.ranking.length / 2)) ∧
      (r.field 29 ≤ r.round + 1 → r'.winner = r.ranking.headD 255) ∧
      (r.pagers = [] → ∀ i a b, i < r.ranking.length / 2 → r.ranking[i]? = some a → r.ranking[r.ranking.length / 2 + i]? = some b →
        (r.field 29 ≤ r.round + 1 → ∀ c, (s.core c).region = some rid → (s.core c).entrant = b → (t.core c).region = none) ∧
        (r.round + 1 < r.field 29 → (r'.entrant a).growths = (r.entrant a).growths + 1 ∧ (r'.entrant a).source = b ∧
          (∀ c, (s.core c).region = some rid → (s.core c).entrant = b → (t.core c).region = some rid ∧ (t.core c).entrant = a ∧
            (t.core c).held = true ∧ ∀ k, k < 16 → (t.thread c k).state = .empty) ∧
          (∀ c k, (s.core c).region = some rid → (s.core c).entrant = a → k < 16 → (s.thread c k).state ≠ .empty →
            (s.thread c k).entSeg = true → Table.canon SegReg.zero (s.thread c k).segs = true →
            let g := Table.get SegReg.zero (s.thread c k).segs 7
            Table.get SegReg.zero (t.thread c k).segs 7 =
              ⟨g.base, wrap64 (g.lr.toNat / 2 ^ 52 * 2 ^ 52 + 2 * (g.lr.toNat % 2 ^ 52) % 2 ^ 52)⟩))))

/-- R332 to R336: a displacement begins with issue stopped on the team's cores; once they have drained it is displaced and its
cores are free, or its region is to be stopped; a team with valid images is placed again, a missing page of them stops its
region (log entry 54, DEDUCED), and invalid or poisoned ones are a fault of the tinker that leaves the rest as it is (log entries 54
and 116, DEDUCED), in the event log under source 1 (log entry 6, DESIGN CHOICE). R337: a waiting service request
starts the tinker's routine, and its fault ends it. R114, R118, R120: pool banks leave the cache role, become idle and are
cleared; each sampling interval changes at most the bank its table names and starts the counts again. -/
def Obligations.TeamsAreDisplacedAndBanksChangeRoles : Prop :=
  (∀ (rid n : Nat) (s : State) (x : Team), canSave s rid = false → s.beginsSave rid = some n → s.team? rid n = some x →
    ∃ t, exec (.teamDisplace rid) s = .next t ∧ (t.team? rid n).map (·.st) = some .saving ∧
      ∀ c ∈ x.cores, (t.core c).away = true ∧ (t.core c).regs = (s.core c).regs) ∧
  (∀ (rid n : Nat) (s : State) (r : Region) (x : Team), canSave s rid = true → s.region? rid = some r →
    r.savingTeam = some (n, x) → ∃ t, exec (.teamDisplace rid) s = .next t ∧
      (((t.team? rid n).map (·.st) = some .displaced ∧ ∀ c ∈ x.cores, (t.core c).region = none) ∨
        (t.region? rid).map (·.stopDue) = some true)) ∧
  (∀ (rid n : Nat) (s : State) (r : Region) (x : Team), canRestore s rid = true → s.region? rid = some r → r.id = rid →
    s.restorable r = some (n, x) →
    let valid := x.saved.zipIdx.all (fun e =>
      imageValid s r (dieOf e.1.cid) (r.ctx + n * r.imageSize + e.2 * 0x4F000))
    (s.restoreFault r n x = none → valid = true → ∃ t, exec (.teamRestore rid) s = .next t ∧
      (t.team? rid n).map (·.st) = some .placed ∧ ∀ sv ∈ x.saved, (t.core sv.cid).away = false) ∧
    (s.restoreFault r n x = none → valid = false → exec (.teamRestore rid) s = .next (s.logEvent 1 fIllegalOperand 0 0)) ∧
    (∀ f, s.restoreFault r n x = some f → (f.code = fPageDenied → ∃ t, exec (.teamRestore rid) s = .next t ∧
        (t.region? rid).map (·.stopDue) = some true) ∧
      (f.code ≠ fPageDenied → exec (.teamRestore rid) s = .next (s.logEvent 1 f.code f.w2 0)))) ∧
  (∀ (cl : Nat) (s : State),
    (canService s cl = true → exec (.tinkerServiceDispatch cl) s = .next
      ((s.setThread (32 * cl + 16) 0 { Thread.fresh with state := .ready }).setCluster cl { s.cluster cl with serving := true })) ∧
    ((s.cluster cl).serving = true → ∃ t, exec (.tinkerFaultRestart cl) s = .next t ∧ (t.cluster cl).serving = false ∧
      (t.cluster cl).services = (s.cluster cl).services ∧ t.thread (32 * cl + 16) 0 = Thread.fresh)) ∧
  (∀ (bank : Nat) (s : State),
    (∀ r o, (s.bank bank).role = .leaving r o → canLeave s bank = true → ∃ t, exec (.cacheBankWritebackEnd bank) s = .next t ∧
      (t.bank bank).role = .clearing (o.map (fun _ => r)) ∧ (t.bank bank).lines = [] ∧
      (t.bank bank).clearAt = s.cyc + 1024) ∧
    (canIdle s bank = true → exec (.bankIdle bank) s =
      .next (s.setBank bank { s.bank bank with role := .clearing none, clearAt := s.cyc + 1024 })) ∧
    (∀ o, (s.bank bank).role = .clearing o → canClear s bank = true → ∃ t, exec (.bankClearEnd bank) s = .next t ∧
      (t.bank bank).role = (match o with | some r => .alloc r | none => .free) ∧ (t.bank bank).fmt = 0 ∧
      (∀ k, k < 2 ^ 17 → t.byte (scratchKey (bank / 64) (bank % 64 * 2 ^ 17 + k)) = 0) ∧
      sameOutside s t (scratchKey (bank / 64) (bank % 64 * 2 ^ 17)) (2 ^ 17))) ∧
  (∀ (cl rid : Nat) (s : State), canSample s cl = true → s.clusterRegions cl = [rid] →
    ∃ t, exec (.poolSamplingInterval cl) s = .next t ∧ ∀ b ∈ s.regionPool rid cl,
      (t.bank b).sampled = 0 ∧ (t.bank b).hits = 0 ∧ (t.bank b).shadowHits = 0 ∧
      (t.bank b).role = (match s.poolChange rid cl with
        | some (k, role) => if k = b then role else (s.bank b).role
        | none => (s.bank b).role))

/-! ### Containment, waking and stops of the machine's own -/

/-- R6, R339 to R342, R355, R356, R363: an uncorrectable error poisons its word or resets its cluster; the scrubber logs what it
meets; a cluster reset empties the cluster's engines and stops its regions, a drain timeout resets likewise, and its end clears
the cluster; a failed die link stops the live regions placed on both its dies until it is retrained; a failed port stops the
regions that are placed on both sides of the cut, and the threads whose requests need it. The scrubber's source number 2 is log
entry 6 and `Region.farPkgs` log entry 107 (both DESIGN CHOICE); that a reset ends exactly 65,536 cycles later is the model's choice
within R339's bound. -/
def Obligations.FaultyUnitsAreContained : Prop :=
  (∀ (key : Nat) (s : State), realKey key = true →
    exec (.uncorrectableError key) s = .next { s with
      poison := NatSet.add s.poison (key / 8), alavis := { s.alavis with uncorrected := s.alavis.uncorrected + 1 } } ∧
    (s.poison.contains (key / 8) = true →
      exec (.scrubAccess key) s = .next (s.logEvent 2 fPoison (s.logAddr key).1 (s.logAddr key).2)) ∧
    exec (.scrubAccess (2 ^ 61 + key)) s = .next { s with alavis := { s.alavis with corrected := s.alavis.corrected + 1 } }) ∧
  (∀ (cl : Nat) (cause : Fin 3) (s : State), cl < 576 →
    (∃ t, exec (.clusterReset cl cause) s = .next t ∧ (t.cluster cl).resetAt = some (s.cyc + 65536) ∧
      (t.cluster cl).copyQ = [] ∧ (t.cluster cl).copies = [] ∧ (t.cluster cl).mxQ = [] ∧ (t.cluster cl).mxRun = none ∧
      (t.cluster cl).tkQ = [] ∧ t.thread (32 * cl + 16) 0 = Thread.fresh ∧
      ∀ rid r, rid ∈ s.clusterRegions cl → s.region? rid = some r → (t.region? rid).map (·.stopDue) = some true) ∧
    (canTimeout s cl = true → exec (.drainTimeout cl) s = exec (.clusterReset cl 1) s) ∧
    (canClearCluster s cl = true → ∃ t, exec (.clusterClearEnd cl) s = .next t ∧ t.cluster cl = Cluster.fresh ∧
      (∀ sa, sa < scratchBytes → t.byte (scratchKey cl sa) = 0) ∧
      ∀ b, b < 48 → (t.bank (bankKey cl b)).role = if b < 32 then .home else .free)) ∧
  (∀ (x y : Fin 4) (s : State),
    (linked x.val y.val = true → s.linksDown.contains (linkCode x.val y.val) = false →
      ∃ t, exec (.dieLinkFailure x y) s = .next t ∧ t.linksDown = NatSet.add s.linksDown (linkCode x.val y.val) ∧
        ∀ rid r, s.region? rid = some r → r.live = true → x.val ∈ s.diesOf rid → y.val ∈ s.diesOf rid →
          (t.region? rid).map (·.stopDue) = some true) ∧
    exec (.dieLinkRetrain x y) s = .next { s with linksDown := s.linksDown.filter (fun c => c ≠ linkCode x.val y.val) }) ∧
  (∀ (port : Fin 16) (s : State),
    let s0 := { s with portsDown := NatSet.add s.portsDown port.val }
    let s1 := s0.stopFar
    ((∀ r ∈ s1.reqs, s1.cutReq r = none) → exec (.porrokPortDown port) s = .next s1) ∧
    (∀ r p, s1.reqs = [r] → s1.cutReq r = some p →
      exec (.porrokPortDown port) s = .next (s1.failReq r (fltAt fLinkDown (r.eaOf s1 p)))) ∧
    s1.portsDown = s0.portsDown ∧ s1.reqs = s.reqs ∧
    (∀ rid r k, s.region? rid = some r → r.live = true → (r.teams.any (fun (_, t) => t.st = .placed)) = true → k ∈ r.farPkgs →
      s0.pkgReach k = false → (s1.region? rid).map (·.stopDue) = some true) ∧
    (Config.partnerId port.val ≠ s.host.pkgId → exec (.porrokPortRetrain port) s =
      .next { s with portsDown := s.portsDown.filter (fun p => p ≠ port.val) }))

/-- R22, R44, R97, R112, R285, R304, R328: a parked thread whose condition holds is ready for its next turn; a thread whose next
bundle exceeds its allowance stops with ALLOWANCE_END, or in a tournament parks at the round barrier; a waiting notice enters
the launching core's completion queue; a rendezvous arrival counts; a word that encodes no instruction and a bundle address
outside the code stop the thread with their faults. -/
def Obligations.ThreadsWakeStopAndAreNotified : Prop :=
  (∀ (cid slot : Nat) (s : State), canWake s cid slot = true →
    exec (.parkedBundleReissue cid slot) s = .next (s.setThread cid slot { s.thread cid slot with
      state := .ready, reason := 0, waitOn := [], notBefore := max (s.thread cid slot).notBefore (s.cyc + 1) })) ∧
  (∀ (cid slot : Nat) (s : State), canAllowanceEnd s cid slot = true →
    (s.entrantOf cid = none → exec (.allowanceEnd cid slot) s =
      .next (stopThread s cid slot (fltAt fAllowanceEnd 0) (s.thread cid slot).fetchAt)) ∧
    ((s.entrantOf cid).isSome = true → ∃ t, exec (.allowanceEnd cid slot) s = .next t ∧
      (t.thread cid slot).state = .parked ∧ (t.thread cid slot).barrier = true ∧ t.mem = s.mem)) ∧
  (∀ (rid cid : Nat) (w : Word) (l : List Word) (s : State) (r : Region), canNotice s rid = true → s.region? rid = some r →
    r.notices = w :: l → r.launcher = some cid → (s.core cid).region = some r.parentRid →
    ∃ t, exec (.noticePush rid) s = .next t ∧ (t.region? rid).map (·.notices) = some l ∧
      (t.core cid).comp = (s.core cid).comp ++ [w]) ∧
  (∀ (n : Nat) (s : State) (a : RvWait), s.arrivals[n]? = some a → s.arrivalReady a = true →
    (s.team? a.rid a.team).isSome = true →
    let p := s.point a.rid a.team a.point
    ∃ t, exec (.rvArrivalCount n) s = .next t ∧ t.arrivals = s.arrivals.eraseIdx n ∧
      t.point a.rid a.team a.point = (if p.expect = some (p.arrivals + 1) ∧ p.bytes = 0 then
        { p with arrivals := 0, phase := (p.phase + 1) % 2 ^ 32, phaseAt := s.cyc + 1 }
        else { p with arrivals := p.arrivals + 1 }) ∧
      (a.slot < 16 → Table.find (t.thread a.cid a.slot).rv a.point = some (p.phase, true))) ∧
  (∀ (word : BitVec 32) (addr : Word) (s : State),
    let s0 := { s with bun := Bun.none }
    let bit := if word.toNat / 2 ^ 30 % 2 = 1 then 2 ^ 32 else 0
    exec (.unassignedOpcode word) s =
      .next (stopThread s0 s.bun.cid s.bun.slot (flt5 fIllegalOpcode (wrap64 (word.toNat + bit))) s.bun.addr) ∧
    exec (.bundleAddress addr) s = .next (stopThread s0 s.bun.cid s.bun.slot
      (flt5 fBundleAddress (s.thread s.bun.cid s.bun.slot).lastBundle) addr))

/-! ### The host link, the drovers and the module -/

/-- R343, R346 to R353, R364, R196: launch registers answer not ready, refused, full or accepted, in that order (log entry 48,
DEDUCED), and a value that names no aligned block in memory is refused with bit 0xFF; every other register and access waits for the link to be up (R364), and before that nothing comes of it; `rc_cmd` stops, holds and resumes
a live region, and is refused with a reserved bit set; a write to `nq_head` that leaves notices behind raises vector 0 again, which
a masked vector holds pending; features and package id may be written until the first launch; a migration begins, copies its lines and ends;
other registers store what is written; a host load gets memory's bytes and a host store writes exactly its own. -/
def Obligations.HostLinkActsOnRegionsAndMemory : Prop :=
  (∀ (p : Nat) (v : Word) (s : State), p < 8 →
    let n := v.toNat
    let answers (s : State) (w : Word) : State := s.modHost (fun h => { h with lres := Table.put 0 h.lres p w })
    ((s.up = false ∨ s.host.featWritten = false) → exec (.launchRegisterWrite p v) s = .next (answers s (lresWord 3 0 0))) ∧
    (s.up = true → s.host.featWritten = true → (n / 2 ^ 56 ≠ 0 ∨ n % 2 ^ 8 ≠ 0 ∨ backing n = .nothing) →
      exec (.launchRegisterWrite p v) s = .next (answers s (lresWord 1 0xFF 0))) ∧
    (s.up = true → s.host.featWritten = true → n / 2 ^ 56 = 0 → n % 2 ^ 8 = 0 → backing n ≠ .nothing →
      (∀ b, s.checkBlock n n none 0 (some p) none = .refused b →
        exec (.launchRegisterWrite p v) s = .next (answers s (lresWord 1 b 0))) ∧
      (∀ r ds, s.checkBlock n n none 0 (some p) none = .ok r ds →
        exec (.launchRegisterWrite p v) s = .next (if s.queued p < 1024 then answers (s.acceptRegion r ds []) (lresWord 0 0 r.id)
          else answers s (lresWord 2 0 0)))) ∧
    (s.up = true →
      exec (.lresRead p) s = .next (s.modHost (fun h => { h with answers := Table.get 0 h.lres p :: h.answers })))) ∧
  (∀ r b i, r < 8 → b < 2 ^ 8 → i < 2 ^ 16 → (lresWord r b i).toNat = 2 ^ 63 + r * 2 ^ 60 + b * 2 ^ 40 + i) ∧
  (∀ (s : State) (v : Word) (p off line : Nat) (acc : HostAccess) (die dw : Fin 4) (u : Fin 3), s.up = false →
    ∀ i ∈ ([.lresRead p, .rcStop v, .rcDisplace v, .rcResume v, .rcResRead, .migrationRequest v, .featAcceptWrite v,
        .pkgIdWrite v, .nqHeadWrite v, .registerWrite off v, .msixVectorUnmask u, .hostCxlAccess acc, .hostSnoop line,
        .droverConfigWrite die dw v] : List Instr), exec i s = .next s) ∧
  (∀ (v : Word) (s : State), s.up = true →
    let op := v.toNat / 2 ^ 62
    let clean := v.toNat / 2 ^ 16 % 2 ^ 46 = 0
    (∀ rid r, s.rcRegion = some rid → s.region? rid = some r → clean →
      (op = 1 → exec (.rcStop v) s = .next ((s.setRegion rid { r with stopDue := true }).rcDone 0)) ∧
      (op = 2 → r.hold = none →
        exec (.rcDisplace v) s = .next ((s.setRegion rid { r with hold := some (v.toNat % 2 ^ 16) }).rcDone 0)) ∧
      (op = 3 → exec (.rcResume v) s = .next ((s.setRegion rid { r with hold := none }).rcDone 0))) ∧
    (s.rcRegion = none → clean →
      (op = 1 → exec (.rcStop v) s = .next (s.rcDone 1)) ∧ (op = 2 → exec (.rcDisplace v) s = .next (s.rcDone 1)) ∧
      (op = 3 → exec (.rcResume v) s = .next (s.rcDone 1))) ∧
    (op = 0 → exec (.rcResume v) s = .next (s.rcDone 2)) ∧
    (¬ clean → (op = 1 → exec (.rcStop v) s = .next (s.rcDone 2)) ∧ (op = 2 → exec (.rcDisplace v) s = .next (s.rcDone 2)) ∧
      (op = 3 → exec (.rcResume v) s = .next (s.rcDone 2))) ∧
    exec .rcResRead s = .next (s.modHost (fun h => { h with answers := h.rcRes :: h.answers })) ∧
    (∀ m, s.migWanted v = some m →
      exec (.migrationRequest v) s = .next (s.modHost (fun h => { h with mig := some m, migRes := wrap64 (2 ^ 63) }))) ∧
    (s.host.locked = false →
      exec (.featAcceptWrite v) s = .next (s.modHost (fun h => { h with featAccept := v &&& 0x3F, featWritten := true })) ∧
      exec (.pkgIdWrite v) s = .next (s.modHost (fun h => { h with pkgId := v.toNat % 2 ^ 12 }))) ∧
    (s.host.locked = true → exec (.featAcceptWrite v) s = .next s ∧ exec (.pkgIdWrite v) s = .next s) ∧
    (∃ t, exec (.nqHeadWrite v) s = .next t ∧ t.host.nqHead = v ∧ (v.toNat % 2 ^ 32 = s.host.nqTail → t.host.vec0Out = false) ∧
      (v.toNat % 2 ^ 32 ≠ s.host.nqTail →
        (s.host.masked.contains 0 = false → t.host.vec0Out = true ∧ Table.get 0 t.host.sent 0 = Table.get 0 s.host.sent 0 + 1) ∧
        (s.host.masked.contains 0 = true → t.host.pending.contains 0 = true ∧ t.host.sent = s.host.sent))) ∧
    exec (.registerWrite 0x200 v) s = .next (s.modHost (fun h => { h with nqBase := wrap64 (v.toNat / 4096 * 4096) })) ∧
    (∀ k, k < 4096 → exec (.registerWrite (0x8000 + 8 * k) v) s =
      .next (s.modHost (fun h => { h with route := Table.put 0 h.route k (wrap64 (v.toNat % 2 ^ 16)) }))) ∧
    exec (.registerWrite 0xC0 v) s = .next (s.modHost (fun h => { h with rcArg := v })) ∧
    exec (.registerWrite 0x100 v) s = .next (s.modHost (fun h => { h with migBlock := v })) ∧
    exec (.registerWrite 0x108 v) s = .next (s.modHost (fun h => { h with migVa := v })) ∧
    exec (.registerWrite 0x110 v) s = .next (s.modHost (fun h => { h with migPa := v }))) ∧
  (∀ (s : State) (m : Migration), s.host.mig = some m →
    (s.wfMem → canCopyLine s = true → (m.copied + 1) * 128 < m.size →
      ∃ t, exec .migrationLineCopy s = .next t ∧
        t.read (m.new + 128 * m.copied) 128 = s.read (m.old + 128 * m.copied) 128 ∧
        sameOutside s t (m.new + 128 * m.copied) 128 ∧ t.host.mig = some { m with copied := m.copied + 1 }) ∧
    (canEndMigration s = true → ∃ t, exec .migrationEnd s = .next t ∧ t.host.mig = none ∧ t.host.migRes = 0 ∧ sameBytes s t)) ∧
  (∀ (v : Fin 3) (s : State), s.up = true → exec (.hostCxlAccess (.mask v)) s = .next (s.modHost (fun h =>
    { h with masked := NatSet.add h.masked v.val }))) ∧
  (∀ (v : Fin 3) (s : State), s.up = true → ∃ t, exec (.msixVectorUnmask v) s = .next t ∧
    t.host.masked = s.host.masked.filter (fun x => x ≠ v.val) ∧
    (s.host.pending.contains v.val = true → Table.get 0 t.host.sent v.val = Table.get 0 s.host.sent v.val + 1)) ∧
  (∀ (off : Nat) (s : State), s.up = true → exec (.hostCxlAccess (.readReg off)) s = .next (s.answer (s.hostReg off)) ∧
    s.hostReg 0 = 0x3F ∧ s.hostReg 0x8 = s.host.featAccept ∧ s.hostReg 0xD0 = s.host.rcRes ∧ s.hostReg 0x18 = 0) ∧
  (∀ (hpa : Nat) (s : State), s.up = true → let pa := s.hostPa hpa
    s.hostLine pa = true → hostMemory pa = true →
    (hostRange pa 8 = true → ∃ t, exec (.hostCxlAccess (.load hpa 8)) s = .next t ∧ sameBytes s t ∧
      t.host.answers = wrap64 (s.read (s.fwd pa) 8) :: s.host.answers) ∧
    (∀ bs, hostRange pa bs.length = true → s.wfMem → ∃ t, exec (.hostCxlAccess (.store hpa bs)) s = .next t ∧
      t.read (s.fwd pa) bs.length = bytesNat bs ∧ sameOutside s t (s.fwd pa) bs.length)) ∧
  (∀ (line : Nat) (s : State), s.up = true → backing (128 * line) = .host → s.hostLine (128 * line) = true →
    ∃ t, exec (.hostSnoop line) s = .next t ∧ sameBytes s t ∧ ∀ e ∈ t.banks, ∀ l ∈ e.2.lines, l.line ≠ line)

/-- R357, R358: a drover register keeps its defined bits; an entry taken from the ring writes its tag, 56 zero bytes and its row
to the next slot of its destination's buffer and nothing else; the 32nd row of a buffer, and a drained ring, have the counts written
and then the head. R359 to R364: Alavis keeps a power cap of 1.2 to 2.8 kW, answers
reads, steps the clock down by its rule and back up by 25 MHz to 1,500 (log entry 9, DESIGN CHOICE), takes the sensors in the order
of log entry 19 (DESIGN CHOICE), takes firmware whose checks pass and logs any other (source 3, code 2: log entry 6, DESIGN CHOICE), and a module reset leaves no region, no
thread and the host's registers at reset, with the pending firmware bank active, and the third failed boot turns back to the other bank;
LPDDR6 upkeep changes nothing. -/
def Obligations.DroversAndModuleManagement : Prop :=
  (∀ (die dw : Fin 4) (v : Word) (s : State), s.up = true → Table.sorted s.host.drover = true →
    ∃ t, exec (.droverConfigWrite die dw v) s = .next t ∧ t.droverReg die.val dw.val =
      (if dw.val ≤ 1 then v.toNat % 2 ^ 56 / 4096 * 4096 else if dw.val = 2 then v.toNat % 2 else v.toNat % 2 ^ 56)) ∧
  (∀ (die : Fin 4) (s : State) (r : Region) (d : Nat) (row : List (Nat × Bool)),
    let a := (s.destAt die.val d).buf + 64 + s.destRows die.val d * (64 + (s.destAt die.val d).row)
    s.wfMem → s.host.mig = none → s.ringClear die.val = true → s.droverReg die.val 2 = 1 → s.droverRegion die.val = some r →
    0 < s.ringWaits die.val → s.ringAhead die.val ≤ 4096 → s.droverAct die.val r = .send d row →
    s.destRows die.val d + 1 < 32 →
    (s.droverReg die.val 1 + 32 * d + 32 ≤ a ∨ a + 64 + 8 * row.length ≤ s.droverReg die.val 1 + 32 * d) →
    ∃ t, exec (.droverEntryTake die) s = .next t ∧
      t.dw a = s.dw (s.droverReg die.val 0 + 32 * (s.ringNext die.val % 4096) + 8) ∧
      (∀ i, 1 ≤ i → i < 8 → t.dw (a + 8 * i) = 0) ∧
      (∀ i v b, row[i]? = some (v, b) → t.dw (a + 64 + 8 * i) = v % 2 ^ 64 ∧ t.poison.contains (a / 8 + 8 + i) = b) ∧ sameOutside s t a (64 + 8 * row.length) ∧
      Table.get 0 (t.drover die.val).pending d = Table.get 0 (s.drover die.val).pending d + 1) ∧
  (∀ (die : Fin 4) (s : State) (r : Region) (d : Nat) (row : List (Nat × Bool)),
    let buf := (s.destAt die.val d).buf
    let last := buf + 64 + 31 * (64 + (s.destAt die.val d).row) + 64 + 8 * row.length
    let head := s.droverReg die.val 0 + 0x20008
    let entry := s.droverReg die.val 1 + 32 * d
    s.wfMem → s.host.mig = none → s.ringClear die.val = true → s.droverReg die.val 2 = 1 → s.droverRegion die.val = some r →
    s.ringAhead die.val ≤ 4096 → Table.sorted (s.drover die.val).pending = true →
    (head + 8 ≤ buf ∨ last ≤ head) → (entry + 32 ≤ buf ∨ last ≤ entry) →
    (0 < s.ringWaits die.val → s.droverAct die.val r = .send d row → s.destRows die.val d = 31 →
      ∃ t, exec (.droverEntryTake die) s = .next t ∧ t.dw buf = 32 ∧ t.dw head = (s.ringNext die.val + 1) % 2 ^ 32 ∧
        Table.get 0 (t.drover die.val).pending d = 0 ∧ (t.drover die.val).taken = 0) ∧
    (s.ringWaits die.val = 0 → ∀ n, (s.drover die.val).pending = [(d, n)] → s.countsClear die.val [d] = true →
      ∃ t, exec (.droverEntryTake die) s = .next t ∧ t.dw buf = s.destRows die.val d % 2 ^ 64 ∧ t.dw head = s.ringNext die.val ∧
        (t.drover die.val).pending = [] ∧ (t.drover die.val).taken = 0)) ∧
  (∀ (mw sensor n ch : Nat) (msg : List Byte) (s : State),
    (1200000 ≤ mw → mw ≤ 2800000 → exec (.pldmPowerCapSet mw) s = .next { s with alavis := { s.alavis with capMw := mw } }) ∧
    (¬ (1200000 ≤ mw ∧ mw ≤ 2800000) → exec (.pldmPowerCapSet mw) s = .next s) ∧
    (∀ v, s.alavis.sensors[sensor]? = some v → sensor < 2 ^ 16 → exec (.pldmSensorRead sensor) s = .next
      { s with alavis := { s.alavis with replies := [(wrapI v).toNat] :: s.alavis.replies } }) ∧
    exec (.mctpControl msg) s = .next { s with alavis := { s.alavis with
      replies := (Config.mctpReply msg).map (·.toNat) :: s.alavis.replies } } ∧
    (∀ e, s.alavis.log.find? (fun e => e.seq = n) = some e → exec (.eventLogRead n) s = .next
      { s with alavis := { s.alavis with replies := e.dws :: s.alavis.replies } }) ∧
    exec (.lpddr6Refresh ch) s = .next s ∧ exec (.lpddr6Retrain ch) s = .next s) ∧
  (∀ (vals : List Int) (s : State), ∃ t, exec (.telemetrySample vals) s = .next t ∧ t.alavis.sensors = vals ∧
    t.alavis.micros = s.alavis.micros + 1000 ∧
    t.alavis.clockMhz = (if ∃ x ∈ vals.take 4, 105 < x then 600
      else if (s.alavis.capMw : Int) < vals.getD 6 0 then max 600 (s.alavis.clockMhz - 25)
      else min 1500 (s.alavis.clockMhz + 25))) ∧
  (∀ s : State, (∃ x ∈ s.alavis.sensors.take 4, 120 < x) → ∃ t, exec .thermalReset s = .next t ∧ t.up = false ∧
    t.regions = [] ∧ t.threads = [] ∧ t.host = HostRegs.reset) ∧
  (∀ (verified : Bool) (s : State), ∃ t, exec (.moduleReset verified) s = .next t ∧ t.up = verified ∧ t.regions = [] ∧
    t.threads = [] ∧ t.host = HostRegs.reset ∧ t.alavis.active = s.alavis.nextActive ∧
    (verified = true → t.alavis.failedBoots = 0 ∧ t.alavis.nextActive = s.alavis.nextActive) ∧
    (verified = false → s.alavis.failedBoots < 2 → t.alavis.failedBoots = s.alavis.failedBoots + 1 ∧
      t.alavis.nextActive = s.alavis.nextActive) ∧
    (verified = false → s.alavis.failedBoots = 2 → t.alavis.failedBoots = 0 ∧ t.alavis.nextActive = 1 - s.alavis.nextActive)) ∧
  (∀ (fw : FirmwareBundle) (s : State),
    (fw.ed25519Ok = true → fw.mldsaOk = true → s.alavis.rollback ≤ fw.version → exec (.firmwareUpdate fw) s = .next
      { s with alavis := { s.alavis with banks := s.alavis.banks.set (1 - s.alavis.active) ⟨fw.version, fw.digest⟩,
                                         nextActive := 1 - s.alavis.active } }) ∧
    (¬ (fw.ed25519Ok = true ∧ fw.mldsaOk = true ∧ s.alavis.rollback ≤ fw.version) →
      exec (.firmwareUpdate fw) s = .next (s.logEvent 3 2 (wrap64 fw.version) 0))) ∧
  (∀ (nonce : BitVec 256) (s : State), ∃ t sigs, exec (.quoteRequest nonce) s = .next t ∧
    t.alavis.replies = ([nonce.toNat, ((s.alavis.banks[s.alavis.active]?).map (fun b => b.digest.toNat)).getD 0,
      s.host.featAccept.toNat, Config.fuseState, Config.serialNumber] ++ sigs) :: s.alavis.replies)

/-! ### Issue, write-back, faults -/

/-- R20, R22 to R24, R93: a step takes what the environment has in store first. A lone word fetched by a thread whose decoding
is i runs exec i in the state in which its bundle begins; so does the word of the slot that owns the turn of the next core with
a ready thread. Of a pair, the control word's effect comes first, then the arithmetic word's, and the bundle ends. -/
def Obligations.StepRunsTheDecodedInstruction : Prop :=
  (∀ (i : Instr) (rest : List Turn) (s : State), s.agenda = .ev i :: rest → step s = exec i { s with agenda := rest }) ∧
  (∀ (cid slot w : Nat) (i : Instr) (rest : List Turn) (s : State) (r : Region), s.agenda = .issue cid slot :: rest →
    let s0 := { s with agenda := rest }
    let a := (s.thread cid slot).fetchAt
    s.regionOf cid = some r → s0.fetchBundle r cid slot = .lone w → decodeWord w = .ok i →
    step s = exec i ((s0.fetchUse r cid a.toNat).beginBundle cid slot a (a + 4) 1 w)) ∧
  (∀ (cid slot w : Nat) (i : Instr) (s : State) (r : Region), s.agenda = [] → s.up = true → s.nextCore = some cid →
    let s0 := { s with turn := cid + 1 }
    let a := (s.thread cid slot).fetchAt
    s.regionOf cid = some r → s.roundHeld cid = false → (s.core cid).long = false → slot = s.owner cid →
    s0.candidateAt r cid false slot = some (slot, .lone w) → decodeWord w = .ok i →
    step s = exec i ((s0.fetchUse r cid a.toNat).beginBundle cid slot a (a + 4) 1 w)) ∧
  (∀ (cid slot c b : Nat) (i j : Instr) (rest : List Turn) (s s1 s2 : State) (r : Region), s.agenda = .issue cid slot :: rest →
    let s0 := { s with agenda := rest }
    let a := (s.thread cid slot).fetchAt
    let begun := (s0.fetchUse r cid a.toNat).beginBundle cid slot a (a + 8) 2 c
    s.regionOf cid = some r → s0.fetchBundle r cid slot = .pair c b → decodeWord c = .ok i → decodeWord b = .ok j →
    gate begun [(i, issueW5 c false), (j, issueW5 b true)] = none → exec i (begun.enter [i, j]) = .next s1 → s1.bun.out = .ok →
    exec j s1 = .next s2 → step s = .next (finish begun s2))

/-- R42, R82, R337: in user mode a supervisor instruction, and `WRSR` to `allow`, `seed` or `mxprog`, stop the thread with
PRIVILEGE, the word in word 5 (R44). -/
def Obligations.SupervisorFormsRaisePrivilegeInUserMode : Prop :=
  ∀ (a b : Reg) (g : Fin 8) (sr : Fin 64) (s : State), s.bun.active = false → s.bun.again = false → isSup s.bun.cid = false →
    ∀ i ∈ ([.segset a b g, .ctxsave a, .ctxload a, .eret] ++
        (if sr.val = 7 ∨ sr.val = 9 ∨ sr.val = 13 then [.wrsr b sr] else []) : List Instr),
      bundleOk s [i] = true →
      exec i s = .next (stopThread { s with bun := Bun.none } s.bun.cid s.bun.slot
        (flt5 fPrivilege (wrap64 (s.bun.word % 2 ^ 32))) s.bun.addr)

/-- R41, R42, R44 to R46, R76: for every instruction that has a word, the checks of its lone bundle run in this order, and the
first that fails decides the fault: ILLEGAL_BUNDLE, FEATURE_ABSENT, PRIVILEGE, ILLEGAL_OPERAND, PENDING_READ; word 5 holds the
word, with bit 32 for an arithmetic word. -/
def Obligations.IssueChecksDecideTheFaultInTheirOrder : Prop :=
  ∀ (i : Instr) (s : State), (encodeChunks i).isSome = true → s.bun.active = false → s.bun.again = false →
    let w5 := wrap64 (s.bun.word % 2 ^ 32 + (if i.shape.arith then 2 ^ 32 else 0))
    let stops (code : Nat) : Prop := exec i s = .next (stopThread { s with bun := Bun.none } s.bun.cid s.bun.slot
      (flt5 code w5) s.bun.addr)
    (bundleOk s [i] = false → stops fIllegalBundle) ∧
    (bundleOk s [i] = true → featOk s i = false → stops fFeatureAbsent) ∧
    (bundleOk s [i] = true → featOk s i = true → privOk s i = false → stops fPrivilege) ∧
    (bundleOk s [i] = true → featOk s i = true → privOk s i = true → operandOk s i = false → stops fIllegalOperand) ∧
    (bundleOk s [i] = true → featOk s i = true → privOk s i = true → operandOk s i = true → pendingOk s i = false →
      stops fPendingRead)

/-- R73, R74, R91: the frame of every instruction that only computes in registers. Once it has issued, memory with its full
bits and poison, banks, engines, requests and flits are as before, every register still holds its old value, and so do all
other threads and cores; what it computes waits in write-backs of its own destination, due four cycles later. -/
def Obligations.RegisterInstructionsChangeNothingElse : Prop :=
  ∀ (i : Instr) (s t : State), i.inRegisters = true → Issues i s → s.bun.slot < 16 → exec i s = .next t →
    t.mem = s.mem ∧ t.full = s.full ∧ t.poison = s.poison ∧ t.banks = s.banks ∧ t.slices = s.slices ∧
    t.clusters = s.clusters ∧ t.reqs = s.reqs ∧ t.flits = s.flits ∧ t.host = s.host ∧ t.alavis = s.alavis ∧
    (∀ c k, k < 16 → t.threadRegs c k = s.threadRegs c k) ∧ (∀ c, t.coreRegs c = s.coreRegs c) ∧
    (∀ c k, k < 16 → (c ≠ s.bun.cid ∨ k ≠ s.bun.slot) → t.thread c k = s.thread c k) ∧
    (∀ c, c ≠ s.bun.cid → t.core c = s.core c) ∧
    (t.thread s.bun.cid s.bun.slot).icnt = (s.thread s.bun.cid s.bun.slot).icnt + s.bun.words ∧
    ∃ l, t.wbs = s.wbs ++ l ∧ (∀ w ∈ l, w.due = s.cyc + 4 ∧ w.cid = s.bun.cid ∧ w.slot = s.bun.slot) ∧
      (l.map (·.act) = [] ∨ (∃ d v, i.shape.gd = some d ∧ l.map (·.act) = s.dest d.val v) ∨
        (∃ d v, i.shape.vd = some d ∧ l.map (·.act) = s.vdest d v))

/-- R72 to R75: a write whose cycle has come sets its register and nothing else; `p0` stays zero; a write that is not due
waits. -/
def Obligations.WriteBackSetsExactlyItsRegister : Prop :=
  ∀ (s : State) (w : Wb) (r : Nat) (v : Word), s.wbs = [w] → w.act = .gpr r v → w.slot < 16 → r < 64 →
    Table.canon 0 (s.thread w.cid w.slot).regs = true → Table.canon 0 (s.core w.cid).regs = true →
    let t := s.writeBack
    (s.cyc < w.due → t = s) ∧
    (w.due ≤ s.cyc → t.wbs = [] ∧ t.reg w.cid w.slot r = (if r = 0 then 0 else v) ∧
      (∀ c k q, k < 16 → q < 64 → (q ≠ r ∨ c ≠ w.cid ∨ (r < 32 ∧ k ≠ w.slot)) → t.reg c k q = s.reg c k q) ∧
      t.mem = s.mem ∧ t.reqs = s.reqs ∧ t.regions = s.regions ∧ t.clusters = s.clusters ∧ t.banks = s.banks ∧
      (∀ c k q, t.vreg c k q = s.vreg c k q))

/-- R75: of any number of writes of one register that are due in one write-back cycle exactly one takes effect: that of the
lowest slot, and of those of one thread the one issued last; general registers, `y` and `w` registers (R247) alike. A lost load
still completes and its request ends, which ends its pending state. Pushes into a queue register do not collide: all enter. -/
def Obligations.CollidingWritesKeepExactlyOne : Prop :=
  ∀ s : State, (∀ x ∈ s.wbs, x.due ≤ s.cyc → x.slot < 16 ∧ (x.act.target.isSome = true ∨ ∃ k v, x.act = .qpush k v)) →
    (∀ c k, k < 16 → Table.canon 0 (s.thread c k).regs = true ∧ Table.canon 0 (s.thread c k).vregs = true) →
    (∀ c, Table.canon 0 (s.core c).regs = true ∧ Table.canon 0 (s.core c).yregs = true ∧
      Table.canon 0 (s.core c).wregs = true) →
    let t := s.writeBack
    (∀ w ∈ s.wbs, w.due ≤ s.cyc →
      (∀ x ∈ s.wbs, x.due ≤ s.cyc → x.sameReg w → x = w ∨ w.slot < x.slot ∨ (w.slot = x.slot ∧ x.seq < w.seq)) →
      (∀ r v, 1 ≤ r → r < 64 → w.act.puts r v → t.reg w.cid w.slot r = v) ∧
      (∀ r v, w.act.putsY r v → t.vreg w.cid w.slot r = v) ∧
      (∀ r v, w.act.putsW r v → t.wreg w.cid r = v)) ∧
    (∀ w ∈ s.wbs, w.due ≤ s.cyc → ∀ id, ((∃ r v, w.act = .load r v id) ∨ ∃ r v l, w.act = .vload r v l id) →
      t.req? id = none ∧ ∀ o ∈ (t.thread w.cid w.slot).outs, o.id = id → o.done = true) ∧
    (∀ c k q, (s.core c).queue? k = some q → ∃ l, (t.core c).queue? k = some { q with elems := q.elems ++ l } ∧
      List.Perm l ((s.wbs.filter (fun x => x.due ≤ s.cyc && x.cid = c)).filterMap (fun x => x.act.pushed k)))

/-- R96, R324, R325, R327, R331: taking a fault. A user thread that neither is a handler or foreman nor serves pages, and whose
writes are performed, stops with the fault's code; its record stands in the lowest free mailbox slot of its child region, with the bundle's address, the fault's
words, the region and team, and the `icnt` and `now` that the bundle observed; no other byte of memory changes but the region's
status doubleword, and no other thread changes. While the thread has writes that are not performed the record waits for them, and
memory is as before (that it waits for nothing but writes is log entry 103, DEDUCED). -/
def Obligations.TakingAFaultStoresItsRecordAndStopsTheThread : Prop :=
  (∀ (s : State) (cid slot m pa leaf bits : Nat) (f : Flt) (bundle : Word) (r : Region), s.wfMem → isSup cid = false →
    1 ≤ slot → slot < 16 → (s.core cid).region = some r.id → s.region? r.id = some r → (s.core cid).foremanGone = false →
    (s.thread cid slot).handler = false → (s.thread cid slot).supplier = .none → r.pagers = [] → r.fdom = false →
    s.recReady cid slot s.nextId = true → (s.core cid).pins = [] → r.late = [] → r.root = false → r.freeMail = some m → r.field 24 ≠ 0 → f.code < 256 →
    s.translate r 0 (r.field 24 + 64 * m) true false = .pa pa leaf bits →
    (r.blockPa + 144 ≤ pa ∨ pa + 64 ≤ r.blockPa + 136) →
    let t := stopThread s cid slot f bundle
    (t.thread cid slot).state = .stopped ∧ (t.thread cid slot).code = f.code ∧
    (t.region? r.id).map (·.mail) = some (NatSet.add r.mail m) ∧
    t.dw pa = (recWord0 f.code 0 slot cid s.host.pkgId).toNat ∧ t.dw (pa + 8) = bundle.toNat ∧ t.dw (pa + 16) = f.w2.toNat ∧
    t.dw (pa + 24) = r.id % 2 ^ 16 + (s.core cid).team % 2 ^ 32 * 2 ^ 16 ∧ t.dw (pa + 32) = f.w4.toNat ∧
    t.dw (pa + 40) = f.w5.toNat ∧ t.dw (pa + 48) = (s.thread cid slot).obs % 2 ^ 64 ∧
    t.dw (pa + 56) = s.nowOf cid slot % 2 ^ 64 ∧
    (∀ a, ¬ (pa ≤ a ∧ a < pa + 64) → ¬ (r.blockPa + 136 ≤ a ∧ a < r.blockPa + 144) → t.byte a = s.byte a) ∧
    (∀ c k, k < 16 → (c ≠ cid ∨ k ≠ slot) → t.thread c k = s.thread c k)) ∧
  (∀ (s : State) (cid slot : Nat) (f : Flt) (bundle : Word) (r : Region), isSup cid = false → 1 ≤ slot → slot < 16 →
    (s.core cid).region = some r.id → s.region? r.id = some r → (s.core cid).foremanGone = false →
    (s.thread cid slot).handler = false → (s.thread cid slot).supplier = .none → r.pagers = [] →
    s.recReady cid slot s.nextId = false →
    let t := stopThread s cid slot f bundle
    (t.thread cid slot).state = .stopped ∧ t.mem = s.mem ∧ t.recPending cid slot = true ∧
    (t.region? r.id).map (·.late) = some (r.late ++ [⟨cid, slot, s.nextId, 0, mkRecord f.code 0 cid slot s.host.pkgId r.id
      (s.core cid).team bundle f.w2 f.w4 f.w5 (s.thread cid slot).obs (s.nowOf cid slot)⟩]))

/-! ### The machine as a whole -/

/-- R71, R80, R92, R109, R114, R236, R265, R280, R348, R364: the machine right after reset has no region, every slot empty with
registers zero, no core placed, every scratch byte zero and every home bank and pool bank in its role, the arrays held by nobody,
cycle 0, no feature accepted; and memory is in its canonical form. (That an unlisted byte outside scratch and stack reads as 0 is
the model's choice, log entry 1, DESIGN CHOICE; that the registers of slots in which nothing has been placed are 0 is log entry 78,
PRESUMED: R80 gives zeros at thread start.) -/
def Obligations.ResetLeavesAnEmptyMachine : Prop :=
  State.reset.wfMem ∧ State.reset.cyc = 0 ∧ State.reset.regions = [] ∧ State.reset.reqs = [] ∧ State.reset.wbs = [] ∧
  State.reset.host.featAccept = 0 ∧ State.reset.host.locked = false ∧
  (∀ cid slot r, State.reset.reg cid slot r = 0 ∧ State.reset.vreg cid slot r = 0) ∧
  (∀ cid slot, (State.reset.thread cid slot).state = .empty ∧ (State.reset.core cid).region = none) ∧
  (∀ cl sa, State.reset.byte (scratchKey cl sa) = 0) ∧
  (∀ cl b, b < 64 → (State.reset.bank (bankKey cl b)).role = if b < 32 then .home else .free) ∧
  (∀ cl, (State.reset.cluster cl).mxHolder = none ∧ (State.reset.cluster cl).tkHolder = none) ∧
  State.reset.nextCore = none

/-- R26 to R40, R43, R82, R91: words of the specification's worked encodings decode to the instructions they stand for. -/
def Obligations.WorkedEncodingsDecode : Prop :=
  decodeWord 0xC09420F0 = .ok (.add false .sat 37 2 3) ∧
  decodeWord 0xC1104049 = .ok (.sub true .usat 4 4 1) ∧
  decodeWord 0xC2188244 = .ok (.divu false 6 8 9) ∧
  decodeWord 0xC6085194 = .ok (.bfxSx false 2 5 6) ∧
  decodeWord 0xC90420C4 = .ok (.cmp .ltu true 1 2 3) ∧
  decodeWord 0xC0F08006 = .ok (.mov false 60 8) ∧
  decodeWord 0x80040181 = .ok (.rdsr 1 1) ∧
  decodeWord 0x800031C7 = .ok (.wrsr 3 7) ∧
  decodeWord 0x811C0048 = .ok (.movi 7 0x48) ∧
  decodeWord 0x821F4567 = .ok (.movhi 7 0x34567) ∧
  decodeWord 0x80000000 = .ok .nop ∧ decodeWord 0x40000000 = .ok .nopArith ∧ decodeWord 0xBB000280 = .ok .taskend

/-- DECODE AND ENCODE AGREE (R26 to R40): every well-formed instruction that has a word decodes, from its word with either
`lone` bit, to itself, and the word has 32 bits. -/
def Obligations.DecodingTheEncodedInstructionGivesItBack : Prop :=
  ∀ (i : Instr) (lone : Bool) (w : Nat), i.wf = true → encode lone i = some w → w < 2 ^ 32 ∧ decodeWord w = .ok i

/-- THE INVARIANT THAT EVERY STEP KEEPS: memory stays in its canonical form, in whatever state a step begins. -/
def Obligations.EveryStepKeepsMemoryCanonical : Prop :=
  ∀ s t : State, s.wfMem → step s = .next t → t.wfMem
end

