-- ==== Sys2Proof/Laws/Issue.lean ====
section
/-! SUPPORT. What `run` does with an instruction that issues, once for every meaning: the end of a bundle, the values of
its operands, and the acts it registers. -/

namespace Sys2Proof.Machine

/-! ### The gate -/

/-- An instruction that issues meets nothing before its effect. -/
theorem gate_none {i : Instr} {s : State} (h : Issues i s) (w5 : Word) : gate s [(i, w5)] = none := by
  obtain ⟨-, h2, h3, h4, h5, h6, h7, h8, -, -⟩ := h
  simp [gate, pairingFault, issueFault, firstBad, h2, h3, h4, h5, h6, h7, h8]

/-! ### Bundles that differ in their progress only -/

@[simp] theorem advanced_bun (s : State) (b : Bun) (vals : List (Nat × Word)) (npc : Word) (h1 : b.cid = s.bun.cid)
    (h2 : b.slot = s.bun.slot) (h3 : b.words = s.bun.words) (h4 : b.addr = s.bun.addr) :
    State.advanced { s with bun := b } vals npc = s.advanced vals npc := by
  have key : ∀ (l : List (Nat × Word)) (x : State) (c k : Nat), commitPops { x with bun := b } c k l
      = { commitPops x c k l with bun := b } := by
    intro l
    induction l with
    | nil => intro x c k; rfl
    | cons e t ih =>
      intro x c k
      have h0 : commitPops { x with bun := b } c k (e :: t)
          = commitPops { (commitPops x c k [e]) with bun := b } c k t := rfl
      rw [h0, ih]
      rfl
  have e1 : State.advanced { s with bun := b } vals npc =
      { (let y := commitPops s s.bun.cid s.bun.slot vals
         let x := y.modThread s.bun.cid s.bun.slot (fun t => t.advanced b npc y.cyc)
         match (x.core s.bun.cid).region with
         | some rid => x.modRegion rid (fun r => r.addWords s.bun.words s.bun.cid s.bun.slot)
         | none => x) with bun := Bun.none } := by
    unfold State.advanced
    dsimp only
    rw [h1, h2, h3, key]
    generalize commitPops s s.bun.cid s.bun.slot vals = x
    simp only [State.modThread, State.setThread, State.thread, State.core, State.modRegion, State.region?, State.setRegion]
    cases (Table.get Core.fresh x.cores s.bun.cid).region with
    | none => rfl
    | some rid =>
      dsimp only
      cases Table.find x.regions rid <;> simp only []
  rw [e1]
  unfold State.advanced
  simp only [Thread.advanced, h1, h3, h4] <;> rfl

/-! ### The end of a bundle -/

/-- The end of a bundle that pops from no frozen queue. -/
theorem takesEffect_thawed {s0 s1 : State} (h : (s0.core s1.bun.cid).frozenAmong s1.bun.vals = none) :
    takesEffect s0 s1 = match s1.bun.out with
      | .fault f => stopThread (s0.seenBy s1.bun) s1.bun.cid s1.bun.slot f s1.bun.addr
      | .drop va bits => (keepControl s1 (s1.thread s1.bun.cid s1.bun.slot).obs).dropThread
          ((s1.core s1.bun.cid).region.getD 0) s1.bun.cid s1.bun.slot va bits s1.bun.addr
          (s1.thread s1.bun.cid s1.bun.slot).obs
      | .ok => commit s1
      | .park _ _ => commit s1 := by
  unfold takesEffect
  simp only [h, ite_self] <;> cases s1.bun.out <;> rfl

/-- The end of a bundle whose effect is `ok`. -/
theorem run_ok {i : Instr} {s s1 : State} {eff : State → Res} (h : Issues i s) (he : eff (s.enter [i]) = .ok s1)
    (hb : s1.bun = { (s.enter [i]).bun with npc := s1.bun.npc })
    (ha : (s1.thread s.bun.cid s.bun.slot).allow = (s.thread s.bun.cid s.bun.slot).allow) :
    run i s eff = .next (s.ended i s1 s1.bun.npc) := by
  have hg := gate_none h (issueW5 s.bun.word i.shape.arith)
  obtain ⟨h1, h2, -, -, -, -, -, -, h9, h10⟩ := h
  have c : s1.bun.cid = s.bun.cid := by rw [hb]; rfl
  have sl : s1.bun.slot = s.bun.slot := by rw [hb]; rfl
  have wd : s1.bun.words = s.bun.words := by rw [hb]; rfl
  have o : s1.bun.out = .ok := by rw [hb]; rfl
  have ag : s1.bun.again = false := by rw [hb]; exact h2
  have vs : s1.bun.vals = peekVals s [i] := by rw [hb]; simp [State.enter, h2]
  have hal : allowOk s1 = true := by
    unfold allowOk at h10 ⊢
    dsimp only at h10 ⊢
    rw [c, sl, ha, ag, wd]
    simpa [h2] using h10
  have hf : (({ s with bun := Bun.none } : State).core s1.bun.cid).frozenAmong s1.bun.vals = none := by rw [c, vs]; exact h9
  unfold run
  simp only [h1, Bool.false_eq_true, if_false, hg, he, State.after]
  unfold finish
  simp only [o, hal, if_true, takesEffect_thawed hf, commit, ag, Bool.false_eq_true, if_false, vs, Bool.false_or, State.ended,
    State.advanced]
  rfl

/-! ### Operands -/

/-- The value an entered bundle reads for a source field of its one instruction. -/
theorem enter_src {i : Instr} {s : State} (h : Issues i s) (r : Reg) (hr : r ∈ i.shape.gs) :
    (s.enter [i]).src r = s.operand r := by
  obtain ⟨-, h2, -, -, -, -, -, h8, -, -⟩ := h
  have hv : (s.enter [i]).bun.vals = peekVals s [i] := by simp [State.enter, h2]
  have hreg : (s.enter [i]).reg (s.enter [i]).bun.cid (s.enter [i]).bun.slot r.val = s.reg s.bun.cid s.bun.slot r.val := rfl
  have hfind : ∀ l : List Nat, (∀ x ∈ l, ((s.core s.bun.cid).srcKind x).pops = true) → 
      Table.find (l.filterMap (fun x => ((s.core s.bun.cid).peek ((s.core s.bun.cid).srcKind x)).map (fun v => (x, v)))) r.val
        = if r.val ∈ l then (s.core s.bun.cid).peek ((s.core s.bun.cid).srcKind r.val) else none := by
    intro l
    induction l with
    | nil => intro _; rfl
    | cons a t ih =>
      intro hl
      have iht := ih (fun x hx => hl x (List.mem_cons_of_mem _ hx))
      rw [List.filterMap_cons]
      by_cases hra : r.val = a
      · subst hra
        cases hp : (s.core s.bun.cid).peek ((s.core s.bun.cid).srcKind r.val) with
        | none =>
          simp only [Option.map_none, iht, hp]
          split <;> simp
        | some v => simp [Table.find]
      · cases hp : (s.core s.bun.cid).peek ((s.core s.bun.cid).srcKind a) with
        | none => simp only [Option.map_none, iht]; simp [hra]
        | some v =>
          simp only [Option.map_some, Table.find, iht]
          have : ¬ a = r.val := fun e => hra e.symm
          simp [this, hra]
  have ha : (s.enter [i]).bun.again = false := h2
  unfold State.src State.srcN State.operand State.myCore
  rw [hv, hreg, if_neg (by simp [ha])]
  have hpf : ∀ x ∈ popFields s [i], ((s.core s.bun.cid).srcKind x).pops = true := by
    intro x hx; simp [popFields] at hx; exact hx.2
  unfold peekVals
  simp only []
  rw [hfind _ hpf]
  by_cases hm : r.val ∈ popFields s [i]
  · simp only [hm, if_true]
    cases hp : (s.core s.bun.cid).peek ((s.core s.bun.cid).srcKind r.val) <;> simp
  · simp only [hm, if_false]
    have hk : ((s.core s.bun.cid).srcKind r.val).pops = false := by
      by_contra hc
      apply hm
      simp only [popFields, List.flatMap_cons, List.flatMap_nil, List.append_nil, List.mem_filter, List.mem_map]
      exact ⟨⟨r, hr, rfl⟩, by simpa using hc⟩
    have : (s.core s.bun.cid).peek ((s.core s.bun.cid).srcKind r.val) = none := by
      cases hs : (s.core s.bun.cid).srcKind r.val <;> simp [hs, SrcKind.pops] at hk <;> rfl
    simp [this]

/-! ### Acts -/

/-- One act. -/
theorem wb_eq (s : State) (a : WbAct) (n : Nat) : s.wb a n = s.withActs [a] n := rfl

/-- No act. -/
@[simp] theorem withActs_nil (s : State) (n : Nat) : s.withActs [] n = s := by simp [State.withActs]

/-- The acts of a destination. -/
theorem writeD_eq (s : State) (d : Nat) (v : Word) : s.writeD d v = s.withActs (s.dest d v) := by
  unfold State.writeD State.dest State.myCore
  cases (s.core s.bun.cid).dstKind d <;> simp [wb_eq]
  split <;> simp

/-- The acts of a vector destination. -/
theorem writeV_eq (s : State) (d : Reg) (v : Nat) : s.writeV d.val v = s.withActs (s.vdest d v) := by
  unfold State.writeV State.vdest State.myCore
  split <;> rfl

/-- Acts of an entered bundle are those of the state before it. -/
theorem enter_withActs (s : State) (is : List Instr) (acts : List WbAct) (n : Nat) :
    (s.enter is).withActs acts n = { s.withActs acts n with bun := (s.enter is).bun } := rfl

/-- An effect that only registers acts ends the bundle as `issued`. -/
theorem run_acts {i : Instr} {s : State} {eff : State → Res} {acts : List WbAct} (h : Issues i s)
    (he : eff (s.enter [i]) = .ok ((s.enter [i]).withActs acts)) : run i s eff = .next (s.issued i acts) := by
  rw [run_ok h he rfl rfl]
  unfold State.issued State.ended
  rw [enter_withActs]
  exact congrArg _ (advanced_bun _ _ _ _ rfl rfl rfl rfl)

/-- An effect that writes a general destination with a value. -/
theorem run_dest {i : Instr} {s : State} {eff : State → Res} {d : Reg} {v : Word} (h : Issues i s)
    (he : eff (s.enter [i]) = .ok ((s.enter [i]).writeD d.val v)) : run i s eff = .next (s.issued i (s.dest d.val v)) :=
  run_acts h (by rw [he, writeD_eq]; rfl)

/-- An effect that transfers control, and registers acts. -/
theorem run_jump {i : Instr} {s : State} {eff : State → Res} {acts : List WbAct} {target : Word} (h : Issues i s)
    (he : eff (s.enter [i]) = .ok (((s.enter [i]).withActs acts).goto target)) :
    run i s eff = .next (s.jumped i acts target) := by
  rw [run_ok h he rfl rfl]
  unfold State.jumped State.ended State.goto
  rw [enter_withActs]
  exact congrArg _ (advanced_bun (s.withActs acts) _ _ _ rfl rfl rfl rfl)

end Sys2Proof.Machine
end

