-- ==== Sys2Proof/Laws/Lines.lean ====
section
/-! SUPPORT. What the operations on lines can change: a grant's return, an access that an engine or a walk makes seen, and the
removal of copies touch banks and slices alone, so memory, requests, threads, clusters and regions are as before. -/

namespace Sys2Proof.Machine

/-- The state is the same but for its banks and slices. -/
def State.linesOnly (s t : State) : Prop := ∃ bs sl, t = { s with banks := bs, slices := sl }

theorem State.linesOnly_refl (s : State) : s.linesOnly s := ⟨s.banks, s.slices, rfl⟩

theorem State.linesOnly_trans {s t u : State} (h : s.linesOnly t) (k : t.linesOnly u) : s.linesOnly u := by
  obtain ⟨b, l, rfl⟩ := h
  obtain ⟨b', l', rfl⟩ := k
  exact ⟨b', l', rfl⟩

/-- A fold of such operations is one. -/
theorem State.linesOnly_foldl {α : Type} (f : State → α → State) (h : ∀ (s : State) (a : α), s.linesOnly (f s a)) :
    ∀ (l : List α) (s : State), s.linesOnly (l.foldl f s)
  | [], s => s.linesOnly_refl
  | a :: l, s => State.linesOnly_trans (h s a) (State.linesOnly_foldl f h l (f s a))

theorem State.stepSlice_lines (s : State) (k : Nat) : s.linesOnly (s.stepSlice k) := ⟨s.banks, _, rfl⟩
theorem State.modBank_lines (s : State) (k : Nat) (f : Bank → Bank) : s.linesOnly (s.modBank k f) := ⟨_, s.slices, rfl⟩
theorem State.modSlice_lines (s : State) (k : Nat) (f : Slice → Slice) : s.linesOnly (s.modSlice k f) := ⟨s.banks, _, rfl⟩
theorem State.invalidate_lines (s : State) (line : Nat) (keep : Option Nat) : s.linesOnly (s.invalidate line keep) :=
  ⟨_, s.slices, rfl⟩

theorem State.stepBack_lines (s : State) (l : L1Line) : s.linesOnly (s.stepBack l) := by
  unfold State.stepBack
  split
  · exact State.linesOnly_foldl _ (fun s _ => s.stepSlice_lines _) _ _
  · exact s.linesOnly_refl

/-- The return of a grant (R201). -/
theorem State.returnGrant_lines (s : State) (line : Nat) : s.linesOnly (s.returnGrant line) := by
  unfold State.returnGrant
  split
  · exact s.linesOnly_refl
  · split
    · exact s.linesOnly_refl
    · exact State.linesOnly_trans (s.stepBack_lines _) (State.modBank_lines _ _ _)

/-- An access of another agent to a line (R201). -/
theorem State.otherAccess_lines (s : State) (line cid : Nat) : s.linesOnly (s.otherAccess line cid) := by
  unfold State.otherAccess
  dsimp only
  split
  · exact s.modSlice_lines _ _
  · exact s.linesOnly_refl

/-- A read of a line by an agent (R201, R222). -/
theorem State.lineSeen_lines (s : State) (line cid : Nat) : s.linesOnly (s.lineSeen line cid) := by
  unfold State.lineSeen
  refine State.linesOnly_trans ?_ (State.otherAccess_lines _ _ _)
  cases s.grantOf line with
  | none => exact s.linesOnly_refl
  | some c =>
    dsimp only
    split
    · exact s.linesOnly_refl
    · exact s.returnGrant_lines _

theorem State.rangeSeen_lines (s : State) (pa n cid : Nat) : s.linesOnly (s.rangeSeen pa n cid) :=
  State.linesOnly_foldl _ (fun s l => s.lineSeen_lines l cid) _ _

/-- What a write at home does to the copies and grants of its lines (R197, R201). -/
theorem State.lineTaken_lines (s : State) (line : Nat) : s.linesOnly (s.lineTaken line) := by
  unfold State.lineTaken
  refine State.linesOnly_trans (State.linesOnly_trans (s.returnGrant_lines line) (State.otherAccess_lines _ line engineCid)) ?_
  dsimp only
  split
  · exact State.linesOnly_refl _
  · exact State.invalidate_lines _ _ _

theorem State.rangeTaken_lines (s : State) (pa n : Nat) : s.linesOnly (s.rangeTaken pa n) :=
  State.linesOnly_foldl _ State.lineTaken_lines _ _

/-- Such operations leave memory as it is. -/
theorem State.linesOnly_mem {s t : State} (h : s.linesOnly t) : t.mem = s.mem := by
  obtain ⟨b, k, rfl⟩ := h; rfl

@[simp] theorem State.rangeSeen_mem (s : State) (pa n cid : Nat) : (s.rangeSeen pa n cid).mem = s.mem :=
  State.linesOnly_mem (s.rangeSeen_lines _ _ _)
@[simp] theorem State.rangeTaken_mem (s : State) (pa n : Nat) : (s.rangeTaken pa n).mem = s.mem :=
  State.linesOnly_mem (s.rangeTaken_lines _ _)

/-- A read by an engine (R222). -/
theorem State.engSees_lines (s : State) (key : Nat) : s.linesOnly (s.engSees key) := s.lineSeen_lines _ _

/-- The reads of a page walk (R366). -/
theorem State.walkRecalls_lines (s : State) (g : Region) (r : Req) : s.linesOnly (s.walkRecalls g r) :=
  State.linesOnly_foldl _ (fun s line => s.lineSeen_lines line r.cid) _ _

/-- The reads of a matrix step, or of a save area (R222). -/
theorem State.foldEngSees_lines (s : State) (l : List Nat) : s.linesOnly (l.foldl State.engSees s) :=
  State.linesOnly_foldl _ State.engSees_lines l s

/-- Such an operation leaves every walk, and so every translation, as it is. -/
theorem walkFrom_lines {s t : State} (h : s.linesOnly t) (va : Nat) :
    ∀ (l : List (Nat × Nat × Nat)) (table : Nat), walkFrom t va l table = walkFrom s va l table
  | [], _ => rfl
  | (level, lo, w) :: rest, table => by
    have e : t.dw (t.fwd (table + 8 * (va / 2 ^ lo % 2 ^ w))) = s.dw (s.fwd (table + 8 * (va / 2 ^ lo % 2 ^ w))) := by
      obtain ⟨b, k, rfl⟩ := h; rfl
    simp only [walkFrom, e, walkFrom_lines h va rest]

theorem State.translate_lines {s t : State} (h : s.linesOnly t) (r : Region) (die va : Nat) (w x : Bool) :
    t.translate r die va w x = s.translate r die va w x := by
  simp only [State.translate, State.walk, walkFrom_lines h]

end Sys2Proof.Machine
end

