-- ==== Sys2Proof/Laws/Table.lean ====
section
/-! SUPPORT. The laws of sparse tables: reading after writing, and the canonical form. Those of `find` after `set` hold of every
table; those of `erase` and `put` need the keys to rise. -/

namespace Sys2Proof.Machine

/-! ### Reading after writing, on every table -/

@[simp] theorem Table.find_set_self {α : Type} (t : List (Nat × α)) (a : Nat) (v : α) :
    Table.find (Table.set t a v) a = some v := by
  induction t with
  | nil => simp [Table.set, Table.find]
  | cons e t ih =>
    obtain ⟨k, w⟩ := e
    unfold Table.set
    split
    · simp [Table.find]
    · split
      · simp [Table.find]
      · next h1 h2 => simp [Table.find, show ¬ k = a from fun h => h2 h.symm, ih]

theorem Table.find_set_ne {α : Type} (t : List (Nat × α)) {a b : Nat} (h : b ≠ a) (v : α) :
    Table.find (Table.set t a v) b = Table.find t b := by
  induction t with
  | nil => simp [Table.set, Table.find, h.symm]
  | cons e t ih =>
    obtain ⟨k, w⟩ := e
    unfold Table.set
    split
    · simp [Table.find, h.symm]
    · split
      · next h1 h2 => subst h2; simp [Table.find, h.symm]
      · simp only [Table.find, ih]

@[simp] theorem Table.get_set_self {α : Type} (d : α) (t : List (Nat × α)) (a : Nat) (v : α) :
    Table.get d (Table.set t a v) a = v := by simp [Table.get]

theorem Table.get_set_ne {α : Type} (d : α) (t : List (Nat × α)) {a b : Nat} (h : b ≠ a) (v : α) :
    Table.get d (Table.set t a v) b = Table.get d t b := by simp only [Table.get, Table.find_set_ne t h]

/-! ### Rising keys -/

/-- Rising keys: every later key is greater than an earlier one. -/
theorem Table.sorted_iff {α : Type} (t : List (Nat × α)) :
    Table.sorted t = true ↔ t.Pairwise (fun x y => x.1 < y.1) := by
  induction t with
  | nil => simp [Table.sorted]
  | cons e t ih =>
    cases t with
    | nil => simp [Table.sorted]
    | cons f t =>
      simp only [Table.sorted, Bool.and_eq_true, decide_eq_true_eq, ih, List.pairwise_cons, List.mem_cons]
      constructor
      · rintro ⟨h, h1, h2⟩
        refine ⟨?_, h1, h2⟩
        rintro x (rfl | hx)
        · exact h
        · exact h.trans (h1 x hx)
      · rintro ⟨h, h1, h2⟩
        exact ⟨h f (Or.inl rfl), h1, h2⟩

theorem Table.sorted_filter {α : Type} (p : Nat × α → Bool) (t : List (Nat × α)) (h : Table.sorted t = true) :
    Table.sorted (t.filter p) = true := by
  rw [Table.sorted_iff] at h ⊢
  exact h.sublist List.filter_sublist

theorem Table.sorted_tail {α : Type} {e : Nat × α} {t : List (Nat × α)} (h : Table.sorted (e :: t) = true) :
    Table.sorted t = true := by
  rw [Table.sorted_iff] at h ⊢
  exact h.of_cons

/-- No key below the first is listed. -/
theorem Table.find_none_of_lt {α : Type} (t : List (Nat × α)) (a : Nat) (h : ∀ e ∈ t, a < e.1) : Table.find t a = none := by
  induction t with
  | nil => rfl
  | cons e t ih =>
    obtain ⟨k, w⟩ := e
    have hk : a < k := h (k, w) List.mem_cons_self
    rw [Table.find, if_neg (by omega)]
    exact ih (fun e he => h e (List.mem_cons_of_mem _ he))

theorem Table.erase_sublist {α : Type} (t : List (Nat × α)) (a : Nat) : (Table.erase t a).Sublist t := by
  induction t with
  | nil => exact List.Sublist.slnil
  | cons e t ih =>
    obtain ⟨k, w⟩ := e
    unfold Table.erase
    split
    · exact List.Sublist.refl _
    · split
      · exact List.sublist_cons_self _ _
      · exact ih.cons_cons _

theorem Table.find_erase_self {α : Type} (t : List (Nat × α)) (a : Nat) (h : Table.sorted t = true) :
    Table.find (Table.erase t a) a = none := by
  induction t with
  | nil => rfl
  | cons e t ih =>
    obtain ⟨k, w⟩ := e
    have hs := (Table.sorted_iff _).mp h
    have hl : ∀ e ∈ t, k < e.1 := (List.pairwise_cons.mp hs).1
    unfold Table.erase
    split
    · next h1 =>
      refine Table.find_none_of_lt _ _ (fun e he => ?_)
      rcases List.mem_cons.mp he with rfl | he
      · exact h1
      · exact h1.trans (hl e he)
    · split
      · next h1 h2 => subst h2; exact Table.find_none_of_lt _ _ hl
      · next h1 h2 => rw [Table.find, if_neg (fun h => h2 h.symm), ih (Table.sorted_tail h)]

theorem Table.find_erase_ne {α : Type} (t : List (Nat × α)) {a b : Nat} (h : b ≠ a) :
    Table.find (Table.erase t a) b = Table.find t b := by
  induction t with
  | nil => rfl
  | cons e t ih =>
    obtain ⟨k, w⟩ := e
    unfold Table.erase
    split
    · rfl
    · split
      · next h1 h2 => subst h2; simp [Table.find, h.symm]
      · simp only [Table.find, ih]

theorem Table.mem_set {α : Type} {t : List (Nat × α)} {a : Nat} {v : α} {e : Nat × α} (h : e ∈ Table.set t a v) :
    e = (a, v) ∨ e ∈ t := by
  induction t with
  | nil => simpa [Table.set] using h
  | cons f t ih =>
    obtain ⟨k, w⟩ := f
    unfold Table.set at h
    split at h
    · simpa using h
    · split at h
      · rcases List.mem_cons.mp h with h | h
        · exact Or.inl h
        · exact Or.inr (List.mem_cons_of_mem _ h)
      · rcases List.mem_cons.mp h with h | h
        · exact Or.inr (by simp [h])
        · exact (ih h).imp id (List.mem_cons_of_mem _)

theorem Table.sorted_set {α : Type} (t : List (Nat × α)) (a : Nat) (v : α) (h : Table.sorted t = true) :
    Table.sorted (Table.set t a v) = true := by
  induction t with
  | nil => rfl
  | cons e t ih =>
    obtain ⟨k, w⟩ := e
    have hs := (Table.sorted_iff _).mp h
    have hp := List.pairwise_cons.mp hs
    unfold Table.set
    split
    · next h1 => simp only [Table.sorted, h1, decide_true, Bool.true_and, h]
    · split
      · next h1 h2 =>
        subst h2
        exact (Table.sorted_iff _).mpr (List.pairwise_cons.mpr hp)
      · next h1 h2 =>
        refine (Table.sorted_iff _).mpr (List.pairwise_cons.mpr
          ⟨fun e he => ?_, (Table.sorted_iff _).mp (ih (Table.sorted_tail h))⟩)
        rcases Table.mem_set he with rfl | he
        · show k < a
          omega
        · exact hp.1 e he

theorem Table.sorted_erase {α : Type} (t : List (Nat × α)) (a : Nat) (h : Table.sorted t = true) :
    Table.sorted (Table.erase t a) = true :=
  (Table.sorted_iff _).mpr (((Table.sorted_iff _).mp h).sublist (Table.erase_sublist t a))

/-! ### The canonical form -/

theorem Table.canon_sorted {α : Type} [DecidableEq α] {d : α} {t : List (Nat × α)} (h : Table.canon d t = true) :
    Table.sorted t = true := (Bool.and_eq_true _ _ ▸ h).1

theorem Table.canon_iff {α : Type} [DecidableEq α] (d : α) (t : List (Nat × α)) :
    Table.canon d t = true ↔ Table.sorted t = true ∧ ∀ e ∈ t, e.2 ≠ d := by
  simp [Table.canon]

theorem Table.canon_filter {α : Type} [DecidableEq α] (d : α) (p : Nat × α → Bool) (t : List (Nat × α))
    (h : Table.canon d t = true) : Table.canon d (t.filter p) = true := by
  rw [Table.canon_iff] at h ⊢
  exact ⟨Table.sorted_filter p t h.1, fun e he => h.2 e (List.mem_filter.mp he).1⟩

/-- The canonical write keeps the canonical form. -/
theorem Table.canon_put {α : Type} [DecidableEq α] (d : α) (t : List (Nat × α)) (a : Nat) (v : α)
    (h : Table.canon d t = true) : Table.canon d (Table.put d t a v) = true := by
  rw [Table.canon_iff] at h ⊢
  unfold Table.put
  split
  · exact ⟨Table.sorted_erase t a h.1, fun e he => h.2 e ((Table.erase_sublist t a).subset he)⟩
  · next hv =>
    refine ⟨Table.sorted_set t a v h.1, fun e he => ?_⟩
    rcases Table.mem_set he with rfl | he
    · exact hv
    · exact h.2 e he

theorem Table.get_put_self {α : Type} [DecidableEq α] (d : α) (t : List (Nat × α)) (a : Nat) (v : α)
    (h : Table.canon d t = true) : Table.get d (Table.put d t a v) a = v := by
  unfold Table.put
  split
  · next hv => simp [Table.get, Table.find_erase_self t a (Table.canon_sorted h), hv]
  · exact Table.get_set_self d t a v

theorem Table.get_put_ne {α : Type} [DecidableEq α] (d : α) (t : List (Nat × α)) {a b : Nat} (h : b ≠ a) (v : α) :
    Table.get d (Table.put d t a v) b = Table.get d t b := by
  unfold Table.put
  split
  · simp only [Table.get, Table.find_erase_ne t h]
  · exact Table.get_set_ne d t h v

theorem Table.find_filter_of {α : Type} (p : Nat × α → Bool) (t : List (Nat × α)) (a : Nat)
    (h : ∀ v, p (a, v) = true) : Table.find (t.filter p) a = Table.find t a := by
  induction t with
  | nil => rfl
  | cons e t ih =>
    obtain ⟨k, w⟩ := e
    by_cases hk : k = a
    · subst hk; simp [h w, Table.find]
    · by_cases hp : p (k, w) = true <;> simp [hp, Table.find, hk, ih]

theorem Table.find_filter_not {α : Type} (p : Nat × α → Bool) (t : List (Nat × α)) (a : Nat)
    (h : ∀ v, p (a, v) = false) : Table.find (t.filter p) a = none := by
  induction t with
  | nil => rfl
  | cons e t ih =>
    obtain ⟨k, w⟩ := e
    by_cases hp : p (k, w) = true
    · have hk : ¬ k = a := by
        intro hk
        rw [hk, h w] at hp
        exact Bool.false_ne_true hp
      simp [hp, Table.find, hk, ih]
    · simp [hp, ih]

theorem Table.canon_clear {α : Type} [DecidableEq α] (d : α) (t : List (Nat × α)) (lo n : Nat)
    (h : Table.canon d t = true) : Table.canon d (Table.clear t lo n) = true := Table.canon_filter d _ t h

/-- A cleared key reads the default; every other key reads as before. -/
theorem Table.get_clear {α : Type} (d : α) (t : List (Nat × α)) (lo n a : Nat) :
    Table.get d (Table.clear t lo n) a = if lo ≤ a ∧ a < lo + n then d else Table.get d t a := by
  unfold Table.get Table.clear
  split
  · next h => rw [Table.find_filter_not _ _ _ (fun v => decide_eq_false (by dsimp only; omega))]; rfl
  · next h => rw [Table.find_filter_of _ _ _ (fun v => decide_eq_true (by dsimp only; omega))]

/-- Canonical tables that read alike are the same list. -/
theorem Table.canon_ext {α : Type} [DecidableEq α] (d : α) (t u : List (Nat × α)) (ht : Table.canon d t = true)
    (hu : Table.canon d u = true) (h : ∀ a, Table.get d t a = Table.get d u a) : t = u := by
  induction t generalizing u with
  | nil =>
    cases u with
    | nil => rfl
    | cons e u =>
      have := h e.1
      simp only [Table.get, Table.find, Option.getD_none, if_true, Option.getD_some] at this
      exact absurd this.symm (((Table.canon_iff d _).mp hu).2 e List.mem_cons_self)
  | cons e t ih =>
    obtain ⟨k, v⟩ := e
    obtain ⟨hts, htd⟩ := (Table.canon_iff d _).mp ht
    have htl := (List.pairwise_cons.mp ((Table.sorted_iff _).mp hts)).1
    cases u with
    | nil =>
      have := h k
      simp only [Table.get, Table.find, Option.getD_none, if_true, Option.getD_some] at this
      exact absurd this (htd (k, v) List.mem_cons_self)
    | cons f u =>
      obtain ⟨l, w⟩ := f
      obtain ⟨hus, hud⟩ := (Table.canon_iff d _).mp hu
      have hul := (List.pairwise_cons.mp ((Table.sorted_iff _).mp hus)).1
      have hkl : k = l := by
        rcases Nat.lt_trichotomy k l with hlt | he | hlt
        · have := h k
          rw [show Table.get d ((l, w) :: u) k = d from by
            unfold Table.get
            rw [Table.find_none_of_lt _ _ (fun e he => by
              rcases List.mem_cons.mp he with rfl | he
              · exact hlt
              · exact hlt.trans (hul e he))]
            rfl] at this
          simp only [Table.get, Table.find, if_true, Option.getD_some] at this
          exact absurd this (htd (k, v) List.mem_cons_self)
        · exact he
        · have := h l
          rw [show Table.get d ((k, v) :: t) l = d from by
            unfold Table.get
            rw [Table.find_none_of_lt _ _ (fun e he => by
              rcases List.mem_cons.mp he with rfl | he
              · exact hlt
              · exact hlt.trans (htl e he))]
            rfl] at this
          simp only [Table.get, Table.find, if_true, Option.getD_some] at this
          exact absurd this.symm (hud (l, w) List.mem_cons_self)
      subst hkl
      have hv : v = w := by
        have := h k
        simpa [Table.get, Table.find] using this
      subst hv
      rw [ih u ((Table.canon_iff d _).mpr ⟨Table.sorted_tail hts, fun e he => htd e (List.mem_cons_of_mem _ he)⟩)
        ((Table.canon_iff d _).mpr ⟨Table.sorted_tail hus, fun e he => hud e (List.mem_cons_of_mem _ he)⟩)]
      intro a
      have := h a
      by_cases ha : k = a
      · subst ha
        rw [show Table.get d t k = d from by unfold Table.get; rw [Table.find_none_of_lt _ _ htl]; rfl,
          show Table.get d u k = d from by unfold Table.get; rw [Table.find_none_of_lt _ _ hul]; rfl]
      · simpa [Table.get, Table.find, ha] using this

end Sys2Proof.Machine
end

