-- ==== Sys2Proof/Laws/State.lean ====
section
/-! SUPPORT. What each update of the state changes: one lemma for each field of State and each update, and what reads of the
records give after it. -/

namespace Sys2Proof.Machine

/-! ### Every other field is as before -/

@[simp] theorem State.setThread_cyc (s : State) (c k : Nat) (t : Thread) : (s.setThread c k t).cyc = s.cyc := rfl
@[simp] theorem State.setThread_skew (s : State) (c k : Nat) (t : Thread) : (s.setThread c k t).skew = s.skew := rfl
@[simp] theorem State.setThread_turn (s : State) (c k : Nat) (t : Thread) : (s.setThread c k t).turn = s.turn := rfl
@[simp] theorem State.setThread_agenda (s : State) (c k : Nat) (t : Thread) : (s.setThread c k t).agenda = s.agenda := rfl
@[simp] theorem State.setThread_bun (s : State) (c k : Nat) (t : Thread) : (s.setThread c k t).bun = s.bun := rfl
@[simp] theorem State.setThread_nextId (s : State) (c k : Nat) (t : Thread) : (s.setThread c k t).nextId = s.nextId := rfl
@[simp] theorem State.setThread_cores (s : State) (c k : Nat) (t : Thread) : (s.setThread c k t).cores = s.cores := rfl
@[simp] theorem State.setThread_clusters (s : State) (c k : Nat) (t : Thread) : (s.setThread c k t).clusters = s.clusters := rfl
@[simp] theorem State.setThread_banks (s : State) (c k : Nat) (t : Thread) : (s.setThread c k t).banks = s.banks := rfl
@[simp] theorem State.setThread_slices (s : State) (c k : Nat) (t : Thread) : (s.setThread c k t).slices = s.slices := rfl
@[simp] theorem State.setThread_regions (s : State) (c k : Nat) (t : Thread) : (s.setThread c k t).regions = s.regions := rfl
@[simp] theorem State.setThread_commits (s : State) (c k : Nat) (t : Thread) : (s.setThread c k t).commits = s.commits := rfl
@[simp] theorem State.setThread_reqs (s : State) (c k : Nat) (t : Thread) : (s.setThread c k t).reqs = s.reqs := rfl
@[simp] theorem State.setThread_wbs (s : State) (c k : Nat) (t : Thread) : (s.setThread c k t).wbs = s.wbs := rfl
@[simp] theorem State.setThread_flits (s : State) (c k : Nat) (t : Thread) : (s.setThread c k t).flits = s.flits := rfl
@[simp] theorem State.setThread_arrivals (s : State) (c k : Nat) (t : Thread) : (s.setThread c k t).arrivals = s.arrivals := rfl
@[simp] theorem State.setThread_reports (s : State) (c k : Nat) (t : Thread) : (s.setThread c k t).reports = s.reports := rfl
@[simp] theorem State.setThread_tallies (s : State) (c k : Nat) (t : Thread) : (s.setThread c k t).tallies = s.tallies := rfl
@[simp] theorem State.setThread_closeFlits (s : State) (c k : Nat) (t : Thread) : (s.setThread c k t).closeFlits = s.closeFlits := rfl
@[simp] theorem State.setThread_homeQ (s : State) (c k : Nat) (t : Thread) : (s.setThread c k t).homeQ = s.homeQ := rfl
@[simp] theorem State.setThread_mem (s : State) (c k : Nat) (t : Thread) : (s.setThread c k t).mem = s.mem := rfl
@[simp] theorem State.setThread_full (s : State) (c k : Nat) (t : Thread) : (s.setThread c k t).full = s.full := rfl
@[simp] theorem State.setThread_poison (s : State) (c k : Nat) (t : Thread) : (s.setThread c k t).poison = s.poison := rfl
@[simp] theorem State.setThread_frameTag (s : State) (c k : Nat) (t : Thread) : (s.setThread c k t).frameTag = s.frameTag := rfl
@[simp] theorem State.setThread_acceptNo (s : State) (c k : Nat) (t : Thread) : (s.setThread c k t).acceptNo = s.acceptNo := rfl
@[simp] theorem State.setThread_host (s : State) (c k : Nat) (t : Thread) : (s.setThread c k t).host = s.host := rfl
@[simp] theorem State.setThread_alavis (s : State) (c k : Nat) (t : Thread) : (s.setThread c k t).alavis = s.alavis := rfl
@[simp] theorem State.setThread_drovers (s : State) (c k : Nat) (t : Thread) : (s.setThread c k t).drovers = s.drovers := rfl
@[simp] theorem State.setThread_linksDown (s : State) (c k : Nat) (t : Thread) : (s.setThread c k t).linksDown = s.linksDown := rfl
@[simp] theorem State.setThread_portsDown (s : State) (c k : Nat) (t : Thread) : (s.setThread c k t).portsDown = s.portsDown := rfl
@[simp] theorem State.setThread_up (s : State) (c k : Nat) (t : Thread) : (s.setThread c k t).up = s.up := rfl

@[simp] theorem State.modThread_cyc (s : State) (c k : Nat) (f : Thread → Thread) : (s.modThread c k f).cyc = s.cyc := rfl
@[simp] theorem State.modThread_skew (s : State) (c k : Nat) (f : Thread → Thread) : (s.modThread c k f).skew = s.skew := rfl
@[simp] theorem State.modThread_turn (s : State) (c k : Nat) (f : Thread → Thread) : (s.modThread c k f).turn = s.turn := rfl
@[simp] theorem State.modThread_agenda (s : State) (c k : Nat) (f : Thread → Thread) : (s.modThread c k f).agenda = s.agenda := rfl
@[simp] theorem State.modThread_bun (s : State) (c k : Nat) (f : Thread → Thread) : (s.modThread c k f).bun = s.bun := rfl
@[simp] theorem State.modThread_nextId (s : State) (c k : Nat) (f : Thread → Thread) : (s.modThread c k f).nextId = s.nextId := rfl
@[simp] theorem State.modThread_cores (s : State) (c k : Nat) (f : Thread → Thread) : (s.modThread c k f).cores = s.cores := rfl
@[simp] theorem State.modThread_clusters (s : State) (c k : Nat) (f : Thread → Thread) : (s.modThread c k f).clusters = s.clusters := rfl
@[simp] theorem State.modThread_banks (s : State) (c k : Nat) (f : Thread → Thread) : (s.modThread c k f).banks = s.banks := rfl
@[simp] theorem State.modThread_slices (s : State) (c k : Nat) (f : Thread → Thread) : (s.modThread c k f).slices = s.slices := rfl
@[simp] theorem State.modThread_regions (s : State) (c k : Nat) (f : Thread → Thread) : (s.modThread c k f).regions = s.regions := rfl
@[simp] theorem State.modThread_commits (s : State) (c k : Nat) (f : Thread → Thread) : (s.modThread c k f).commits = s.commits := rfl
@[simp] theorem State.modThread_reqs (s : State) (c k : Nat) (f : Thread → Thread) : (s.modThread c k f).reqs = s.reqs := rfl
@[simp] theorem State.modThread_wbs (s : State) (c k : Nat) (f : Thread → Thread) : (s.modThread c k f).wbs = s.wbs := rfl
@[simp] theorem State.modThread_flits (s : State) (c k : Nat) (f : Thread → Thread) : (s.modThread c k f).flits = s.flits := rfl
@[simp] theorem State.modThread_arrivals (s : State) (c k : Nat) (f : Thread → Thread) : (s.modThread c k f).arrivals = s.arrivals := rfl
@[simp] theorem State.modThread_reports (s : State) (c k : Nat) (f : Thread → Thread) : (s.modThread c k f).reports = s.reports := rfl
@[simp] theorem State.modThread_tallies (s : State) (c k : Nat) (f : Thread → Thread) : (s.modThread c k f).tallies = s.tallies := rfl
@[simp] theorem State.modThread_closeFlits (s : State) (c k : Nat) (f : Thread → Thread) : (s.modThread c k f).closeFlits = s.closeFlits := rfl
@[simp] theorem State.modThread_homeQ (s : State) (c k : Nat) (f : Thread → Thread) : (s.modThread c k f).homeQ = s.homeQ := rfl
@[simp] theorem State.modThread_mem (s : State) (c k : Nat) (f : Thread → Thread) : (s.modThread c k f).mem = s.mem := rfl
@[simp] theorem State.modThread_full (s : State) (c k : Nat) (f : Thread → Thread) : (s.modThread c k f).full = s.full := rfl
@[simp] theorem State.modThread_poison (s : State) (c k : Nat) (f : Thread → Thread) : (s.modThread c k f).poison = s.poison := rfl
@[simp] theorem State.modThread_frameTag (s : State) (c k : Nat) (f : Thread → Thread) : (s.modThread c k f).frameTag = s.frameTag := rfl
@[simp] theorem State.modThread_acceptNo (s : State) (c k : Nat) (f : Thread → Thread) : (s.modThread c k f).acceptNo = s.acceptNo := rfl
@[simp] theorem State.modThread_host (s : State) (c k : Nat) (f : Thread → Thread) : (s.modThread c k f).host = s.host := rfl
@[simp] theorem State.modThread_alavis (s : State) (c k : Nat) (f : Thread → Thread) : (s.modThread c k f).alavis = s.alavis := rfl
@[simp] theorem State.modThread_drovers (s : State) (c k : Nat) (f : Thread → Thread) : (s.modThread c k f).drovers = s.drovers := rfl
@[simp] theorem State.modThread_linksDown (s : State) (c k : Nat) (f : Thread → Thread) : (s.modThread c k f).linksDown = s.linksDown := rfl
@[simp] theorem State.modThread_portsDown (s : State) (c k : Nat) (f : Thread → Thread) : (s.modThread c k f).portsDown = s.portsDown := rfl
@[simp] theorem State.modThread_up (s : State) (c k : Nat) (f : Thread → Thread) : (s.modThread c k f).up = s.up := rfl

@[simp] theorem State.setCore_cyc (s : State) (c : Nat) (x : Core) : (s.setCore c x).cyc = s.cyc := rfl
@[simp] theorem State.setCore_skew (s : State) (c : Nat) (x : Core) : (s.setCore c x).skew = s.skew := rfl
@[simp] theorem State.setCore_turn (s : State) (c : Nat) (x : Core) : (s.setCore c x).turn = s.turn := rfl
@[simp] theorem State.setCore_agenda (s : State) (c : Nat) (x : Core) : (s.setCore c x).agenda = s.agenda := rfl
@[simp] theorem State.setCore_bun (s : State) (c : Nat) (x : Core) : (s.setCore c x).bun = s.bun := rfl
@[simp] theorem State.setCore_nextId (s : State) (c : Nat) (x : Core) : (s.setCore c x).nextId = s.nextId := rfl
@[simp] theorem State.setCore_threads (s : State) (c : Nat) (x : Core) : (s.setCore c x).threads = s.threads := rfl
@[simp] theorem State.setCore_clusters (s : State) (c : Nat) (x : Core) : (s.setCore c x).clusters = s.clusters := rfl
@[simp] theorem State.setCore_banks (s : State) (c : Nat) (x : Core) : (s.setCore c x).banks = s.banks := rfl
@[simp] theorem State.setCore_slices (s : State) (c : Nat) (x : Core) : (s.setCore c x).slices = s.slices := rfl
@[simp] theorem State.setCore_regions (s : State) (c : Nat) (x : Core) : (s.setCore c x).regions = s.regions := rfl
@[simp] theorem State.setCore_commits (s : State) (c : Nat) (x : Core) : (s.setCore c x).commits = s.commits := rfl
@[simp] theorem State.setCore_reqs (s : State) (c : Nat) (x : Core) : (s.setCore c x).reqs = s.reqs := rfl
@[simp] theorem State.setCore_wbs (s : State) (c : Nat) (x : Core) : (s.setCore c x).wbs = s.wbs := rfl
@[simp] theorem State.setCore_flits (s : State) (c : Nat) (x : Core) : (s.setCore c x).flits = s.flits := rfl
@[simp] theorem State.setCore_arrivals (s : State) (c : Nat) (x : Core) : (s.setCore c x).arrivals = s.arrivals := rfl
@[simp] theorem State.setCore_reports (s : State) (c : Nat) (x : Core) : (s.setCore c x).reports = s.reports := rfl
@[simp] theorem State.setCore_tallies (s : State) (c : Nat) (x : Core) : (s.setCore c x).tallies = s.tallies := rfl
@[simp] theorem State.setCore_closeFlits (s : State) (c : Nat) (x : Core) : (s.setCore c x).closeFlits = s.closeFlits := rfl
@[simp] theorem State.setCore_homeQ (s : State) (c : Nat) (x : Core) : (s.setCore c x).homeQ = s.homeQ := rfl
@[simp] theorem State.setCore_mem (s : State) (c : Nat) (x : Core) : (s.setCore c x).mem = s.mem := rfl
@[simp] theorem State.setCore_full (s : State) (c : Nat) (x : Core) : (s.setCore c x).full = s.full := rfl
@[simp] theorem State.setCore_poison (s : State) (c : Nat) (x : Core) : (s.setCore c x).poison = s.poison := rfl
@[simp] theorem State.setCore_frameTag (s : State) (c : Nat) (x : Core) : (s.setCore c x).frameTag = s.frameTag := rfl
@[simp] theorem State.setCore_acceptNo (s : State) (c : Nat) (x : Core) : (s.setCore c x).acceptNo = s.acceptNo := rfl
@[simp] theorem State.setCore_host (s : State) (c : Nat) (x : Core) : (s.setCore c x).host = s.host := rfl
@[simp] theorem State.setCore_alavis (s : State) (c : Nat) (x : Core) : (s.setCore c x).alavis = s.alavis := rfl
@[simp] theorem State.setCore_drovers (s : State) (c : Nat) (x : Core) : (s.setCore c x).drovers = s.drovers := rfl
@[simp] theorem State.setCore_linksDown (s : State) (c : Nat) (x : Core) : (s.setCore c x).linksDown = s.linksDown := rfl
@[simp] theorem State.setCore_portsDown (s : State) (c : Nat) (x : Core) : (s.setCore c x).portsDown = s.portsDown := rfl
@[simp] theorem State.setCore_up (s : State) (c : Nat) (x : Core) : (s.setCore c x).up = s.up := rfl

@[simp] theorem State.modCore_cyc (s : State) (c : Nat) (f : Core → Core) : (s.modCore c f).cyc = s.cyc := rfl
@[simp] theorem State.modCore_skew (s : State) (c : Nat) (f : Core → Core) : (s.modCore c f).skew = s.skew := rfl
@[simp] theorem State.modCore_turn (s : State) (c : Nat) (f : Core → Core) : (s.modCore c f).turn = s.turn := rfl
@[simp] theorem State.modCore_agenda (s : State) (c : Nat) (f : Core → Core) : (s.modCore c f).agenda = s.agenda := rfl
@[simp] theorem State.modCore_bun (s : State) (c : Nat) (f : Core → Core) : (s.modCore c f).bun = s.bun := rfl
@[simp] theorem State.modCore_nextId (s : State) (c : Nat) (f : Core → Core) : (s.modCore c f).nextId = s.nextId := rfl
@[simp] theorem State.modCore_threads (s : State) (c : Nat) (f : Core → Core) : (s.modCore c f).threads = s.threads := rfl
@[simp] theorem State.modCore_clusters (s : State) (c : Nat) (f : Core → Core) : (s.modCore c f).clusters = s.clusters := rfl
@[simp] theorem State.modCore_banks (s : State) (c : Nat) (f : Core → Core) : (s.modCore c f).banks = s.banks := rfl
@[simp] theorem State.modCore_slices (s : State) (c : Nat) (f : Core → Core) : (s.modCore c f).slices = s.slices := rfl
@[simp] theorem State.modCore_regions (s : State) (c : Nat) (f : Core → Core) : (s.modCore c f).regions = s.regions := rfl
@[simp] theorem State.modCore_commits (s : State) (c : Nat) (f : Core → Core) : (s.modCore c f).commits = s.commits := rfl
@[simp] theorem State.modCore_reqs (s : State) (c : Nat) (f : Core → Core) : (s.modCore c f).reqs = s.reqs := rfl
@[simp] theorem State.modCore_wbs (s : State) (c : Nat) (f : Core → Core) : (s.modCore c f).wbs = s.wbs := rfl
@[simp] theorem State.modCore_flits (s : State) (c : Nat) (f : Core → Core) : (s.modCore c f).flits = s.flits := rfl
@[simp] theorem State.modCore_arrivals (s : State) (c : Nat) (f : Core → Core) : (s.modCore c f).arrivals = s.arrivals := rfl
@[simp] theorem State.modCore_reports (s : State) (c : Nat) (f : Core → Core) : (s.modCore c f).reports = s.reports := rfl
@[simp] theorem State.modCore_tallies (s : State) (c : Nat) (f : Core → Core) : (s.modCore c f).tallies = s.tallies := rfl
@[simp] theorem State.modCore_closeFlits (s : State) (c : Nat) (f : Core → Core) : (s.modCore c f).closeFlits = s.closeFlits := rfl
@[simp] theorem State.modCore_homeQ (s : State) (c : Nat) (f : Core → Core) : (s.modCore c f).homeQ = s.homeQ := rfl
@[simp] theorem State.modCore_mem (s : State) (c : Nat) (f : Core → Core) : (s.modCore c f).mem = s.mem := rfl
@[simp] theorem State.modCore_full (s : State) (c : Nat) (f : Core → Core) : (s.modCore c f).full = s.full := rfl
@[simp] theorem State.modCore_poison (s : State) (c : Nat) (f : Core → Core) : (s.modCore c f).poison = s.poison := rfl
@[simp] theorem State.modCore_frameTag (s : State) (c : Nat) (f : Core → Core) : (s.modCore c f).frameTag = s.frameTag := rfl
@[simp] theorem State.modCore_acceptNo (s : State) (c : Nat) (f : Core → Core) : (s.modCore c f).acceptNo = s.acceptNo := rfl
@[simp] theorem State.modCore_host (s : State) (c : Nat) (f : Core → Core) : (s.modCore c f).host = s.host := rfl
@[simp] theorem State.modCore_alavis (s : State) (c : Nat) (f : Core → Core) : (s.modCore c f).alavis = s.alavis := rfl
@[simp] theorem State.modCore_drovers (s : State) (c : Nat) (f : Core → Core) : (s.modCore c f).drovers = s.drovers := rfl
@[simp] theorem State.modCore_linksDown (s : State) (c : Nat) (f : Core → Core) : (s.modCore c f).linksDown = s.linksDown := rfl
@[simp] theorem State.modCore_portsDown (s : State) (c : Nat) (f : Core → Core) : (s.modCore c f).portsDown = s.portsDown := rfl
@[simp] theorem State.modCore_up (s : State) (c : Nat) (f : Core → Core) : (s.modCore c f).up = s.up := rfl

@[simp] theorem State.setCluster_cyc (s : State) (c : Nat) (x : Cluster) : (s.setCluster c x).cyc = s.cyc := rfl
@[simp] theorem State.setCluster_skew (s : State) (c : Nat) (x : Cluster) : (s.setCluster c x).skew = s.skew := rfl
@[simp] theorem State.setCluster_turn (s : State) (c : Nat) (x : Cluster) : (s.setCluster c x).turn = s.turn := rfl
@[simp] theorem State.setCluster_agenda (s : State) (c : Nat) (x : Cluster) : (s.setCluster c x).agenda = s.agenda := rfl
@[simp] theorem State.setCluster_bun (s : State) (c : Nat) (x : Cluster) : (s.setCluster c x).bun = s.bun := rfl
@[simp] theorem State.setCluster_nextId (s : State) (c : Nat) (x : Cluster) : (s.setCluster c x).nextId = s.nextId := rfl
@[simp] theorem State.setCluster_threads (s : State) (c : Nat) (x : Cluster) : (s.setCluster c x).threads = s.threads := rfl
@[simp] theorem State.setCluster_cores (s : State) (c : Nat) (x : Cluster) : (s.setCluster c x).cores = s.cores := rfl
@[simp] theorem State.setCluster_banks (s : State) (c : Nat) (x : Cluster) : (s.setCluster c x).banks = s.banks := rfl
@[simp] theorem State.setCluster_slices (s : State) (c : Nat) (x : Cluster) : (s.setCluster c x).slices = s.slices := rfl
@[simp] theorem State.setCluster_regions (s : State) (c : Nat) (x : Cluster) : (s.setCluster c x).regions = s.regions := rfl
@[simp] theorem State.setCluster_commits (s : State) (c : Nat) (x : Cluster) : (s.setCluster c x).commits = s.commits := rfl
@[simp] theorem State.setCluster_reqs (s : State) (c : Nat) (x : Cluster) : (s.setCluster c x).reqs = s.reqs := rfl
@[simp] theorem State.setCluster_wbs (s : State) (c : Nat) (x : Cluster) : (s.setCluster c x).wbs = s.wbs := rfl
@[simp] theorem State.setCluster_flits (s : State) (c : Nat) (x : Cluster) : (s.setCluster c x).flits = s.flits := rfl
@[simp] theorem State.setCluster_arrivals (s : State) (c : Nat) (x : Cluster) : (s.setCluster c x).arrivals = s.arrivals := rfl
@[simp] theorem State.setCluster_reports (s : State) (c : Nat) (x : Cluster) : (s.setCluster c x).reports = s.reports := rfl
@[simp] theorem State.setCluster_tallies (s : State) (c : Nat) (x : Cluster) : (s.setCluster c x).tallies = s.tallies := rfl
@[simp] theorem State.setCluster_closeFlits (s : State) (c : Nat) (x : Cluster) : (s.setCluster c x).closeFlits = s.closeFlits := rfl
@[simp] theorem State.setCluster_homeQ (s : State) (c : Nat) (x : Cluster) : (s.setCluster c x).homeQ = s.homeQ := rfl
@[simp] theorem State.setCluster_mem (s : State) (c : Nat) (x : Cluster) : (s.setCluster c x).mem = s.mem := rfl
@[simp] theorem State.setCluster_full (s : State) (c : Nat) (x : Cluster) : (s.setCluster c x).full = s.full := rfl
@[simp] theorem State.setCluster_poison (s : State) (c : Nat) (x : Cluster) : (s.setCluster c x).poison = s.poison := rfl
@[simp] theorem State.setCluster_frameTag (s : State) (c : Nat) (x : Cluster) : (s.setCluster c x).frameTag = s.frameTag := rfl
@[simp] theorem State.setCluster_acceptNo (s : State) (c : Nat) (x : Cluster) : (s.setCluster c x).acceptNo = s.acceptNo := rfl
@[simp] theorem State.setCluster_host (s : State) (c : Nat) (x : Cluster) : (s.setCluster c x).host = s.host := rfl
@[simp] theorem State.setCluster_alavis (s : State) (c : Nat) (x : Cluster) : (s.setCluster c x).alavis = s.alavis := rfl
@[simp] theorem State.setCluster_drovers (s : State) (c : Nat) (x : Cluster) : (s.setCluster c x).drovers = s.drovers := rfl
@[simp] theorem State.setCluster_linksDown (s : State) (c : Nat) (x : Cluster) : (s.setCluster c x).linksDown = s.linksDown := rfl
@[simp] theorem State.setCluster_portsDown (s : State) (c : Nat) (x : Cluster) : (s.setCluster c x).portsDown = s.portsDown := rfl
@[simp] theorem State.setCluster_up (s : State) (c : Nat) (x : Cluster) : (s.setCluster c x).up = s.up := rfl

@[simp] theorem State.modCluster_cyc (s : State) (c : Nat) (f : Cluster → Cluster) : (s.modCluster c f).cyc = s.cyc := rfl
@[simp] theorem State.modCluster_skew (s : State) (c : Nat) (f : Cluster → Cluster) : (s.modCluster c f).skew = s.skew := rfl
@[simp] theorem State.modCluster_turn (s : State) (c : Nat) (f : Cluster → Cluster) : (s.modCluster c f).turn = s.turn := rfl
@[simp] theorem State.modCluster_agenda (s : State) (c : Nat) (f : Cluster → Cluster) : (s.modCluster c f).agenda = s.agenda := rfl
@[simp] theorem State.modCluster_bun (s : State) (c : Nat) (f : Cluster → Cluster) : (s.modCluster c f).bun = s.bun := rfl
@[simp] theorem State.modCluster_nextId (s : State) (c : Nat) (f : Cluster → Cluster) : (s.modCluster c f).nextId = s.nextId := rfl
@[simp] theorem State.modCluster_threads (s : State) (c : Nat) (f : Cluster → Cluster) : (s.modCluster c f).threads = s.threads := rfl
@[simp] theorem State.modCluster_cores (s : State) (c : Nat) (f : Cluster → Cluster) : (s.modCluster c f).cores = s.cores := rfl
@[simp] theorem State.modCluster_banks (s : State) (c : Nat) (f : Cluster → Cluster) : (s.modCluster c f).banks = s.banks := rfl
@[simp] theorem State.modCluster_slices (s : State) (c : Nat) (f : Cluster → Cluster) : (s.modCluster c f).slices = s.slices := rfl
@[simp] theorem State.modCluster_regions (s : State) (c : Nat) (f : Cluster → Cluster) : (s.modCluster c f).regions = s.regions := rfl
@[simp] theorem State.modCluster_commits (s : State) (c : Nat) (f : Cluster → Cluster) : (s.modCluster c f).commits = s.commits := rfl
@[simp] theorem State.modCluster_reqs (s : State) (c : Nat) (f : Cluster → Cluster) : (s.modCluster c f).reqs = s.reqs := rfl
@[simp] theorem State.modCluster_wbs (s : State) (c : Nat) (f : Cluster → Cluster) : (s.modCluster c f).wbs = s.wbs := rfl
@[simp] theorem State.modCluster_flits (s : State) (c : Nat) (f : Cluster → Cluster) : (s.modCluster c f).flits = s.flits := rfl
@[simp] theorem State.modCluster_arrivals (s : State) (c : Nat) (f : Cluster → Cluster) : (s.modCluster c f).arrivals = s.arrivals := rfl
@[simp] theorem State.modCluster_reports (s : State) (c : Nat) (f : Cluster → Cluster) : (s.modCluster c f).reports = s.reports := rfl
@[simp] theorem State.modCluster_tallies (s : State) (c : Nat) (f : Cluster → Cluster) : (s.modCluster c f).tallies = s.tallies := rfl
@[simp] theorem State.modCluster_closeFlits (s : State) (c : Nat) (f : Cluster → Cluster) : (s.modCluster c f).closeFlits = s.closeFlits := rfl
@[simp] theorem State.modCluster_homeQ (s : State) (c : Nat) (f : Cluster → Cluster) : (s.modCluster c f).homeQ = s.homeQ := rfl
@[simp] theorem State.modCluster_mem (s : State) (c : Nat) (f : Cluster → Cluster) : (s.modCluster c f).mem = s.mem := rfl
@[simp] theorem State.modCluster_full (s : State) (c : Nat) (f : Cluster → Cluster) : (s.modCluster c f).full = s.full := rfl
@[simp] theorem State.modCluster_poison (s : State) (c : Nat) (f : Cluster → Cluster) : (s.modCluster c f).poison = s.poison := rfl
@[simp] theorem State.modCluster_frameTag (s : State) (c : Nat) (f : Cluster → Cluster) : (s.modCluster c f).frameTag = s.frameTag := rfl
@[simp] theorem State.modCluster_acceptNo (s : State) (c : Nat) (f : Cluster → Cluster) : (s.modCluster c f).acceptNo = s.acceptNo := rfl
@[simp] theorem State.modCluster_host (s : State) (c : Nat) (f : Cluster → Cluster) : (s.modCluster c f).host = s.host := rfl
@[simp] theorem State.modCluster_alavis (s : State) (c : Nat) (f : Cluster → Cluster) : (s.modCluster c f).alavis = s.alavis := rfl
@[simp] theorem State.modCluster_drovers (s : State) (c : Nat) (f : Cluster → Cluster) : (s.modCluster c f).drovers = s.drovers := rfl
@[simp] theorem State.modCluster_linksDown (s : State) (c : Nat) (f : Cluster → Cluster) : (s.modCluster c f).linksDown = s.linksDown := rfl
@[simp] theorem State.modCluster_portsDown (s : State) (c : Nat) (f : Cluster → Cluster) : (s.modCluster c f).portsDown = s.portsDown := rfl
@[simp] theorem State.modCluster_up (s : State) (c : Nat) (f : Cluster → Cluster) : (s.modCluster c f).up = s.up := rfl

@[simp] theorem State.setBank_cyc (s : State) (k : Nat) (b : Bank) : (s.setBank k b).cyc = s.cyc := rfl
@[simp] theorem State.setBank_skew (s : State) (k : Nat) (b : Bank) : (s.setBank k b).skew = s.skew := rfl
@[simp] theorem State.setBank_turn (s : State) (k : Nat) (b : Bank) : (s.setBank k b).turn = s.turn := rfl
@[simp] theorem State.setBank_agenda (s : State) (k : Nat) (b : Bank) : (s.setBank k b).agenda = s.agenda := rfl
@[simp] theorem State.setBank_bun (s : State) (k : Nat) (b : Bank) : (s.setBank k b).bun = s.bun := rfl
@[simp] theorem State.setBank_nextId (s : State) (k : Nat) (b : Bank) : (s.setBank k b).nextId = s.nextId := rfl
@[simp] theorem State.setBank_threads (s : State) (k : Nat) (b : Bank) : (s.setBank k b).threads = s.threads := rfl
@[simp] theorem State.setBank_cores (s : State) (k : Nat) (b : Bank) : (s.setBank k b).cores = s.cores := rfl
@[simp] theorem State.setBank_clusters (s : State) (k : Nat) (b : Bank) : (s.setBank k b).clusters = s.clusters := rfl
@[simp] theorem State.setBank_slices (s : State) (k : Nat) (b : Bank) : (s.setBank k b).slices = s.slices := rfl
@[simp] theorem State.setBank_regions (s : State) (k : Nat) (b : Bank) : (s.setBank k b).regions = s.regions := rfl
@[simp] theorem State.setBank_commits (s : State) (k : Nat) (b : Bank) : (s.setBank k b).commits = s.commits := rfl
@[simp] theorem State.setBank_reqs (s : State) (k : Nat) (b : Bank) : (s.setBank k b).reqs = s.reqs := rfl
@[simp] theorem State.setBank_wbs (s : State) (k : Nat) (b : Bank) : (s.setBank k b).wbs = s.wbs := rfl
@[simp] theorem State.setBank_flits (s : State) (k : Nat) (b : Bank) : (s.setBank k b).flits = s.flits := rfl
@[simp] theorem State.setBank_arrivals (s : State) (k : Nat) (b : Bank) : (s.setBank k b).arrivals = s.arrivals := rfl
@[simp] theorem State.setBank_reports (s : State) (k : Nat) (b : Bank) : (s.setBank k b).reports = s.reports := rfl
@[simp] theorem State.setBank_tallies (s : State) (k : Nat) (b : Bank) : (s.setBank k b).tallies = s.tallies := rfl
@[simp] theorem State.setBank_closeFlits (s : State) (k : Nat) (b : Bank) : (s.setBank k b).closeFlits = s.closeFlits := rfl
@[simp] theorem State.setBank_homeQ (s : State) (k : Nat) (b : Bank) : (s.setBank k b).homeQ = s.homeQ := rfl
@[simp] theorem State.setBank_mem (s : State) (k : Nat) (b : Bank) : (s.setBank k b).mem = s.mem := rfl
@[simp] theorem State.setBank_full (s : State) (k : Nat) (b : Bank) : (s.setBank k b).full = s.full := rfl
@[simp] theorem State.setBank_poison (s : State) (k : Nat) (b : Bank) : (s.setBank k b).poison = s.poison := rfl
@[simp] theorem State.setBank_frameTag (s : State) (k : Nat) (b : Bank) : (s.setBank k b).frameTag = s.frameTag := rfl
@[simp] theorem State.setBank_acceptNo (s : State) (k : Nat) (b : Bank) : (s.setBank k b).acceptNo = s.acceptNo := rfl
@[simp] theorem State.setBank_host (s : State) (k : Nat) (b : Bank) : (s.setBank k b).host = s.host := rfl
@[simp] theorem State.setBank_alavis (s : State) (k : Nat) (b : Bank) : (s.setBank k b).alavis = s.alavis := rfl
@[simp] theorem State.setBank_drovers (s : State) (k : Nat) (b : Bank) : (s.setBank k b).drovers = s.drovers := rfl
@[simp] theorem State.setBank_linksDown (s : State) (k : Nat) (b : Bank) : (s.setBank k b).linksDown = s.linksDown := rfl
@[simp] theorem State.setBank_portsDown (s : State) (k : Nat) (b : Bank) : (s.setBank k b).portsDown = s.portsDown := rfl
@[simp] theorem State.setBank_up (s : State) (k : Nat) (b : Bank) : (s.setBank k b).up = s.up := rfl

@[simp] theorem State.modBank_cyc (s : State) (k : Nat) (f : Bank → Bank) : (s.modBank k f).cyc = s.cyc := rfl
@[simp] theorem State.modBank_skew (s : State) (k : Nat) (f : Bank → Bank) : (s.modBank k f).skew = s.skew := rfl
@[simp] theorem State.modBank_turn (s : State) (k : Nat) (f : Bank → Bank) : (s.modBank k f).turn = s.turn := rfl
@[simp] theorem State.modBank_agenda (s : State) (k : Nat) (f : Bank → Bank) : (s.modBank k f).agenda = s.agenda := rfl
@[simp] theorem State.modBank_bun (s : State) (k : Nat) (f : Bank → Bank) : (s.modBank k f).bun = s.bun := rfl
@[simp] theorem State.modBank_nextId (s : State) (k : Nat) (f : Bank → Bank) : (s.modBank k f).nextId = s.nextId := rfl
@[simp] theorem State.modBank_threads (s : State) (k : Nat) (f : Bank → Bank) : (s.modBank k f).threads = s.threads := rfl
@[simp] theorem State.modBank_cores (s : State) (k : Nat) (f : Bank → Bank) : (s.modBank k f).cores = s.cores := rfl
@[simp] theorem State.modBank_clusters (s : State) (k : Nat) (f : Bank → Bank) : (s.modBank k f).clusters = s.clusters := rfl
@[simp] theorem State.modBank_slices (s : State) (k : Nat) (f : Bank → Bank) : (s.modBank k f).slices = s.slices := rfl
@[simp] theorem State.modBank_regions (s : State) (k : Nat) (f : Bank → Bank) : (s.modBank k f).regions = s.regions := rfl
@[simp] theorem State.modBank_commits (s : State) (k : Nat) (f : Bank → Bank) : (s.modBank k f).commits = s.commits := rfl
@[simp] theorem State.modBank_reqs (s : State) (k : Nat) (f : Bank → Bank) : (s.modBank k f).reqs = s.reqs := rfl
@[simp] theorem State.modBank_wbs (s : State) (k : Nat) (f : Bank → Bank) : (s.modBank k f).wbs = s.wbs := rfl
@[simp] theorem State.modBank_flits (s : State) (k : Nat) (f : Bank → Bank) : (s.modBank k f).flits = s.flits := rfl
@[simp] theorem State.modBank_arrivals (s : State) (k : Nat) (f : Bank → Bank) : (s.modBank k f).arrivals = s.arrivals := rfl
@[simp] theorem State.modBank_reports (s : State) (k : Nat) (f : Bank → Bank) : (s.modBank k f).reports = s.reports := rfl
@[simp] theorem State.modBank_tallies (s : State) (k : Nat) (f : Bank → Bank) : (s.modBank k f).tallies = s.tallies := rfl
@[simp] theorem State.modBank_closeFlits (s : State) (k : Nat) (f : Bank → Bank) : (s.modBank k f).closeFlits = s.closeFlits := rfl
@[simp] theorem State.modBank_homeQ (s : State) (k : Nat) (f : Bank → Bank) : (s.modBank k f).homeQ = s.homeQ := rfl
@[simp] theorem State.modBank_mem (s : State) (k : Nat) (f : Bank → Bank) : (s.modBank k f).mem = s.mem := rfl
@[simp] theorem State.modBank_full (s : State) (k : Nat) (f : Bank → Bank) : (s.modBank k f).full = s.full := rfl
@[simp] theorem State.modBank_poison (s : State) (k : Nat) (f : Bank → Bank) : (s.modBank k f).poison = s.poison := rfl
@[simp] theorem State.modBank_frameTag (s : State) (k : Nat) (f : Bank → Bank) : (s.modBank k f).frameTag = s.frameTag := rfl
@[simp] theorem State.modBank_acceptNo (s : State) (k : Nat) (f : Bank → Bank) : (s.modBank k f).acceptNo = s.acceptNo := rfl
@[simp] theorem State.modBank_host (s : State) (k : Nat) (f : Bank → Bank) : (s.modBank k f).host = s.host := rfl
@[simp] theorem State.modBank_alavis (s : State) (k : Nat) (f : Bank → Bank) : (s.modBank k f).alavis = s.alavis := rfl
@[simp] theorem State.modBank_drovers (s : State) (k : Nat) (f : Bank → Bank) : (s.modBank k f).drovers = s.drovers := rfl
@[simp] theorem State.modBank_linksDown (s : State) (k : Nat) (f : Bank → Bank) : (s.modBank k f).linksDown = s.linksDown := rfl
@[simp] theorem State.modBank_portsDown (s : State) (k : Nat) (f : Bank → Bank) : (s.modBank k f).portsDown = s.portsDown := rfl
@[simp] theorem State.modBank_up (s : State) (k : Nat) (f : Bank → Bank) : (s.modBank k f).up = s.up := rfl

@[simp] theorem State.setSlice_cyc (s : State) (n : Nat) (x : Slice) : (s.setSlice n x).cyc = s.cyc := rfl
@[simp] theorem State.setSlice_skew (s : State) (n : Nat) (x : Slice) : (s.setSlice n x).skew = s.skew := rfl
@[simp] theorem State.setSlice_turn (s : State) (n : Nat) (x : Slice) : (s.setSlice n x).turn = s.turn := rfl
@[simp] theorem State.setSlice_agenda (s : State) (n : Nat) (x : Slice) : (s.setSlice n x).agenda = s.agenda := rfl
@[simp] theorem State.setSlice_bun (s : State) (n : Nat) (x : Slice) : (s.setSlice n x).bun = s.bun := rfl
@[simp] theorem State.setSlice_nextId (s : State) (n : Nat) (x : Slice) : (s.setSlice n x).nextId = s.nextId := rfl
@[simp] theorem State.setSlice_threads (s : State) (n : Nat) (x : Slice) : (s.setSlice n x).threads = s.threads := rfl
@[simp] theorem State.setSlice_cores (s : State) (n : Nat) (x : Slice) : (s.setSlice n x).cores = s.cores := rfl
@[simp] theorem State.setSlice_clusters (s : State) (n : Nat) (x : Slice) : (s.setSlice n x).clusters = s.clusters := rfl
@[simp] theorem State.setSlice_banks (s : State) (n : Nat) (x : Slice) : (s.setSlice n x).banks = s.banks := rfl
@[simp] theorem State.setSlice_regions (s : State) (n : Nat) (x : Slice) : (s.setSlice n x).regions = s.regions := rfl
@[simp] theorem State.setSlice_commits (s : State) (n : Nat) (x : Slice) : (s.setSlice n x).commits = s.commits := rfl
@[simp] theorem State.setSlice_reqs (s : State) (n : Nat) (x : Slice) : (s.setSlice n x).reqs = s.reqs := rfl
@[simp] theorem State.setSlice_wbs (s : State) (n : Nat) (x : Slice) : (s.setSlice n x).wbs = s.wbs := rfl
@[simp] theorem State.setSlice_flits (s : State) (n : Nat) (x : Slice) : (s.setSlice n x).flits = s.flits := rfl
@[simp] theorem State.setSlice_arrivals (s : State) (n : Nat) (x : Slice) : (s.setSlice n x).arrivals = s.arrivals := rfl
@[simp] theorem State.setSlice_reports (s : State) (n : Nat) (x : Slice) : (s.setSlice n x).reports = s.reports := rfl
@[simp] theorem State.setSlice_tallies (s : State) (n : Nat) (x : Slice) : (s.setSlice n x).tallies = s.tallies := rfl
@[simp] theorem State.setSlice_closeFlits (s : State) (n : Nat) (x : Slice) : (s.setSlice n x).closeFlits = s.closeFlits := rfl
@[simp] theorem State.setSlice_homeQ (s : State) (n : Nat) (x : Slice) : (s.setSlice n x).homeQ = s.homeQ := rfl
@[simp] theorem State.setSlice_mem (s : State) (n : Nat) (x : Slice) : (s.setSlice n x).mem = s.mem := rfl
@[simp] theorem State.setSlice_full (s : State) (n : Nat) (x : Slice) : (s.setSlice n x).full = s.full := rfl
@[simp] theorem State.setSlice_poison (s : State) (n : Nat) (x : Slice) : (s.setSlice n x).poison = s.poison := rfl
@[simp] theorem State.setSlice_frameTag (s : State) (n : Nat) (x : Slice) : (s.setSlice n x).frameTag = s.frameTag := rfl
@[simp] theorem State.setSlice_acceptNo (s : State) (n : Nat) (x : Slice) : (s.setSlice n x).acceptNo = s.acceptNo := rfl
@[simp] theorem State.setSlice_host (s : State) (n : Nat) (x : Slice) : (s.setSlice n x).host = s.host := rfl
@[simp] theorem State.setSlice_alavis (s : State) (n : Nat) (x : Slice) : (s.setSlice n x).alavis = s.alavis := rfl
@[simp] theorem State.setSlice_drovers (s : State) (n : Nat) (x : Slice) : (s.setSlice n x).drovers = s.drovers := rfl
@[simp] theorem State.setSlice_linksDown (s : State) (n : Nat) (x : Slice) : (s.setSlice n x).linksDown = s.linksDown := rfl
@[simp] theorem State.setSlice_portsDown (s : State) (n : Nat) (x : Slice) : (s.setSlice n x).portsDown = s.portsDown := rfl
@[simp] theorem State.setSlice_up (s : State) (n : Nat) (x : Slice) : (s.setSlice n x).up = s.up := rfl

@[simp] theorem State.modSlice_cyc (s : State) (n : Nat) (f : Slice → Slice) : (s.modSlice n f).cyc = s.cyc := rfl
@[simp] theorem State.modSlice_skew (s : State) (n : Nat) (f : Slice → Slice) : (s.modSlice n f).skew = s.skew := rfl
@[simp] theorem State.modSlice_turn (s : State) (n : Nat) (f : Slice → Slice) : (s.modSlice n f).turn = s.turn := rfl
@[simp] theorem State.modSlice_agenda (s : State) (n : Nat) (f : Slice → Slice) : (s.modSlice n f).agenda = s.agenda := rfl
@[simp] theorem State.modSlice_bun (s : State) (n : Nat) (f : Slice → Slice) : (s.modSlice n f).bun = s.bun := rfl
@[simp] theorem State.modSlice_nextId (s : State) (n : Nat) (f : Slice → Slice) : (s.modSlice n f).nextId = s.nextId := rfl
@[simp] theorem State.modSlice_threads (s : State) (n : Nat) (f : Slice → Slice) : (s.modSlice n f).threads = s.threads := rfl
@[simp] theorem State.modSlice_cores (s : State) (n : Nat) (f : Slice → Slice) : (s.modSlice n f).cores = s.cores := rfl
@[simp] theorem State.modSlice_clusters (s : State) (n : Nat) (f : Slice → Slice) : (s.modSlice n f).clusters = s.clusters := rfl
@[simp] theorem State.modSlice_banks (s : State) (n : Nat) (f : Slice → Slice) : (s.modSlice n f).banks = s.banks := rfl
@[simp] theorem State.modSlice_regions (s : State) (n : Nat) (f : Slice → Slice) : (s.modSlice n f).regions = s.regions := rfl
@[simp] theorem State.modSlice_commits (s : State) (n : Nat) (f : Slice → Slice) : (s.modSlice n f).commits = s.commits := rfl
@[simp] theorem State.modSlice_reqs (s : State) (n : Nat) (f : Slice → Slice) : (s.modSlice n f).reqs = s.reqs := rfl
@[simp] theorem State.modSlice_wbs (s : State) (n : Nat) (f : Slice → Slice) : (s.modSlice n f).wbs = s.wbs := rfl
@[simp] theorem State.modSlice_flits (s : State) (n : Nat) (f : Slice → Slice) : (s.modSlice n f).flits = s.flits := rfl
@[simp] theorem State.modSlice_arrivals (s : State) (n : Nat) (f : Slice → Slice) : (s.modSlice n f).arrivals = s.arrivals := rfl
@[simp] theorem State.modSlice_reports (s : State) (n : Nat) (f : Slice → Slice) : (s.modSlice n f).reports = s.reports := rfl
@[simp] theorem State.modSlice_tallies (s : State) (n : Nat) (f : Slice → Slice) : (s.modSlice n f).tallies = s.tallies := rfl
@[simp] theorem State.modSlice_closeFlits (s : State) (n : Nat) (f : Slice → Slice) : (s.modSlice n f).closeFlits = s.closeFlits := rfl
@[simp] theorem State.modSlice_homeQ (s : State) (n : Nat) (f : Slice → Slice) : (s.modSlice n f).homeQ = s.homeQ := rfl
@[simp] theorem State.modSlice_mem (s : State) (n : Nat) (f : Slice → Slice) : (s.modSlice n f).mem = s.mem := rfl
@[simp] theorem State.modSlice_full (s : State) (n : Nat) (f : Slice → Slice) : (s.modSlice n f).full = s.full := rfl
@[simp] theorem State.modSlice_poison (s : State) (n : Nat) (f : Slice → Slice) : (s.modSlice n f).poison = s.poison := rfl
@[simp] theorem State.modSlice_frameTag (s : State) (n : Nat) (f : Slice → Slice) : (s.modSlice n f).frameTag = s.frameTag := rfl
@[simp] theorem State.modSlice_acceptNo (s : State) (n : Nat) (f : Slice → Slice) : (s.modSlice n f).acceptNo = s.acceptNo := rfl
@[simp] theorem State.modSlice_host (s : State) (n : Nat) (f : Slice → Slice) : (s.modSlice n f).host = s.host := rfl
@[simp] theorem State.modSlice_alavis (s : State) (n : Nat) (f : Slice → Slice) : (s.modSlice n f).alavis = s.alavis := rfl
@[simp] theorem State.modSlice_drovers (s : State) (n : Nat) (f : Slice → Slice) : (s.modSlice n f).drovers = s.drovers := rfl
@[simp] theorem State.modSlice_linksDown (s : State) (n : Nat) (f : Slice → Slice) : (s.modSlice n f).linksDown = s.linksDown := rfl
@[simp] theorem State.modSlice_portsDown (s : State) (n : Nat) (f : Slice → Slice) : (s.modSlice n f).portsDown = s.portsDown := rfl
@[simp] theorem State.modSlice_up (s : State) (n : Nat) (f : Slice → Slice) : (s.modSlice n f).up = s.up := rfl

@[simp] theorem State.setRegion_cyc (s : State) (r : Nat) (x : Region) : (s.setRegion r x).cyc = s.cyc := rfl
@[simp] theorem State.setRegion_skew (s : State) (r : Nat) (x : Region) : (s.setRegion r x).skew = s.skew := rfl
@[simp] theorem State.setRegion_turn (s : State) (r : Nat) (x : Region) : (s.setRegion r x).turn = s.turn := rfl
@[simp] theorem State.setRegion_agenda (s : State) (r : Nat) (x : Region) : (s.setRegion r x).agenda = s.agenda := rfl
@[simp] theorem State.setRegion_bun (s : State) (r : Nat) (x : Region) : (s.setRegion r x).bun = s.bun := rfl
@[simp] theorem State.setRegion_nextId (s : State) (r : Nat) (x : Region) : (s.setRegion r x).nextId = s.nextId := rfl
@[simp] theorem State.setRegion_threads (s : State) (r : Nat) (x : Region) : (s.setRegion r x).threads = s.threads := rfl
@[simp] theorem State.setRegion_cores (s : State) (r : Nat) (x : Region) : (s.setRegion r x).cores = s.cores := rfl
@[simp] theorem State.setRegion_clusters (s : State) (r : Nat) (x : Region) : (s.setRegion r x).clusters = s.clusters := rfl
@[simp] theorem State.setRegion_banks (s : State) (r : Nat) (x : Region) : (s.setRegion r x).banks = s.banks := rfl
@[simp] theorem State.setRegion_slices (s : State) (r : Nat) (x : Region) : (s.setRegion r x).slices = s.slices := rfl
@[simp] theorem State.setRegion_commits (s : State) (r : Nat) (x : Region) : (s.setRegion r x).commits = s.commits := rfl
@[simp] theorem State.setRegion_reqs (s : State) (r : Nat) (x : Region) : (s.setRegion r x).reqs = s.reqs := rfl
@[simp] theorem State.setRegion_wbs (s : State) (r : Nat) (x : Region) : (s.setRegion r x).wbs = s.wbs := rfl
@[simp] theorem State.setRegion_flits (s : State) (r : Nat) (x : Region) : (s.setRegion r x).flits = s.flits := rfl
@[simp] theorem State.setRegion_arrivals (s : State) (r : Nat) (x : Region) : (s.setRegion r x).arrivals = s.arrivals := rfl
@[simp] theorem State.setRegion_reports (s : State) (r : Nat) (x : Region) : (s.setRegion r x).reports = s.reports := rfl
@[simp] theorem State.setRegion_tallies (s : State) (r : Nat) (x : Region) : (s.setRegion r x).tallies = s.tallies := rfl
@[simp] theorem State.setRegion_closeFlits (s : State) (r : Nat) (x : Region) : (s.setRegion r x).closeFlits = s.closeFlits := rfl
@[simp] theorem State.setRegion_homeQ (s : State) (r : Nat) (x : Region) : (s.setRegion r x).homeQ = s.homeQ := rfl
@[simp] theorem State.setRegion_mem (s : State) (r : Nat) (x : Region) : (s.setRegion r x).mem = s.mem := rfl
@[simp] theorem State.setRegion_full (s : State) (r : Nat) (x : Region) : (s.setRegion r x).full = s.full := rfl
@[simp] theorem State.setRegion_poison (s : State) (r : Nat) (x : Region) : (s.setRegion r x).poison = s.poison := rfl
@[simp] theorem State.setRegion_frameTag (s : State) (r : Nat) (x : Region) : (s.setRegion r x).frameTag = s.frameTag := rfl
@[simp] theorem State.setRegion_acceptNo (s : State) (r : Nat) (x : Region) : (s.setRegion r x).acceptNo = s.acceptNo := rfl
@[simp] theorem State.setRegion_host (s : State) (r : Nat) (x : Region) : (s.setRegion r x).host = s.host := rfl
@[simp] theorem State.setRegion_alavis (s : State) (r : Nat) (x : Region) : (s.setRegion r x).alavis = s.alavis := rfl
@[simp] theorem State.setRegion_drovers (s : State) (r : Nat) (x : Region) : (s.setRegion r x).drovers = s.drovers := rfl
@[simp] theorem State.setRegion_linksDown (s : State) (r : Nat) (x : Region) : (s.setRegion r x).linksDown = s.linksDown := rfl
@[simp] theorem State.setRegion_portsDown (s : State) (r : Nat) (x : Region) : (s.setRegion r x).portsDown = s.portsDown := rfl
@[simp] theorem State.setRegion_up (s : State) (r : Nat) (x : Region) : (s.setRegion r x).up = s.up := rfl

@[simp] theorem State.modRegion_cyc (s : State) (r : Nat) (f : Region → Region) : (s.modRegion r f).cyc = s.cyc := by
  unfold State.modRegion; cases s.region? r <;> rfl
@[simp] theorem State.modRegion_skew (s : State) (r : Nat) (f : Region → Region) : (s.modRegion r f).skew = s.skew := by
  unfold State.modRegion; cases s.region? r <;> rfl
@[simp] theorem State.modRegion_turn (s : State) (r : Nat) (f : Region → Region) : (s.modRegion r f).turn = s.turn := by
  unfold State.modRegion; cases s.region? r <;> rfl
@[simp] theorem State.modRegion_agenda (s : State) (r : Nat) (f : Region → Region) : (s.modRegion r f).agenda = s.agenda := by
  unfold State.modRegion; cases s.region? r <;> rfl
@[simp] theorem State.modRegion_bun (s : State) (r : Nat) (f : Region → Region) : (s.modRegion r f).bun = s.bun := by
  unfold State.modRegion; cases s.region? r <;> rfl
@[simp] theorem State.modRegion_nextId (s : State) (r : Nat) (f : Region → Region) : (s.modRegion r f).nextId = s.nextId := by
  unfold State.modRegion; cases s.region? r <;> rfl
@[simp] theorem State.modRegion_threads (s : State) (r : Nat) (f : Region → Region) : (s.modRegion r f).threads = s.threads := by
  unfold State.modRegion; cases s.region? r <;> rfl
@[simp] theorem State.modRegion_cores (s : State) (r : Nat) (f : Region → Region) : (s.modRegion r f).cores = s.cores := by
  unfold State.modRegion; cases s.region? r <;> rfl
@[simp] theorem State.modRegion_clusters (s : State) (r : Nat) (f : Region → Region) : (s.modRegion r f).clusters = s.clusters := by
  unfold State.modRegion; cases s.region? r <;> rfl
@[simp] theorem State.modRegion_banks (s : State) (r : Nat) (f : Region → Region) : (s.modRegion r f).banks = s.banks := by
  unfold State.modRegion; cases s.region? r <;> rfl
@[simp] theorem State.modRegion_slices (s : State) (r : Nat) (f : Region → Region) : (s.modRegion r f).slices = s.slices := by
  unfold State.modRegion; cases s.region? r <;> rfl
@[simp] theorem State.modRegion_commits (s : State) (r : Nat) (f : Region → Region) : (s.modRegion r f).commits = s.commits := by
  unfold State.modRegion; cases s.region? r <;> rfl
@[simp] theorem State.modRegion_reqs (s : State) (r : Nat) (f : Region → Region) : (s.modRegion r f).reqs = s.reqs := by
  unfold State.modRegion; cases s.region? r <;> rfl
@[simp] theorem State.modRegion_wbs (s : State) (r : Nat) (f : Region → Region) : (s.modRegion r f).wbs = s.wbs := by
  unfold State.modRegion; cases s.region? r <;> rfl
@[simp] theorem State.modRegion_flits (s : State) (r : Nat) (f : Region → Region) : (s.modRegion r f).flits = s.flits := by
  unfold State.modRegion; cases s.region? r <;> rfl
@[simp] theorem State.modRegion_arrivals (s : State) (r : Nat) (f : Region → Region) : (s.modRegion r f).arrivals = s.arrivals := by
  unfold State.modRegion; cases s.region? r <;> rfl
@[simp] theorem State.modRegion_reports (s : State) (r : Nat) (f : Region → Region) : (s.modRegion r f).reports = s.reports := by
  unfold State.modRegion; cases s.region? r <;> rfl
@[simp] theorem State.modRegion_tallies (s : State) (r : Nat) (f : Region → Region) : (s.modRegion r f).tallies = s.tallies := by
  unfold State.modRegion; cases s.region? r <;> rfl
@[simp] theorem State.modRegion_closeFlits (s : State) (r : Nat) (f : Region → Region) : (s.modRegion r f).closeFlits = s.closeFlits := by
  unfold State.modRegion; cases s.region? r <;> rfl
@[simp] theorem State.modRegion_homeQ (s : State) (r : Nat) (f : Region → Region) : (s.modRegion r f).homeQ = s.homeQ := by
  unfold State.modRegion; cases s.region? r <;> rfl
@[simp] theorem State.modRegion_mem (s : State) (r : Nat) (f : Region → Region) : (s.modRegion r f).mem = s.mem := by
  unfold State.modRegion; cases s.region? r <;> rfl
@[simp] theorem State.modRegion_full (s : State) (r : Nat) (f : Region → Region) : (s.modRegion r f).full = s.full := by
  unfold State.modRegion; cases s.region? r <;> rfl
@[simp] theorem State.modRegion_poison (s : State) (r : Nat) (f : Region → Region) : (s.modRegion r f).poison = s.poison := by
  unfold State.modRegion; cases s.region? r <;> rfl
@[simp] theorem State.modRegion_frameTag (s : State) (r : Nat) (f : Region → Region) : (s.modRegion r f).frameTag = s.frameTag := by
  unfold State.modRegion; cases s.region? r <;> rfl
@[simp] theorem State.modRegion_acceptNo (s : State) (r : Nat) (f : Region → Region) : (s.modRegion r f).acceptNo = s.acceptNo := by
  unfold State.modRegion; cases s.region? r <;> rfl
@[simp] theorem State.modRegion_host (s : State) (r : Nat) (f : Region → Region) : (s.modRegion r f).host = s.host := by
  unfold State.modRegion; cases s.region? r <;> rfl
@[simp] theorem State.modRegion_alavis (s : State) (r : Nat) (f : Region → Region) : (s.modRegion r f).alavis = s.alavis := by
  unfold State.modRegion; cases s.region? r <;> rfl
@[simp] theorem State.modRegion_drovers (s : State) (r : Nat) (f : Region → Region) : (s.modRegion r f).drovers = s.drovers := by
  unfold State.modRegion; cases s.region? r <;> rfl
@[simp] theorem State.modRegion_linksDown (s : State) (r : Nat) (f : Region → Region) : (s.modRegion r f).linksDown = s.linksDown := by
  unfold State.modRegion; cases s.region? r <;> rfl
@[simp] theorem State.modRegion_portsDown (s : State) (r : Nat) (f : Region → Region) : (s.modRegion r f).portsDown = s.portsDown := by
  unfold State.modRegion; cases s.region? r <;> rfl
@[simp] theorem State.modRegion_up (s : State) (r : Nat) (f : Region → Region) : (s.modRegion r f).up = s.up := by
  unfold State.modRegion; cases s.region? r <;> rfl

@[simp] theorem State.setByte_cyc (s : State) (k : Nat) (b : Byte) : (s.setByte k b).cyc = s.cyc := rfl
@[simp] theorem State.setByte_skew (s : State) (k : Nat) (b : Byte) : (s.setByte k b).skew = s.skew := rfl
@[simp] theorem State.setByte_turn (s : State) (k : Nat) (b : Byte) : (s.setByte k b).turn = s.turn := rfl
@[simp] theorem State.setByte_agenda (s : State) (k : Nat) (b : Byte) : (s.setByte k b).agenda = s.agenda := rfl
@[simp] theorem State.setByte_bun (s : State) (k : Nat) (b : Byte) : (s.setByte k b).bun = s.bun := rfl
@[simp] theorem State.setByte_nextId (s : State) (k : Nat) (b : Byte) : (s.setByte k b).nextId = s.nextId := rfl
@[simp] theorem State.setByte_threads (s : State) (k : Nat) (b : Byte) : (s.setByte k b).threads = s.threads := rfl
@[simp] theorem State.setByte_cores (s : State) (k : Nat) (b : Byte) : (s.setByte k b).cores = s.cores := rfl
@[simp] theorem State.setByte_clusters (s : State) (k : Nat) (b : Byte) : (s.setByte k b).clusters = s.clusters := rfl
@[simp] theorem State.setByte_banks (s : State) (k : Nat) (b : Byte) : (s.setByte k b).banks = s.banks := rfl
@[simp] theorem State.setByte_slices (s : State) (k : Nat) (b : Byte) : (s.setByte k b).slices = s.slices := rfl
@[simp] theorem State.setByte_regions (s : State) (k : Nat) (b : Byte) : (s.setByte k b).regions = s.regions := rfl
@[simp] theorem State.setByte_commits (s : State) (k : Nat) (b : Byte) : (s.setByte k b).commits = s.commits := rfl
@[simp] theorem State.setByte_reqs (s : State) (k : Nat) (b : Byte) : (s.setByte k b).reqs = s.reqs := rfl
@[simp] theorem State.setByte_wbs (s : State) (k : Nat) (b : Byte) : (s.setByte k b).wbs = s.wbs := rfl
@[simp] theorem State.setByte_flits (s : State) (k : Nat) (b : Byte) : (s.setByte k b).flits = s.flits := rfl
@[simp] theorem State.setByte_arrivals (s : State) (k : Nat) (b : Byte) : (s.setByte k b).arrivals = s.arrivals := rfl
@[simp] theorem State.setByte_reports (s : State) (k : Nat) (b : Byte) : (s.setByte k b).reports = s.reports := rfl
@[simp] theorem State.setByte_tallies (s : State) (k : Nat) (b : Byte) : (s.setByte k b).tallies = s.tallies := rfl
@[simp] theorem State.setByte_closeFlits (s : State) (k : Nat) (b : Byte) : (s.setByte k b).closeFlits = s.closeFlits := rfl
@[simp] theorem State.setByte_homeQ (s : State) (k : Nat) (b : Byte) : (s.setByte k b).homeQ = s.homeQ := rfl
@[simp] theorem State.setByte_full (s : State) (k : Nat) (b : Byte) : (s.setByte k b).full = s.full := rfl
@[simp] theorem State.setByte_poison (s : State) (k : Nat) (b : Byte) : (s.setByte k b).poison = s.poison := rfl
@[simp] theorem State.setByte_frameTag (s : State) (k : Nat) (b : Byte) : (s.setByte k b).frameTag = s.frameTag := rfl
@[simp] theorem State.setByte_acceptNo (s : State) (k : Nat) (b : Byte) : (s.setByte k b).acceptNo = s.acceptNo := rfl
@[simp] theorem State.setByte_host (s : State) (k : Nat) (b : Byte) : (s.setByte k b).host = s.host := rfl
@[simp] theorem State.setByte_alavis (s : State) (k : Nat) (b : Byte) : (s.setByte k b).alavis = s.alavis := rfl
@[simp] theorem State.setByte_drovers (s : State) (k : Nat) (b : Byte) : (s.setByte k b).drovers = s.drovers := rfl
@[simp] theorem State.setByte_linksDown (s : State) (k : Nat) (b : Byte) : (s.setByte k b).linksDown = s.linksDown := rfl
@[simp] theorem State.setByte_portsDown (s : State) (k : Nat) (b : Byte) : (s.setByte k b).portsDown = s.portsDown := rfl
@[simp] theorem State.setByte_up (s : State) (k : Nat) (b : Byte) : (s.setByte k b).up = s.up := rfl

@[simp] theorem State.write_cyc (s : State) (k n v : Nat) : (s.write k n v).cyc = s.cyc := rfl
@[simp] theorem State.write_skew (s : State) (k n v : Nat) : (s.write k n v).skew = s.skew := rfl
@[simp] theorem State.write_turn (s : State) (k n v : Nat) : (s.write k n v).turn = s.turn := rfl
@[simp] theorem State.write_agenda (s : State) (k n v : Nat) : (s.write k n v).agenda = s.agenda := rfl
@[simp] theorem State.write_bun (s : State) (k n v : Nat) : (s.write k n v).bun = s.bun := rfl
@[simp] theorem State.write_nextId (s : State) (k n v : Nat) : (s.write k n v).nextId = s.nextId := rfl
@[simp] theorem State.write_threads (s : State) (k n v : Nat) : (s.write k n v).threads = s.threads := rfl
@[simp] theorem State.write_cores (s : State) (k n v : Nat) : (s.write k n v).cores = s.cores := rfl
@[simp] theorem State.write_clusters (s : State) (k n v : Nat) : (s.write k n v).clusters = s.clusters := rfl
@[simp] theorem State.write_banks (s : State) (k n v : Nat) : (s.write k n v).banks = s.banks := rfl
@[simp] theorem State.write_slices (s : State) (k n v : Nat) : (s.write k n v).slices = s.slices := rfl
@[simp] theorem State.write_regions (s : State) (k n v : Nat) : (s.write k n v).regions = s.regions := rfl
@[simp] theorem State.write_commits (s : State) (k n v : Nat) : (s.write k n v).commits = s.commits := rfl
@[simp] theorem State.write_reqs (s : State) (k n v : Nat) : (s.write k n v).reqs = s.reqs := rfl
@[simp] theorem State.write_wbs (s : State) (k n v : Nat) : (s.write k n v).wbs = s.wbs := rfl
@[simp] theorem State.write_flits (s : State) (k n v : Nat) : (s.write k n v).flits = s.flits := rfl
@[simp] theorem State.write_arrivals (s : State) (k n v : Nat) : (s.write k n v).arrivals = s.arrivals := rfl
@[simp] theorem State.write_reports (s : State) (k n v : Nat) : (s.write k n v).reports = s.reports := rfl
@[simp] theorem State.write_tallies (s : State) (k n v : Nat) : (s.write k n v).tallies = s.tallies := rfl
@[simp] theorem State.write_closeFlits (s : State) (k n v : Nat) : (s.write k n v).closeFlits = s.closeFlits := rfl
@[simp] theorem State.write_homeQ (s : State) (k n v : Nat) : (s.write k n v).homeQ = s.homeQ := rfl
@[simp] theorem State.write_full (s : State) (k n v : Nat) : (s.write k n v).full = s.full := rfl
@[simp] theorem State.write_poison (s : State) (k n v : Nat) : (s.write k n v).poison = s.poison := rfl
@[simp] theorem State.write_frameTag (s : State) (k n v : Nat) : (s.write k n v).frameTag = s.frameTag := rfl
@[simp] theorem State.write_acceptNo (s : State) (k n v : Nat) : (s.write k n v).acceptNo = s.acceptNo := rfl
@[simp] theorem State.write_host (s : State) (k n v : Nat) : (s.write k n v).host = s.host := rfl
@[simp] theorem State.write_alavis (s : State) (k n v : Nat) : (s.write k n v).alavis = s.alavis := rfl
@[simp] theorem State.write_drovers (s : State) (k n v : Nat) : (s.write k n v).drovers = s.drovers := rfl
@[simp] theorem State.write_linksDown (s : State) (k n v : Nat) : (s.write k n v).linksDown = s.linksDown := rfl
@[simp] theorem State.write_portsDown (s : State) (k n v : Nat) : (s.write k n v).portsDown = s.portsDown := rfl
@[simp] theorem State.write_up (s : State) (k n v : Nat) : (s.write k n v).up = s.up := rfl

@[simp] theorem State.clearMem_cyc (s : State) (k n : Nat) : (s.clearMem k n).cyc = s.cyc := rfl
@[simp] theorem State.clearMem_skew (s : State) (k n : Nat) : (s.clearMem k n).skew = s.skew := rfl
@[simp] theorem State.clearMem_turn (s : State) (k n : Nat) : (s.clearMem k n).turn = s.turn := rfl
@[simp] theorem State.clearMem_agenda (s : State) (k n : Nat) : (s.clearMem k n).agenda = s.agenda := rfl
@[simp] theorem State.clearMem_bun (s : State) (k n : Nat) : (s.clearMem k n).bun = s.bun := rfl
@[simp] theorem State.clearMem_nextId (s : State) (k n : Nat) : (s.clearMem k n).nextId = s.nextId := rfl
@[simp] theorem State.clearMem_threads (s : State) (k n : Nat) : (s.clearMem k n).threads = s.threads := rfl
@[simp] theorem State.clearMem_cores (s : State) (k n : Nat) : (s.clearMem k n).cores = s.cores := rfl
@[simp] theorem State.clearMem_clusters (s : State) (k n : Nat) : (s.clearMem k n).clusters = s.clusters := rfl
@[simp] theorem State.clearMem_banks (s : State) (k n : Nat) : (s.clearMem k n).banks = s.banks := rfl
@[simp] theorem State.clearMem_slices (s : State) (k n : Nat) : (s.clearMem k n).slices = s.slices := rfl
@[simp] theorem State.clearMem_regions (s : State) (k n : Nat) : (s.clearMem k n).regions = s.regions := rfl
@[simp] theorem State.clearMem_commits (s : State) (k n : Nat) : (s.clearMem k n).commits = s.commits := rfl
@[simp] theorem State.clearMem_reqs (s : State) (k n : Nat) : (s.clearMem k n).reqs = s.reqs := rfl
@[simp] theorem State.clearMem_wbs (s : State) (k n : Nat) : (s.clearMem k n).wbs = s.wbs := rfl
@[simp] theorem State.clearMem_flits (s : State) (k n : Nat) : (s.clearMem k n).flits = s.flits := rfl
@[simp] theorem State.clearMem_arrivals (s : State) (k n : Nat) : (s.clearMem k n).arrivals = s.arrivals := rfl
@[simp] theorem State.clearMem_reports (s : State) (k n : Nat) : (s.clearMem k n).reports = s.reports := rfl
@[simp] theorem State.clearMem_tallies (s : State) (k n : Nat) : (s.clearMem k n).tallies = s.tallies := rfl
@[simp] theorem State.clearMem_closeFlits (s : State) (k n : Nat) : (s.clearMem k n).closeFlits = s.closeFlits := rfl
@[simp] theorem State.clearMem_homeQ (s : State) (k n : Nat) : (s.clearMem k n).homeQ = s.homeQ := rfl
@[simp] theorem State.clearMem_full (s : State) (k n : Nat) : (s.clearMem k n).full = s.full := rfl
@[simp] theorem State.clearMem_poison (s : State) (k n : Nat) : (s.clearMem k n).poison = s.poison := rfl
@[simp] theorem State.clearMem_frameTag (s : State) (k n : Nat) : (s.clearMem k n).frameTag = s.frameTag := rfl
@[simp] theorem State.clearMem_acceptNo (s : State) (k n : Nat) : (s.clearMem k n).acceptNo = s.acceptNo := rfl
@[simp] theorem State.clearMem_host (s : State) (k n : Nat) : (s.clearMem k n).host = s.host := rfl
@[simp] theorem State.clearMem_alavis (s : State) (k n : Nat) : (s.clearMem k n).alavis = s.alavis := rfl
@[simp] theorem State.clearMem_drovers (s : State) (k n : Nat) : (s.clearMem k n).drovers = s.drovers := rfl
@[simp] theorem State.clearMem_linksDown (s : State) (k n : Nat) : (s.clearMem k n).linksDown = s.linksDown := rfl
@[simp] theorem State.clearMem_portsDown (s : State) (k n : Nat) : (s.clearMem k n).portsDown = s.portsDown := rfl
@[simp] theorem State.clearMem_up (s : State) (k n : Nat) : (s.clearMem k n).up = s.up := rfl

@[simp] theorem State.setFull_cyc (s : State) (k : Nat) (f : Bool) : (s.setFull k f).cyc = s.cyc := rfl
@[simp] theorem State.setFull_skew (s : State) (k : Nat) (f : Bool) : (s.setFull k f).skew = s.skew := rfl
@[simp] theorem State.setFull_turn (s : State) (k : Nat) (f : Bool) : (s.setFull k f).turn = s.turn := rfl
@[simp] theorem State.setFull_agenda (s : State) (k : Nat) (f : Bool) : (s.setFull k f).agenda = s.agenda := rfl
@[simp] theorem State.setFull_bun (s : State) (k : Nat) (f : Bool) : (s.setFull k f).bun = s.bun := rfl
@[simp] theorem State.setFull_nextId (s : State) (k : Nat) (f : Bool) : (s.setFull k f).nextId = s.nextId := rfl
@[simp] theorem State.setFull_threads (s : State) (k : Nat) (f : Bool) : (s.setFull k f).threads = s.threads := rfl
@[simp] theorem State.setFull_cores (s : State) (k : Nat) (f : Bool) : (s.setFull k f).cores = s.cores := rfl
@[simp] theorem State.setFull_clusters (s : State) (k : Nat) (f : Bool) : (s.setFull k f).clusters = s.clusters := rfl
@[simp] theorem State.setFull_banks (s : State) (k : Nat) (f : Bool) : (s.setFull k f).banks = s.banks := rfl
@[simp] theorem State.setFull_slices (s : State) (k : Nat) (f : Bool) : (s.setFull k f).slices = s.slices := rfl
@[simp] theorem State.setFull_regions (s : State) (k : Nat) (f : Bool) : (s.setFull k f).regions = s.regions := rfl
@[simp] theorem State.setFull_commits (s : State) (k : Nat) (f : Bool) : (s.setFull k f).commits = s.commits := rfl
@[simp] theorem State.setFull_reqs (s : State) (k : Nat) (f : Bool) : (s.setFull k f).reqs = s.reqs := rfl
@[simp] theorem State.setFull_wbs (s : State) (k : Nat) (f : Bool) : (s.setFull k f).wbs = s.wbs := rfl
@[simp] theorem State.setFull_flits (s : State) (k : Nat) (f : Bool) : (s.setFull k f).flits = s.flits := rfl
@[simp] theorem State.setFull_arrivals (s : State) (k : Nat) (f : Bool) : (s.setFull k f).arrivals = s.arrivals := rfl
@[simp] theorem State.setFull_reports (s : State) (k : Nat) (f : Bool) : (s.setFull k f).reports = s.reports := rfl
@[simp] theorem State.setFull_tallies (s : State) (k : Nat) (f : Bool) : (s.setFull k f).tallies = s.tallies := rfl
@[simp] theorem State.setFull_closeFlits (s : State) (k : Nat) (f : Bool) : (s.setFull k f).closeFlits = s.closeFlits := rfl
@[simp] theorem State.setFull_homeQ (s : State) (k : Nat) (f : Bool) : (s.setFull k f).homeQ = s.homeQ := rfl
@[simp] theorem State.setFull_mem (s : State) (k : Nat) (f : Bool) : (s.setFull k f).mem = s.mem := rfl
@[simp] theorem State.setFull_poison (s : State) (k : Nat) (f : Bool) : (s.setFull k f).poison = s.poison := rfl
@[simp] theorem State.setFull_frameTag (s : State) (k : Nat) (f : Bool) : (s.setFull k f).frameTag = s.frameTag := rfl
@[simp] theorem State.setFull_acceptNo (s : State) (k : Nat) (f : Bool) : (s.setFull k f).acceptNo = s.acceptNo := rfl
@[simp] theorem State.setFull_host (s : State) (k : Nat) (f : Bool) : (s.setFull k f).host = s.host := rfl
@[simp] theorem State.setFull_alavis (s : State) (k : Nat) (f : Bool) : (s.setFull k f).alavis = s.alavis := rfl
@[simp] theorem State.setFull_drovers (s : State) (k : Nat) (f : Bool) : (s.setFull k f).drovers = s.drovers := rfl
@[simp] theorem State.setFull_linksDown (s : State) (k : Nat) (f : Bool) : (s.setFull k f).linksDown = s.linksDown := rfl
@[simp] theorem State.setFull_portsDown (s : State) (k : Nat) (f : Bool) : (s.setFull k f).portsDown = s.portsDown := rfl
@[simp] theorem State.setFull_up (s : State) (k : Nat) (f : Bool) : (s.setFull k f).up = s.up := rfl

@[simp] theorem State.setReq_cyc (s : State) (r : Req) : (s.setReq r).cyc = s.cyc := rfl
@[simp] theorem State.setReq_skew (s : State) (r : Req) : (s.setReq r).skew = s.skew := rfl
@[simp] theorem State.setReq_turn (s : State) (r : Req) : (s.setReq r).turn = s.turn := rfl
@[simp] theorem State.setReq_agenda (s : State) (r : Req) : (s.setReq r).agenda = s.agenda := rfl
@[simp] theorem State.setReq_bun (s : State) (r : Req) : (s.setReq r).bun = s.bun := rfl
@[simp] theorem State.setReq_nextId (s : State) (r : Req) : (s.setReq r).nextId = s.nextId := rfl
@[simp] theorem State.setReq_threads (s : State) (r : Req) : (s.setReq r).threads = s.threads := rfl
@[simp] theorem State.setReq_cores (s : State) (r : Req) : (s.setReq r).cores = s.cores := rfl
@[simp] theorem State.setReq_clusters (s : State) (r : Req) : (s.setReq r).clusters = s.clusters := rfl
@[simp] theorem State.setReq_banks (s : State) (r : Req) : (s.setReq r).banks = s.banks := rfl
@[simp] theorem State.setReq_slices (s : State) (r : Req) : (s.setReq r).slices = s.slices := rfl
@[simp] theorem State.setReq_regions (s : State) (r : Req) : (s.setReq r).regions = s.regions := rfl
@[simp] theorem State.setReq_commits (s : State) (r : Req) : (s.setReq r).commits = s.commits := rfl
@[simp] theorem State.setReq_wbs (s : State) (r : Req) : (s.setReq r).wbs = s.wbs := rfl
@[simp] theorem State.setReq_flits (s : State) (r : Req) : (s.setReq r).flits = s.flits := rfl
@[simp] theorem State.setReq_arrivals (s : State) (r : Req) : (s.setReq r).arrivals = s.arrivals := rfl
@[simp] theorem State.setReq_reports (s : State) (r : Req) : (s.setReq r).reports = s.reports := rfl
@[simp] theorem State.setReq_tallies (s : State) (r : Req) : (s.setReq r).tallies = s.tallies := rfl
@[simp] theorem State.setReq_closeFlits (s : State) (r : Req) : (s.setReq r).closeFlits = s.closeFlits := rfl
@[simp] theorem State.setReq_homeQ (s : State) (r : Req) : (s.setReq r).homeQ = s.homeQ := rfl
@[simp] theorem State.setReq_mem (s : State) (r : Req) : (s.setReq r).mem = s.mem := rfl
@[simp] theorem State.setReq_full (s : State) (r : Req) : (s.setReq r).full = s.full := rfl
@[simp] theorem State.setReq_poison (s : State) (r : Req) : (s.setReq r).poison = s.poison := rfl
@[simp] theorem State.setReq_frameTag (s : State) (r : Req) : (s.setReq r).frameTag = s.frameTag := rfl
@[simp] theorem State.setReq_acceptNo (s : State) (r : Req) : (s.setReq r).acceptNo = s.acceptNo := rfl
@[simp] theorem State.setReq_host (s : State) (r : Req) : (s.setReq r).host = s.host := rfl
@[simp] theorem State.setReq_alavis (s : State) (r : Req) : (s.setReq r).alavis = s.alavis := rfl
@[simp] theorem State.setReq_drovers (s : State) (r : Req) : (s.setReq r).drovers = s.drovers := rfl
@[simp] theorem State.setReq_linksDown (s : State) (r : Req) : (s.setReq r).linksDown = s.linksDown := rfl
@[simp] theorem State.setReq_portsDown (s : State) (r : Req) : (s.setReq r).portsDown = s.portsDown := rfl
@[simp] theorem State.setReq_up (s : State) (r : Req) : (s.setReq r).up = s.up := rfl

@[simp] theorem State.dropReq_cyc (s : State) (n : Nat) : (s.dropReq n).cyc = s.cyc := rfl
@[simp] theorem State.dropReq_skew (s : State) (n : Nat) : (s.dropReq n).skew = s.skew := rfl
@[simp] theorem State.dropReq_turn (s : State) (n : Nat) : (s.dropReq n).turn = s.turn := rfl
@[simp] theorem State.dropReq_agenda (s : State) (n : Nat) : (s.dropReq n).agenda = s.agenda := rfl
@[simp] theorem State.dropReq_bun (s : State) (n : Nat) : (s.dropReq n).bun = s.bun := rfl
@[simp] theorem State.dropReq_nextId (s : State) (n : Nat) : (s.dropReq n).nextId = s.nextId := rfl
@[simp] theorem State.dropReq_threads (s : State) (n : Nat) : (s.dropReq n).threads = s.threads := rfl
@[simp] theorem State.dropReq_cores (s : State) (n : Nat) : (s.dropReq n).cores = s.cores := rfl
@[simp] theorem State.dropReq_clusters (s : State) (n : Nat) : (s.dropReq n).clusters = s.clusters := rfl
@[simp] theorem State.dropReq_banks (s : State) (n : Nat) : (s.dropReq n).banks = s.banks := rfl
@[simp] theorem State.dropReq_slices (s : State) (n : Nat) : (s.dropReq n).slices = s.slices := rfl
@[simp] theorem State.dropReq_regions (s : State) (n : Nat) : (s.dropReq n).regions = s.regions := rfl
@[simp] theorem State.dropReq_commits (s : State) (n : Nat) : (s.dropReq n).commits = s.commits := rfl
@[simp] theorem State.dropReq_wbs (s : State) (n : Nat) : (s.dropReq n).wbs = s.wbs := rfl
@[simp] theorem State.dropReq_flits (s : State) (n : Nat) : (s.dropReq n).flits = s.flits := rfl
@[simp] theorem State.dropReq_arrivals (s : State) (n : Nat) : (s.dropReq n).arrivals = s.arrivals := rfl
@[simp] theorem State.dropReq_reports (s : State) (n : Nat) : (s.dropReq n).reports = s.reports := rfl
@[simp] theorem State.dropReq_tallies (s : State) (n : Nat) : (s.dropReq n).tallies = s.tallies := rfl
@[simp] theorem State.dropReq_closeFlits (s : State) (n : Nat) : (s.dropReq n).closeFlits = s.closeFlits := rfl
@[simp] theorem State.dropReq_homeQ (s : State) (n : Nat) : (s.dropReq n).homeQ = s.homeQ := rfl
@[simp] theorem State.dropReq_mem (s : State) (n : Nat) : (s.dropReq n).mem = s.mem := rfl
@[simp] theorem State.dropReq_full (s : State) (n : Nat) : (s.dropReq n).full = s.full := rfl
@[simp] theorem State.dropReq_poison (s : State) (n : Nat) : (s.dropReq n).poison = s.poison := rfl
@[simp] theorem State.dropReq_frameTag (s : State) (n : Nat) : (s.dropReq n).frameTag = s.frameTag := rfl
@[simp] theorem State.dropReq_acceptNo (s : State) (n : Nat) : (s.dropReq n).acceptNo = s.acceptNo := rfl
@[simp] theorem State.dropReq_host (s : State) (n : Nat) : (s.dropReq n).host = s.host := rfl
@[simp] theorem State.dropReq_alavis (s : State) (n : Nat) : (s.dropReq n).alavis = s.alavis := rfl
@[simp] theorem State.dropReq_drovers (s : State) (n : Nat) : (s.dropReq n).drovers = s.drovers := rfl
@[simp] theorem State.dropReq_linksDown (s : State) (n : Nat) : (s.dropReq n).linksDown = s.linksDown := rfl
@[simp] theorem State.dropReq_portsDown (s : State) (n : Nat) : (s.dropReq n).portsDown = s.portsDown := rfl
@[simp] theorem State.dropReq_up (s : State) (n : Nat) : (s.dropReq n).up = s.up := rfl
/-! ### The field that an update writes -/

@[simp] theorem State.setThread_threads (s : State) (c k : Nat) (t : Thread) :
    (s.setThread c k t).threads = Table.set s.threads (16 * c + k) t := rfl
@[simp] theorem State.setCore_cores (s : State) (c : Nat) (x : Core) : (s.setCore c x).cores = Table.set s.cores c x := rfl
@[simp] theorem State.setCluster_clusters (s : State) (c : Nat) (x : Cluster) :
    (s.setCluster c x).clusters = Table.set s.clusters c x := rfl
@[simp] theorem State.setBank_banks (s : State) (k : Nat) (b : Bank) : (s.setBank k b).banks = Table.set s.banks k b := rfl
@[simp] theorem State.setSlice_slices (s : State) (n : Nat) (x : Slice) :
    (s.setSlice n x).slices = Table.set s.slices n x := rfl
@[simp] theorem State.setRegion_regions (s : State) (r : Nat) (x : Region) :
    (s.setRegion r x).regions = Table.set s.regions r x := rfl

/-! ### Records read after an update -/

@[simp] theorem State.thread_setThread (s : State) (c k : Nat) (t : Thread) : (s.setThread c k t).thread c k = t :=
  Table.get_set_self _ _ _ _

/-- Another thread of a core is as before, and so is every thread of another core. -/
theorem State.thread_setThread_ne (s : State) {c k c' k' : Nat} (t : Thread) (h : 16 * c' + k' ≠ 16 * c + k) :
    (s.setThread c k t).thread c' k' = s.thread c' k' := Table.get_set_ne _ _ h _

/-- Slots below 16 of two cores never share a key. -/
theorem threadKey_ne {c k c' k' : Nat} (hk : k < 16) (hk' : k' < 16) (h : c' ≠ c ∨ k' ≠ k) : 16 * c' + k' ≠ 16 * c + k := by
  omega

@[simp] theorem State.thread_modThread (s : State) (c k : Nat) (f : Thread → Thread) :
    (s.modThread c k f).thread c k = f (s.thread c k) := State.thread_setThread _ _ _ _
theorem State.thread_modThread_ne (s : State) {c k c' k' : Nat} (f : Thread → Thread) (h : 16 * c' + k' ≠ 16 * c + k) :
    (s.modThread c k f).thread c' k' = s.thread c' k' := State.thread_setThread_ne _ _ h

@[simp] theorem State.core_setCore (s : State) (c : Nat) (x : Core) : (s.setCore c x).core c = x := Table.get_set_self _ _ _ _
theorem State.core_setCore_ne (s : State) {c c' : Nat} (x : Core) (h : c' ≠ c) : (s.setCore c x).core c' = s.core c' :=
  Table.get_set_ne _ _ h _
@[simp] theorem State.core_modCore (s : State) (c : Nat) (f : Core → Core) : (s.modCore c f).core c = f (s.core c) :=
  State.core_setCore _ _ _
theorem State.core_modCore_ne (s : State) {c c' : Nat} (f : Core → Core) (h : c' ≠ c) : (s.modCore c f).core c' = s.core c' :=
  State.core_setCore_ne _ _ h

@[simp] theorem State.cluster_setCluster (s : State) (c : Nat) (x : Cluster) : (s.setCluster c x).cluster c = x :=
  Table.get_set_self _ _ _ _
theorem State.cluster_setCluster_ne (s : State) {c c' : Nat} (x : Cluster) (h : c' ≠ c) :
    (s.setCluster c x).cluster c' = s.cluster c' := Table.get_set_ne _ _ h _
@[simp] theorem State.cluster_modCluster (s : State) (c : Nat) (f : Cluster → Cluster) :
    (s.modCluster c f).cluster c = f (s.cluster c) := State.cluster_setCluster _ _ _
theorem State.cluster_modCluster_ne (s : State) {c c' : Nat} (f : Cluster → Cluster) (h : c' ≠ c) :
    (s.modCluster c f).cluster c' = s.cluster c' := State.cluster_setCluster_ne _ _ h

@[simp] theorem State.bank_setBank (s : State) (k : Nat) (b : Bank) : (s.setBank k b).bank k = b := Table.get_set_self _ _ _ _
theorem State.bank_setBank_ne (s : State) {k k' : Nat} (b : Bank) (h : k' ≠ k) : (s.setBank k b).bank k' = s.bank k' :=
  Table.get_set_ne _ _ h _
@[simp] theorem State.bank_modBank (s : State) (k : Nat) (f : Bank → Bank) : (s.modBank k f).bank k = f (s.bank k) :=
  State.bank_setBank _ _ _
theorem State.bank_modBank_ne (s : State) {k k' : Nat} (f : Bank → Bank) (h : k' ≠ k) :
    (s.modBank k f).bank k' = s.bank k' := State.bank_setBank_ne _ _ h

@[simp] theorem State.slice_setSlice (s : State) (n : Nat) (x : Slice) : (s.setSlice n x).slice n = x :=
  Table.get_set_self _ _ _ _
theorem State.slice_setSlice_ne (s : State) {n n' : Nat} (x : Slice) (h : n' ≠ n) : (s.setSlice n x).slice n' = s.slice n' :=
  Table.get_set_ne _ _ h _

@[simp] theorem State.region?_setRegion (s : State) (r : Nat) (x : Region) : (s.setRegion r x).region? r = some x :=
  Table.find_set_self _ _ _
theorem State.region?_setRegion_ne (s : State) {r r' : Nat} (x : Region) (h : r' ≠ r) :
    (s.setRegion r x).region? r' = s.region? r' := Table.find_set_ne _ h _
theorem State.region?_modRegion (s : State) (r : Nat) (f : Region → Region) :
    (s.modRegion r f).region? r = (s.region? r).map f := by
  unfold State.modRegion
  cases h : s.region? r <;> simp [h]
theorem State.region?_modRegion_ne (s : State) {r r' : Nat} (f : Region → Region) (h : r' ≠ r) :
    (s.modRegion r f).region? r' = s.region? r' := by
  unfold State.modRegion
  cases s.region? r with
  | none => rfl
  | some x => exact State.region?_setRegion_ne s _ h

/-! ### Records untouched by an update of another kind -/

@[simp] theorem State.core_setThread (s : State) (c k : Nat) (t : Thread) (d : Nat) : (s.setThread c k t).core d = s.core d := rfl
@[simp] theorem State.core_modThread (s : State) (c k : Nat) (f : Thread → Thread) (d : Nat) :
    (s.modThread c k f).core d = s.core d := rfl
@[simp] theorem State.thread_setCore (s : State) (c : Nat) (x : Core) (d k : Nat) :
    (s.setCore c x).thread d k = s.thread d k := rfl
@[simp] theorem State.thread_modCore (s : State) (c : Nat) (f : Core → Core) (d k : Nat) :
    (s.modCore c f).thread d k = s.thread d k := rfl
@[simp] theorem State.thread_modRegion (s : State) (r : Nat) (f : Region → Region) (d k : Nat) :
    (s.modRegion r f).thread d k = s.thread d k := by simp only [State.thread, State.modRegion_threads]
@[simp] theorem State.core_modRegion (s : State) (r : Nat) (f : Region → Region) (d : Nat) :
    (s.modRegion r f).core d = s.core d := by simp only [State.core, State.modRegion_cores]
@[simp] theorem State.byte_setThread (s : State) (c k : Nat) (t : Thread) (a : Nat) : (s.setThread c k t).byte a = s.byte a := rfl
@[simp] theorem State.byte_modThread (s : State) (c k : Nat) (f : Thread → Thread) (a : Nat) :
    (s.modThread c k f).byte a = s.byte a := rfl
@[simp] theorem State.byte_setCore (s : State) (c : Nat) (x : Core) (a : Nat) : (s.setCore c x).byte a = s.byte a := rfl
@[simp] theorem State.byte_modCore (s : State) (c : Nat) (f : Core → Core) (a : Nat) : (s.modCore c f).byte a = s.byte a := rfl
@[simp] theorem State.byte_setBank (s : State) (k : Nat) (b : Bank) (a : Nat) : (s.setBank k b).byte a = s.byte a := rfl
@[simp] theorem State.byte_setSlice (s : State) (n : Nat) (x : Slice) (a : Nat) : (s.setSlice n x).byte a = s.byte a := rfl
@[simp] theorem State.byte_modRegion (s : State) (r : Nat) (f : Region → Region) (a : Nat) :
    (s.modRegion r f).byte a = s.byte a := by simp only [State.byte, State.modRegion_mem]

end Sys2Proof.Machine
end

