-- ==== Sys2Proof/Laws/Memory.lean ====
section
/-! SUPPORT. The laws of memory: what a read gives after a write, that a write leaves every other byte alone, and that every
operation on memory keeps its canonical form. -/

namespace Sys2Proof.Machine

/-! ### Reading after writing -/

/-- A write leaves every byte outside its range alone. -/
theorem memWrite_get_out (m : List Host.Cell) (key v n a : Nat) (h : a < key ∨ key + n ≤ a) :
    Table.get memDflt (memWrite m key v n) a = Table.get memDflt m a := by
  induction n generalizing m key v with
  | zero => rfl
  | succ n ih =>
    rw [memWrite, ih _ _ _ (by omega), Table.get_put_ne _ _ (by omega)]

theorem memWrite_wf (m : List Host.Cell) (key v n : Nat) (h : Memory.wf m = true) : Memory.wf (memWrite m key v n) = true := by
  induction n generalizing m key v with
  | zero => exact h
  | succ n ih => exact ih _ _ _ (Table.canon_put _ _ _ _ h)

/-- A written byte reads as its byte of the little-endian number. -/
theorem memWrite_get_in (m : List Host.Cell) (key v n i : Nat) (h : Memory.wf m = true) (hi : i < n) :
    Table.get memDflt (memWrite m key v n) (key + i) = BitVec.ofNat 8 (v / 256 ^ i) := by
  induction n generalizing m key v i with
  | zero => omega
  | succ n ih =>
    have hw := Table.canon_put memDflt m key (BitVec.ofNat 8 v) h
    cases i with
    | zero =>
      rw [memWrite, memWrite_get_out _ _ _ _ _ (by omega), Nat.add_zero, Table.get_put_self _ _ _ _ h]
      simp
    | succ i =>
      have := ih (Table.put memDflt m key (BitVec.ofNat 8 v)) (key + 1) (v / 256) i hw (by omega)
      rw [memWrite, show key + (i + 1) = key + 1 + i by omega, this, Nat.div_div_eq_div_mul, Nat.pow_succ, Nat.mul_comm]

theorem memRead_congr (m m' : List Host.Cell) (key n : Nat)
    (h : ∀ a, key ≤ a → a < key + n → Table.get memDflt m a = Table.get memDflt m' a) : memRead m key n = memRead m' key n := by
  induction n generalizing key with
  | zero => rfl
  | succ n ih =>
    rw [memRead, memRead, h key (by omega) (by omega), ih (key + 1) (fun a h1 h2 => h a (by omega) (by omega))]

theorem memRead_lt (m : List Host.Cell) (key n : Nat) : memRead m key n < 256 ^ n := by
  induction n generalizing key with
  | zero => simp [memRead]
  | succ n ih =>
    have h1 := ih (key + 1)
    have h2 := (Table.get memDflt m key).isLt
    rw [memRead, Nat.pow_succ]
    omega

/-- A read after a write to the same place gives what was written. -/
theorem memRead_memWrite (m : List Host.Cell) (key v n : Nat) (h : Memory.wf m = true) :
    memRead (memWrite m key v n) key n = v % 256 ^ n := by
  induction n generalizing m key v with
  | zero => simp [memRead, Nat.mod_one]
  | succ n ih =>
    have hw := Table.canon_put memDflt m key (BitVec.ofNat 8 v) h
    rw [memRead, memWrite, memWrite_get_out _ _ _ _ _ (by omega), Table.get_put_self _ _ _ _ h, ih _ _ _ hw,
      BitVec.toNat_ofNat, Nat.pow_succ 256 n, Nat.mul_comm (256 ^ n) 256, Nat.mod_mul]

/-- A read elsewhere is as before. -/
theorem memRead_memWrite_out (m : List Host.Cell) (key v n a k : Nat) (h : a + k ≤ key ∨ key + n ≤ a) :
    memRead (memWrite m key v n) a k = memRead m a k :=
  memRead_congr _ _ _ _ (fun b h1 h2 => memWrite_get_out _ _ _ _ _ (by omega))

theorem State.read_write (s : State) (k n v : Nat) (h : Memory.wf s.mem = true) : (s.write k n v).read k n = v % 256 ^ n :=
  memRead_memWrite _ _ _ _ h

theorem State.byte_write_out (s : State) (k n v a : Nat) (h : a < k ∨ k + n ≤ a) : (s.write k n v).byte a = s.byte a :=
  memWrite_get_out _ _ _ _ _ h

theorem State.byte_clearMem (s : State) (k n a : Nat) :
    (s.clearMem k n).byte a = if k ≤ a ∧ a < k + n then memDflt else s.byte a := Table.get_clear _ _ _ _ _

/-! ### What the writes of scratch and of physical memory change -/

@[simp] theorem State.countHist_mem (s : State) (cl sa n : Nat) : (s.countHist cl sa n).mem = s.mem := by
  unfold State.countHist
  dsimp only
  split <;> rfl

@[simp] theorem State.scratchWrite_mem (s : State) (cl sa n v : Nat) :
    (s.scratchWrite cl sa n v).mem = memWrite s.mem (scratchKey cl sa) v n := by
  unfold State.scratchWrite State.stepBank
  simp [State.write]

@[simp] theorem State.paWrite_mem (s : State) (pa n v : Nat) : (s.paWrite pa n v).mem = memWrite s.mem pa v n := rfl

/-- All that a write of the part itself does: it waits, or the bits that it keeps and those that it sets are in memory, and copies
of its lines are gone. -/
theorem State.homeMerge_cases (s : State) (pa n keep v : Nat) :
    (s.homeHeld pa n = true ∧ s.homeMerge pa n keep v = { s with homeQ := s.homeQ ++ [⟨pa, n, keep, v⟩] }) ∨
    (s.homeHeld pa n = false ∧ s.homeMerge pa n keep v =
      (s.rangeTaken pa n).paWrite pa n (if keep = 0 then v else Nat.lor (Nat.land (s.read pa n) keep) v)) := by
  unfold State.homeMerge
  cases h : s.homeHeld pa n
  · exact .inr ⟨rfl, rfl⟩
  · exact .inl ⟨rfl, rfl⟩

/-- One that does not wait changes the bytes that it stores, and no others. -/
theorem State.homeWrite_mem (s : State) (pa n v : Nat) (h : s.homeHeld pa n = false) :
    (s.homeWrite pa n v).mem = memWrite s.mem pa v n := by
  unfold State.homeWrite State.homeMerge
  rw [h]
  simp [State.homePut]

@[simp] theorem State.homeWrite_host (s : State) (pa n v : Nat) : (s.homeWrite pa n v).host = s.host := by
  obtain ⟨-, h⟩ | ⟨-, h⟩ := s.homeMerge_cases pa n 0 v <;> unfold State.homeWrite <;> rw [h]
  obtain ⟨b, k, h⟩ := s.rangeTaken_lines pa n
  rw [h]
  rfl

@[simp] theorem State.clearBank_mem (s : State) (cl b : Nat) :
    (s.clearBank cl b).mem = Table.clear s.mem (scratchKey cl (b * 2 ^ 17)) (2 ^ 17) := rfl

@[simp] theorem State.stepLines_mem (s : State) (pa n : Nat) : (s.stepLines pa n).mem = s.mem := by
  unfold State.stepLines
  have h : ∀ (l : List Nat) (x : State), (l.foldl (fun s i => s.stepSlice (s.sliceOf (s.fwd (pa + 128 * i)))) x).mem = x.mem := by
    intro l
    induction l with
    | nil => intro x; rfl
    | cons a l ih => intro x; rw [List.foldl_cons, ih]; rfl
  exact h _ _

/-! ### Every operation keeps the canonical form -/

theorem reset_memory_wf : Memory.wf State.reset.mem = true := rfl

theorem State.setByte_wf (s : State) (k : Nat) (b : Byte) (h : Memory.wf s.mem = true) : Memory.wf (s.setByte k b).mem = true :=
  Table.canon_put _ _ _ _ h

theorem State.write_wf (s : State) (k n v : Nat) (h : Memory.wf s.mem = true) : Memory.wf (s.write k n v).mem = true :=
  memWrite_wf _ _ _ _ h

theorem State.clearMem_wf (s : State) (k n : Nat) (h : Memory.wf s.mem = true) : Memory.wf (s.clearMem k n).mem = true :=
  Table.canon_clear _ _ _ _ h

theorem State.scratchWrite_wf (s : State) (cl sa n v : Nat) (h : Memory.wf s.mem = true) :
    Memory.wf (s.scratchWrite cl sa n v).mem = true := by
  rw [State.scratchWrite_mem]
  exact memWrite_wf _ _ _ _ h

theorem State.paWrite_wf (s : State) (pa n v : Nat) (h : Memory.wf s.mem = true) : Memory.wf (s.paWrite pa n v).mem = true :=
  memWrite_wf _ _ _ _ h

theorem State.homeWrite_wf (s : State) (pa n v : Nat) (h : Memory.wf s.mem = true) :
    Memory.wf (s.homeWrite pa n v).mem = true := by
  obtain ⟨-, e⟩ | ⟨-, e⟩ := s.homeMerge_cases pa n 0 v <;> unfold State.homeWrite <;> rw [e]
  · exact h
  · exact State.paWrite_wf _ _ _ _ (by simpa using h)

theorem State.clearBank_wf (s : State) (cl b : Nat) (h : Memory.wf s.mem = true) : Memory.wf (s.clearBank cl b).mem = true :=
  Table.canon_clear _ _ _ _ h

theorem State.copyMem_wf (s : State) (src dst n : Nat) (h : Memory.wf s.mem = true) :
    Memory.wf (s.copyMem src dst n).mem = true := by
  have key : ∀ (l m : List Host.Cell), Memory.wf m = true →
      Memory.wf (l.foldl (fun m (e : Nat × Byte) => Table.put memDflt m (dst + (e.1 - src)) e.2) m) = true := by
    intro l
    induction l with
    | nil => intro m hm; exact hm
    | cons e l ih => intro m hm; exact ih _ (Table.canon_put _ _ _ _ hm)
  refine key _ _ (Table.canon_clear _ _ _ _ ?_)
  simpa [Memory.wf] using h

/-- Copying and clearing lines through a migration keep the canonical form. -/
theorem State.copyLines_wf (s : State) (src dst n : Nat) (h : Memory.wf s.mem = true) :
    Memory.wf (s.copyLines src dst n).mem = true := by
  have key : ∀ (l : List Nat) (x : State), Memory.wf x.mem = true →
      Memory.wf (l.foldl (fun s i => s.copyMem (s.fwd (src + 128 * i)) (s.fwd (dst + 128 * i)) 128) x).mem = true := by
    intro l
    induction l with
    | nil => intro x hx; exact hx
    | cons e l ih => intro x hx; exact ih _ (State.copyMem_wf x _ _ _ hx)
  unfold State.copyLines
  split
  · exact State.copyMem_wf s src dst n h
  · exact key _ _ h

theorem State.clearLines_wf (s : State) (pa n : Nat) (h : Memory.wf s.mem = true) :
    Memory.wf (s.clearLines pa n).mem = true := by
  have key : ∀ (l : List Nat) (x : State), Memory.wf x.mem = true →
      Memory.wf (l.foldl (fun s i => (s.rangeTaken (s.fwd (pa + 128 * i)) 128).clearMem (s.fwd (pa + 128 * i)) 128) x).mem =
        true := by
    intro l
    induction l with
    | nil => intro x hx; exact hx
    | cons e l ih => intro x hx; exact ih _ (State.clearMem_wf _ _ _ (by simpa using hx))
  unfold State.clearLines
  split
  · exact State.clearMem_wf _ pa n (by simpa using h)
  · exact key _ _ h

theorem writeWords_wf (ws : List Word) (s : State) (pa : Nat) (h : Memory.wf s.mem = true) :
    Memory.wf (writeWords s pa ws).mem = true := by
  induction ws generalizing s pa with
  | nil => exact h
  | cons w ws ih => exact ih _ _ (State.homeWrite_wf s pa 8 _ h)

end Sys2Proof.Machine
end

