-- ==== Sys2Proof/Laws/Ops.lean ====
section
/-! SUPPORT. The other ends of an instruction: stopped by its gate, a fault, a park, a trap, or its place in a bundle in
progress; and what parking leaves unchanged. -/

namespace Sys2Proof.Machine

/-- An instruction word never ends a run: its meaning answers a next state. -/
theorem run_answers_next (i : Instr) (s : State) (eff : State → Res) : ∃ t, run i s eff = .next t := by
  unfold run
  split
  · exact ⟨_, rfl⟩
  · cases gate s [(i, issueW5 s.bun.word i.shape.arith)] with
    | some o => exact ⟨_, rfl⟩
    | none => exact ⟨_, rfl⟩

/-- In a bundle in progress an instruction only applies its effect. -/
theorem run_in_bundle {i : Instr} {s : State} {eff : State → Res} (h : s.bun.active = true) :
    run i s eff = .next (s.after (eff s)) := by
  unfold run; rw [if_pos h]

/-- Everything a lone instruction can do: its gate stops it, or its effect ends the bundle. -/
theorem run_cases {i : Instr} {s t : State} {eff : State → Res} (h : s.bun.active = false) (hr : run i s eff = .next t) :
    (∃ o, gate s [(i, issueW5 s.bun.word i.shape.arith)] = some o ∧ t = gateEnd s o) ∨
    (gate s [(i, issueW5 s.bun.word i.shape.arith)] = none ∧
      t = finish (s.enter [i]) ((s.enter [i]).after (eff (s.enter [i])))) := by
  unfold run at hr
  rw [if_neg (by simp [h])] at hr
  cases hg : gate s [(i, issueW5 s.bun.word i.shape.arith)] with
  | some o =>
    simp only [hg, Host.Outcome.next.injEq] at hr
    exact .inl ⟨o, rfl, hr.symm⟩
  | none =>
    simp only [hg, Host.Outcome.next.injEq] at hr
    exact .inr ⟨rfl, hr.symm⟩

/-- An effect that faults stops the thread and leaves nothing else behind (R24, R44). -/
theorem run_fault {i : Instr} {s : State} {eff : State → Res} {f : Flt} (h : Issues i s)
    (he : eff (s.enter [i]) = .fault f) :
    run i s eff = .next (stopThread { s with bun := Bun.none } s.bun.cid s.bun.slot f s.bun.addr) := by
  have hg := gate_none h (issueW5 s.bun.word i.shape.arith)
  obtain ⟨h1, h2, -, -, -, -, -, -, h9, h10⟩ := h
  have ha : allowOk ((s.enter [i]).after (.fault f)) = true := h10
  have ho : ((s.enter [i]).after (.fault f)).bun.out = .fault f := rfl
  have hv : ((s.enter [i]).after (.fault f)).bun.vals = peekVals s [i] := by simp [State.enter, State.after, h2]
  have hf : (({ s with bun := Bun.none } : State).core ((s.enter [i]).after (.fault f)).bun.cid).frozenAmong
      ((s.enter [i]).after (.fault f)).bun.vals = none := by rw [hv]; exact h9
  unfold run
  simp only [h1, Bool.false_eq_true, if_false, hg, he]
  unfold finish
  simp only [ho, ha, if_true, takesEffect_thawed hf]
  rfl

/-- An effect that parks leaves the park note alone behind (R97). -/
theorem run_park {i : Instr} {s : State} {eff : State → Res} {r : Nat} {n : ParkNote} (h : Issues i s)
    (he : eff (s.enter [i]) = .park r n) :
    run i s eff = .next (noteWait (parkThread { s with bun := Bun.none } s.bun.cid s.bun.slot r) s.bun.cid s.bun.slot n) := by
  have hg := gate_none h (issueW5 s.bun.word i.shape.arith)
  obtain ⟨h1, -⟩ := h
  unfold run
  simp only [h1, Bool.false_eq_true, if_false, hg, he]
  rfl

@[simp] theorem parkThread_mem (s : State) (cid slot r : Nat) : (parkThread s cid slot r).mem = s.mem := rfl
@[simp] theorem parkThread_cores (s : State) (cid slot r : Nat) : (parkThread s cid slot r).cores = s.cores := rfl
@[simp] theorem parkThread_wbs (s : State) (cid slot r : Nat) : (parkThread s cid slot r).wbs = s.wbs := rfl
@[simp] theorem parkThread_reqs (s : State) (cid slot r : Nat) : (parkThread s cid slot r).reqs = s.reqs := rfl

@[simp] theorem noteWait_mem (s : State) (cid slot : Nat) (n : ParkNote) : (noteWait s cid slot n).mem = s.mem := by
  cases n with
  | vmode => simp only [noteWait]; split <;> rfl
  | _ => rfl

/-- An act that is registered touches no memory. -/
@[simp] theorem withActs_mem (s : State) (acts : List WbAct) (n : Nat) : (s.withActs acts n).mem = s.mem := rfl

end Sys2Proof.Machine
end

