-- ==== Sys2Proof/Laws/PerInstr.lean ====
section
/-! SUPPORT. Decoding gives back what was encoded, one lemma for each constructor: the fields first, then the formats, then
the instructions. -/

namespace Sys2Proof.Laws

/-! ### Fields -/

theorem segOf_segMid (g : Seg) (m : Fin 8) : segOf (segMid g m) = g := by revert g m; decide
theorem midOf_segMid (g : Seg) (m : Fin 8) : midOf (segMid g m) = m := by revert g m; decide
theorem hi3_hilo (h l : Fin 8) : hi3 (hilo h l) = h := by revert h l; decide
theorem lo3_hilo (h l : Fin 8) : lo3 (hilo h l) = l := by revert h l; decide

theorem imm9Of_parts (g : Seg) (i : BitVec 9) : imm9Of (segMid g (imm9Mid i)) (imm9Lo i) = i := by
  apply BitVec.eq_of_toNat_eq
  simp only [imm9Of, segMid, imm9Mid, imm9Lo, BitVec.toNat_ofNat]
  omega

theorem off12Of_parts (i : BitVec 12) : off12Of (off12Hi i) (off12Lo i) = i := by
  apply BitVec.eq_of_toNat_eq
  simp only [off12Of, off12Hi, off12Lo, BitVec.toNat_ofNat]
  omega

theorem imm18Of_parts (i : BitVec 18) : imm18Of (imm18A i) (imm18B i) (imm18C i) = i := by
  apply BitVec.eq_of_toNat_eq
  simp only [imm18Of, imm18A, imm18B, imm18C, BitVec.toNat_ofNat]
  omega

theorem off24Of_parts (i : BitVec 24) : off24Of (off24A i) (off24B i) (off24C i) (off24D i) = i := by
  apply BitVec.eq_of_toNat_eq
  simp only [off24Of, off24A, off24B, off24C, off24D, BitVec.toNat_ofNat]
  omega

theorem op4Of_parts (g : Seg) (k : Fin 16) (r : Fin 32) : op4Of (segMid g (op4Mid k)) (op4Lo k r) = k := by
  apply Fin.ext
  simp only [op4Of, segMid, op4Mid, op4Lo]
  omega

theorem thirdOf_parts (g : Seg) (t : Reg) (z : Fin 4) : thirdOf (segMid g (thirdMid t)) (thirdLo t z) = t := by
  apply Fin.ext
  simp only [thirdOf, segMid, thirdMid, thirdLo]
  omega

theorem scope_roundTrip (sc : Scope) : Scope.ofCode sc.code = some sc := by cases sc <;> rfl
theorem size_roundTrip (z : Size) : Size.ofCode z.code = z := by cases z <;> rfl
theorem rm_roundTrip (r : Rm) : Rm.ofCode r.code = some r := by cases r <;> rfl
theorem intMod_roundTrip (m : IntMod) : IntMod.ofCode m.code = some m := by cases m <;> rfl
theorem vt_roundTrip (t : VT) : VT.ofCode t.code = t := by rcases t with t | t <;> cases t <;> rfl
theorem st_roundTrip (t : ST) : ST.ofCode t.code = t := by rcases t with t | t <;> cases t <;> rfl

/-! ### Words -/

/-- A word's chunks are those it was made of, with either `lone` bit. -/
theorem chunksOf_wordOf (lone : Bool) (c : Chunks) : chunksOf (wordOf lone c) = c := by
  obtain ⟨cls, op, x3, x2, x1, x0⟩ := c
  have h : ∀ b : Bool, b.toNat = 0 ∨ b.toNat = 1 := by decide
  simp only [chunksOf, chunk, wordOf, Chunks.mk.injEq, Fin.ext_iff]
  refine ⟨?_, ?_, ?_, ?_, ?_, ?_⟩
  · cases cls <;> cases lone <;> simp <;> omega
  all_goals (rcases h cls with e | e <;> rcases h lone with f | f <;> simp only [e, f] <;> omega)

/-- A word has 32 bits. -/
theorem wordOf_lt (lone : Bool) (c : Chunks) : wordOf lone c < 2 ^ 32 := by
  have h : ∀ b : Bool, b.toNat ≤ 1 := by decide
  have h1 := h lone
  have h2 := h c.cls
  simp only [wordOf]
  omega

namespace RoundTrip

/-- The chunks that stand for a well-formed instruction decode to it. -/
def Statement (i : Instr) : Prop := ∀ c, i.wf = true → encodeChunks i = some c → decodeChunks c = .ok i

theorem of_none {i : Instr} (h : encodeChunks i = none) : Statement i := by
  intro c _ hc
  rw [h] at hc
  exact nomatch hc

theorem of_wf {i : Instr} {c : Chunks} (h : encodeChunks i = some c) (hd : i.wf = true → decodeChunks c = .ok i) :
    Statement i := by
  intro x hw hx
  rw [h] at hx
  cases hx
  exact hd hw

theorem of_decode {i : Instr} {c : Chunks} (h : encodeChunks i = some c) (hd : decodeChunks c = .ok i) : Statement i :=
  of_wf h (fun _ => hd)

/-! ### Formats -/

theorem needZ_ok {z : Bool} {i j : Instr} (h : z = true) (e : i = j) : needZ z i = .ok j := by rw [h, e]; rfl

/-- A small operand in `arg`. -/
theorem argOk {n : Nat} (f : Fin n → Instr) (h : n ≤ 64) (v : Fin n) :
    needZ (decide ((argN n h v).val < n)) (f ⟨(argN n h v).val % n, Nat.mod_lt _ (by have := v.isLt; omega)⟩) = .ok (f v) :=
  needZ_ok (decide_eq_true v.isLt) (congrArg f (Fin.ext (Nat.mod_eq_of_lt v.isLt)))

/-- A direction and an index in `arg`. -/
theorem dirOk (f : Bool → Fin 16 → Instr) (o : Bool) (i : Fin 16) :
    needZ (decide ((dirIdx o i).val < 32)) (f (decide ((dirIdx o i).val / 16 % 2 = 1))
      ⟨(dirIdx o i).val % 16, Nat.mod_lt _ (by decide)⟩) = .ok (f o i) := by
  have h1 : decide ((dirIdx o i).val < 32) = true := by revert i; cases o <;> decide
  have h2 : decide ((dirIdx o i).val / 16 % 2 = 1) = o := by revert i; cases o <;> decide
  have h3 : (dirIdx o i).val % 16 = i.val := by revert i; cases o <;> decide
  exact needZ_ok h1 (congr (congrArg f h2) (Fin.ext h3))

/-- Format M. -/
theorem formM (f : Seg → BitVec 9 → Instr) (g : Seg) (i : BitVec 9) :
    Dec.ok (f (segOf (segMid g (imm9Mid i))) (imm9Of (segMid g (imm9Mid i)) (imm9Lo i))) = .ok (f g i) := by
  rw [segOf_segMid, imm9Of_parts]

theorem waitOk (mx cp st ld : Fin 16) : decodeChunks ⟨false, 0x05, 0, waitX2 mx, waitX1 cp st, waitX0 st ld⟩
    = .ok (.wait mx cp st ld) := by
  have h1 : waitMx (waitX2 mx) = mx := by
    apply Fin.ext
    simp only [waitMx, waitX2]
    omega
  have h2 : waitCp (waitX1 cp st) = cp := by
    apply Fin.ext
    simp only [waitCp, waitX1]
    omega
  have h3 : waitSt (waitX1 cp st) (waitX0 st ld) = st := by
    apply Fin.ext
    simp only [waitSt, waitX1, waitX0]
    omega
  have h4 : waitLd (waitX0 st ld) = ld := by
    apply Fin.ext
    simp only [waitLd, waitX0]
    omega
  refine needZ_ok (decide_eq_true mx.isLt) ?_
  rw [h1, h2, h3, h4]

theorem atomicOk (k : Fin 16) (o : AOrd) (n dw : Bool) (d x : Reg) (g : Seg) :
    decodeChunks ⟨false, o.op, d, x, segMid g (op4Mid k), op4Lo k (atomLo n dw o.scopeCode)⟩ =
      decAtomicOp k o n dw d x g := by
  have hs : ∀ c : Fin 8, lo3 (op4Lo k (atomLo n dw c)) = c := by revert k; cases n <;> cases dw <;> decide
  have hn : ∀ c : Fin 8, decide ((op4Lo k (atomLo n dw c)).val / 16 % 2 = 1) = n := by
    revert k; cases n <;> cases dw <;> decide
  have hd : ∀ c : Fin 8, decide ((op4Lo k (atomLo n dw c)).val / 8 % 2 = 1) = dw := by
    revert k; cases n <;> cases dw <;> decide
  have key : ∀ (j : Nat) (op : Fin 64) (c : Fin 8), decodeChunks ⟨false, op, d, x, segMid g (op4Mid k),
      op4Lo k (atomLo n dw c)⟩ = decAtomic j d x (segMid g (op4Mid k)) (op4Lo k (atomLo n dw c)) →
      decodeChunks ⟨false, op, d, x, segMid g (op4Mid k), op4Lo k (atomLo n dw c)⟩ =
        match j with
        | 0 => if c = 0 then decAtomicOp k .plain n dw d x g else .illegalOpcode
        | 1 => needC (Scope.ofCode c) fun sc => decAtomicOp k (.acq sc) n dw d x g
        | _ => needC (Scope.ofCode c) fun sc => decAtomicOp k (.rel sc) n dw d x g := by
    intro j op c h
    rw [h]
    simp only [decAtomic, hs, hn, hd, op4Of_parts, segOf_segMid] <;> rfl
  cases o with
  | plain => exact key 0 _ _ rfl
  | acq sc => exact (key 1 _ _ rfl).trans (by rw [AOrd.scopeCode, scope_roundTrip]; rfl)
  | rel sc => exact (key 2 _ _ rfl).trans (by rw [AOrd.scopeCode, scope_roundTrip]; rfl)

theorem rstOk (st : Fin 16) (z : Size) (d x : Reg) (g : Seg) :
    decodeChunks ⟨false, 0x33, d, x, segMid g (op4Mid st), op4Lo st (rstLo z)⟩ = .ok (.rst st z d x g) := by
  have h1 : decide (lo3 (op4Lo st (rstLo z)) = 0) = true := by revert st; cases z <;> decide
  have h2 : Size.ofCode ⟨(op4Lo st (rstLo z)).val / 8 % 4, Nat.mod_lt _ (by decide)⟩ = z := by
    revert st; cases z <;> decide
  refine needZ_ok h1 ?_
  rw [h2, op4Of_parts, segOf_segMid]

theorem vidxOk (k : Nat) (t : Reg) (z : Size) (d x : Reg) (g : Seg) :
    decVidx k d x (segMid g (thirdMid t)) (thirdLo t z.code) = match k with
      | 0 => .ok (.vlds t z d x g)
      | 1 => .ok (.vgath t z d x g)
      | _ => .ok (.vscat t z d x g) := by
  have h1 : (thirdLo t z.code).val % 2 ≠ 1 := by revert t; cases z <;> decide
  have h2 : Size.ofCode ⟨(thirdLo t z.code).val / 2 % 4, Nat.mod_lt _ (by decide)⟩ = z := by revert t; cases z <;> decide
  simp only [decVidx, thirdOf_parts, segOf_segMid, h1, h2, if_false] <;> rfl

theorem feOk (m : Fin 8) (d x : Reg) (g : Seg) : decFe d x (segMid g m) 0 = match m.val with
    | 0 => needZ (decide (d = 0)) (.feset x g)
    | 2 => needZ (decide (d = 0)) (.feclr x g)
    | 4 => .ok (.feq d x g)
    | _ => .illegalOpcode := by
  simp only [decFe, midOf_segMid, segOf_segMid]
  rfl

theorem cacheOk (m : Fin 8) (x : Reg) (g : Seg) : decCache 0 x (segMid g m) 0 = match m.val with
    | 0 => .ok (.pref x g)
    | 2 => .ok (.cclean x g)
    | 4 => .ok (.cinval x g)
    | _ => .illegalOpcode := by
  simp only [decCache, midOf_segMid, segOf_segMid]
  rfl

theorem sizeOf_sizeSx (z : Size) (sx : Bool) (h : (sizeSx z sx).val / 2 < 4) :
    Size.ofCode ⟨(sizeSx z sx).val / 2, h⟩ = z := by revert h; cases z <;> cases sx <;> intro h <;> rfl

theorem sx_sizeSx (z : Size) (sx : Bool) : decide ((sizeSx z sx).val % 2 = 1) = sx := by
  cases z <;> cases sx <;> rfl

theorem ldAcqOk (l : Fin 8) (z : Size) (sx : Bool) (sc : Scope) (d x : Reg) (g : Seg)
    (h : (decide (z = Size.d) && sx) = false) :
    decLdAcq d x (segMid g (sizeSx z sx)) (hilo sc.code l) = match l.val with
      | 0 => .ok (.ldAcq z sx sc d x g)
      | 4 => .ok (.ldgAcq z sx sc d x g)
      | _ => .illegalOpcode := by
  simp only [decLdAcq, midOf_segMid, segOf_segMid, hi3_hilo, lo3_hilo, scope_roundTrip, needC, sizeOf_sizeSx,
    sx_sizeSx, h]
  rfl

theorem stRelOk (l : Fin 8) (z : Size) (sc : Scope) (d x : Reg) (g : Seg) :
    decStRel d x (segMid g (sizeSx z false)) (hilo sc.code l) = match l.val with
      | 0 => .ok (.stRel z sc d x g)
      | 4 => .ok (.stgRel z sc d x g)
      | _ => .illegalOpcode := by
  have h : (sizeSx z false).val % 2 ≠ 1 := by cases z <;> decide
  simp only [decStRel, midOf_segMid, segOf_segMid, hi3_hilo, lo3_hilo, scope_roundTrip, needC, sizeOf_sizeSx,
    h, if_false] <;> rfl

theorem arithOk (op d a b : Fin 64) (r l : Fin 8) :
    decodeChunks ⟨true, op, d, a, b, hilo r l⟩ = decArith op d a b r l := by
  simp only [decodeChunks, hi3_hilo, lo3_hilo, if_true]

theorem cvtOk (same both : Bool) (r : Rm) (f : Rm → Instr) (h : vcvtRmOk same both r = true) :
    cvtRm same both r.code f = .ok (f r) := by
  simp only [cvtRm, rm_roundTrip, h, if_true]

theorem vcvtOk (d a : Reg) (r : Rm) (dst src : VT) (h : vcvtRmOk (dst = src) (dst.isInt && src.isInt) r = true) :
    decArith 0x26 d a (argN 8 (by decide) src.code) r.code dst.code = .ok (.vcvt dst src r d a) := by
  have e : lo3 (argN 8 (by decide) src.code) = src.code := by generalize src.code = c; revert c; decide
  show (if src.code.val < 8 then cvtRm (VT.ofCode dst.code = VT.ofCode (lo3 (argN 8 (by decide) src.code)))
    ((VT.ofCode dst.code).isInt && (VT.ofCode (lo3 (argN 8 (by decide) src.code))).isInt) r.code
    (fun r => .vcvt (VT.ofCode dst.code) (VT.ofCode (lo3 (argN 8 (by decide) src.code))) r d a)
    else .illegalOpcode) = _
  rw [if_pos src.code.isLt, e, vt_roundTrip, vt_roundTrip]
  exact cvtOk _ _ r _ h

theorem vcvtSOk (d a : Reg) (r : Rm) (dst src : ST) (h : vcvtRmOk (dst = src) (dst.isInt && src.isInt) r = true) :
    decArith 0x2E d a (argN 8 (by decide) src.code) r.code dst.code = .ok (.vcvtS dst src r d a) := by
  have e : lo3 (argN 8 (by decide) src.code) = src.code := by generalize src.code = c; revert c; decide
  show (if src.code.val < 8 then cvtRm (ST.ofCode dst.code = ST.ofCode (lo3 (argN 8 (by decide) src.code)))
    ((ST.ofCode dst.code).isInt && (ST.ofCode (lo3 (argN 8 (by decide) src.code))).isInt) r.code
    (fun r => .vcvtS (ST.ofCode dst.code) (ST.ofCode (lo3 (argN 8 (by decide) src.code))) r d a)
    else .illegalOpcode) = _
  rw [if_pos src.code.isLt, e, st_roundTrip, st_roundTrip]
  exact cvtOk _ _ r _ h

/-! ### Instructions -/

theorem nop : Statement .nop := of_decode rfl rfl
theorem nopArith : Statement .nopArith := of_decode rfl rfl
theorem yield : Statement .yield := of_decode rfl rfl
theorem exit : Statement .exit := of_decode rfl rfl
theorem trap (a : Reg) : Statement (.trap a) := of_decode rfl rfl
theorem jr (a : Reg) : Statement (.jr a) := of_decode rfl rfl
theorem jlr (a : Reg) : Statement (.jlr a) := of_decode rfl rfl
theorem rdsr (d : Reg) (sr : SrNum) : Statement (.rdsr d sr) := of_decode rfl rfl
theorem wrsr (b : Reg) (sr : SrNum) : Statement (.wrsr b sr) := of_decode rfl rfl
theorem fence (sc : Scope) : Statement (.fence sc) :=
  by cases sc <;> exact of_decode rfl rfl
theorem widen (sc : Scope) : Statement (.widen sc) :=
  by cases sc <;> exact of_decode rfl rfl
theorem vmode : Statement .vmode := of_decode rfl rfl
theorem vmodeLong : Statement .vmodeLong := of_decode rfl rfl
theorem tstart (a : Reg) (b : Reg) : Statement (.tstart a b) := of_decode rfl rfl
theorem treap (a : Reg) : Statement (.treap a) := of_decode rfl rfl
theorem tstat (d : Reg) (b : Reg) : Statement (.tstat d b) := of_decode rfl rfl
theorem rvinit (a : Reg) (pt : Point) : Statement (.rvinit a pt) :=
  of_decode rfl (argOk (.rvinit a) (by decide) pt)
theorem rvarr (pt : Point) : Statement (.rvarr pt) :=
  of_decode rfl (argOk .rvarr (by decide) pt)
theorem rvwait (pt : Point) : Statement (.rvwait pt) :=
  of_decode rfl (argOk .rvwait (by decide) pt)
theorem rvbytes (a : Reg) (pt : Point) : Statement (.rvbytes a pt) :=
  of_decode rfl (argOk (.rvbytes a) (by decide) pt)
theorem movi (d : Reg) (imm : BitVec 18) : Statement (.movi d imm) :=
  of_decode rfl (congrArg (fun y => Dec.ok (.movi d y)) (imm18Of_parts imm))
theorem movhi (d : Reg) (imm : BitVec 18) : Statement (.movhi d imm) :=
  of_decode rfl (congrArg (fun y => Dec.ok (.movhi d y)) (imm18Of_parts imm))
theorem addi (d : Reg) (imm : BitVec 18) : Statement (.addi d imm) :=
  of_decode rfl (congrArg (fun y => Dec.ok (.addi d y)) (imm18Of_parts imm))
theorem addiW (d : Reg) (imm : BitVec 18) : Statement (.addiW d imm) :=
  of_decode rfl (congrArg (fun y => Dec.ok (.addiW d y)) (imm18Of_parts imm))
theorem wait (mx : Fin 16) (cp : Fin 16) (st : Fin 16) (ld : Fin 16) : Statement (.wait mx cp st ld) :=
  of_decode rfl (waitOk mx cp st ld)
theorem j (off : BitVec 24) : Statement (.j off) :=
  of_decode rfl (congrArg (fun y => Dec.ok (.j y)) (off24Of_parts off))
theorem jl (off : BitVec 24) : Statement (.jl off) :=
  of_decode rfl (congrArg (fun y => Dec.ok (.jl y)) (off24Of_parts off))
theorem spawn (off : BitVec 24) : Statement (.spawn off) :=
  of_decode rfl (congrArg (fun y => Dec.ok (.spawn y)) (off24Of_parts off))
theorem beq (a : Reg) (b : Reg) (off : BitVec 12) : Statement (.beq a b off) :=
  of_decode rfl (congrArg (fun y => Dec.ok (.beq a b y)) (off12Of_parts off))
theorem bne (a : Reg) (b : Reg) (off : BitVec 12) : Statement (.bne a b off) :=
  of_decode rfl (congrArg (fun y => Dec.ok (.bne a b y)) (off12Of_parts off))
theorem blt (a : Reg) (b : Reg) (off : BitVec 12) : Statement (.blt a b off) :=
  of_decode rfl (congrArg (fun y => Dec.ok (.blt a b y)) (off12Of_parts off))
theorem bge (a : Reg) (b : Reg) (off : BitVec 12) : Statement (.bge a b off) :=
  of_decode rfl (congrArg (fun y => Dec.ok (.bge a b y)) (off12Of_parts off))
theorem bltu (a : Reg) (b : Reg) (off : BitVec 12) : Statement (.bltu a b off) :=
  of_decode rfl (congrArg (fun y => Dec.ok (.bltu a b y)) (off12Of_parts off))
theorem bgeu (a : Reg) (b : Reg) (off : BitVec 12) : Statement (.bgeu a b off) :=
  of_decode rfl (congrArg (fun y => Dec.ok (.bgeu a b y)) (off12Of_parts off))
theorem bz (a : Reg) (off : BitVec 12) : Statement (.bz a off) :=
  of_decode rfl (congrArg (fun y => Dec.ok (.bz a y)) (off12Of_parts off))
theorem bnz (a : Reg) (off : BitVec 12) : Statement (.bnz a off) :=
  of_decode rfl (congrArg (fun y => Dec.ok (.bnz a y)) (off12Of_parts off))
theorem beng (eng : Eng) (cond : EngCond) (tok : Reg) (off : BitVec 12) : Statement (.beng eng cond tok off) := by
  cases eng <;> cases cond <;> exact of_decode rfl (congrArg (fun y => Dec.ok (.beng _ _ tok y)) (off12Of_parts off))
theorem ldB (d : Reg) (x : Reg) (g : Seg) (imm : BitVec 9) : Statement (.ldB d x g imm) :=
  of_decode rfl (formM (.ldB d x) g imm)
theorem ldH (d : Reg) (x : Reg) (g : Seg) (imm : BitVec 9) : Statement (.ldH d x g imm) :=
  of_decode rfl (formM (.ldH d x) g imm)
theorem ldW (d : Reg) (x : Reg) (g : Seg) (imm : BitVec 9) : Statement (.ldW d x g imm) :=
  of_decode rfl (formM (.ldW d x) g imm)
theorem ldD (d : Reg) (x : Reg) (g : Seg) (imm : BitVec 9) : Statement (.ldD d x g imm) :=
  of_decode rfl (formM (.ldD d x) g imm)
theorem ldBSx (d : Reg) (x : Reg) (g : Seg) (imm : BitVec 9) : Statement (.ldBSx d x g imm) :=
  of_decode rfl (formM (.ldBSx d x) g imm)
theorem ldHSx (d : Reg) (x : Reg) (g : Seg) (imm : BitVec 9) : Statement (.ldHSx d x g imm) :=
  of_decode rfl (formM (.ldHSx d x) g imm)
theorem ldWSx (d : Reg) (x : Reg) (g : Seg) (imm : BitVec 9) : Statement (.ldWSx d x g imm) :=
  of_decode rfl (formM (.ldWSx d x) g imm)
theorem stB (d : Reg) (x : Reg) (g : Seg) (imm : BitVec 9) : Statement (.stB d x g imm) :=
  of_decode rfl (formM (.stB d x) g imm)
theorem stH (d : Reg) (x : Reg) (g : Seg) (imm : BitVec 9) : Statement (.stH d x g imm) :=
  of_decode rfl (formM (.stH d x) g imm)
theorem stW (d : Reg) (x : Reg) (g : Seg) (imm : BitVec 9) : Statement (.stW d x g imm) :=
  of_decode rfl (formM (.stW d x) g imm)
theorem stD (d : Reg) (x : Reg) (g : Seg) (imm : BitVec 9) : Statement (.stD d x g imm) :=
  of_decode rfl (formM (.stD d x) g imm)
theorem lds (d : Reg) (x : Reg) (g : Seg) (imm : BitVec 9) : Statement (.lds d x g imm) :=
  of_decode rfl (formM (.lds d x) g imm)
theorem ldf (d : Reg) (x : Reg) (g : Seg) (imm : BitVec 9) : Statement (.ldf d x g imm) :=
  of_decode rfl (formM (.ldf d x) g imm)
theorem sts (d : Reg) (x : Reg) (g : Seg) (imm : BitVec 9) : Statement (.sts d x g imm) :=
  of_decode rfl (formM (.sts d x) g imm)
theorem stf (d : Reg) (x : Reg) (g : Seg) (imm : BitVec 9) : Statement (.stf d x g imm) :=
  of_decode rfl (formM (.stf d x) g imm)
theorem feset (x : Reg) (g : Seg) : Statement (.feset x g) :=
  of_decode rfl (feOk 0 0 x g)
theorem feclr (x : Reg) (g : Seg) : Statement (.feclr x g) :=
  of_decode rfl (feOk 2 0 x g)
theorem feq (d : Reg) (x : Reg) (g : Seg) : Statement (.feq d x g) :=
  of_decode rfl (feOk 4 d x g)
theorem ldgB (d : Reg) (x : Reg) (g : Seg) (imm : BitVec 9) : Statement (.ldgB d x g imm) :=
  of_decode rfl (formM (.ldgB d x) g imm)
theorem ldgH (d : Reg) (x : Reg) (g : Seg) (imm : BitVec 9) : Statement (.ldgH d x g imm) :=
  of_decode rfl (formM (.ldgH d x) g imm)
theorem ldgW (d : Reg) (x : Reg) (g : Seg) (imm : BitVec 9) : Statement (.ldgW d x g imm) :=
  of_decode rfl (formM (.ldgW d x) g imm)
theorem ldgD (d : Reg) (x : Reg) (g : Seg) (imm : BitVec 9) : Statement (.ldgD d x g imm) :=
  of_decode rfl (formM (.ldgD d x) g imm)
theorem ldgBSx (d : Reg) (x : Reg) (g : Seg) (imm : BitVec 9) : Statement (.ldgBSx d x g imm) :=
  of_decode rfl (formM (.ldgBSx d x) g imm)
theorem ldgHSx (d : Reg) (x : Reg) (g : Seg) (imm : BitVec 9) : Statement (.ldgHSx d x g imm) :=
  of_decode rfl (formM (.ldgHSx d x) g imm)
theorem ldgWSx (d : Reg) (x : Reg) (g : Seg) (imm : BitVec 9) : Statement (.ldgWSx d x g imm) :=
  of_decode rfl (formM (.ldgWSx d x) g imm)
theorem stgB (d : Reg) (x : Reg) (g : Seg) (imm : BitVec 9) : Statement (.stgB d x g imm) :=
  of_decode rfl (formM (.stgB d x) g imm)
theorem stgH (d : Reg) (x : Reg) (g : Seg) (imm : BitVec 9) : Statement (.stgH d x g imm) :=
  of_decode rfl (formM (.stgH d x) g imm)
theorem stgW (d : Reg) (x : Reg) (g : Seg) (imm : BitVec 9) : Statement (.stgW d x g imm) :=
  of_decode rfl (formM (.stgW d x) g imm)
theorem stgD (d : Reg) (x : Reg) (g : Seg) (imm : BitVec 9) : Statement (.stgD d x g imm) :=
  of_decode rfl (formM (.stgD d x) g imm)
theorem pref (x : Reg) (g : Seg) : Statement (.pref x g) :=
  of_decode rfl (cacheOk 0 x g)
theorem cclean (x : Reg) (g : Seg) : Statement (.cclean x g) :=
  of_decode rfl (cacheOk 2 x g)
theorem cinval (x : Reg) (g : Seg) : Statement (.cinval x g) :=
  of_decode rfl (cacheOk 4 x g)
theorem ldAcq (z : Size) (sx : Bool) (sc : Scope) (d : Reg) (x : Reg) (g : Seg) : Statement (.ldAcq z sx sc d x g) :=
  of_wf rfl (fun h => ldAcqOk 0 z sx sc d x g (by simpa only [Instr.wf, Bool.not_eq_true'] using h))
theorem ldgAcq (z : Size) (sx : Bool) (sc : Scope) (d : Reg) (x : Reg) (g : Seg) : Statement (.ldgAcq z sx sc d x g) :=
  of_wf rfl (fun h => ldAcqOk 4 z sx sc d x g (by simpa only [Instr.wf, Bool.not_eq_true'] using h))
theorem stRel (z : Size) (sc : Scope) (d : Reg) (x : Reg) (g : Seg) : Statement (.stRel z sc d x g) :=
  of_decode rfl (stRelOk 0 z sc d x g)
theorem stgRel (z : Size) (sc : Scope) (d : Reg) (x : Reg) (g : Seg) : Statement (.stgRel z sc d x g) :=
  of_decode rfl (stRelOk 4 z sc d x g)
theorem aadd (o : AOrd) (n : Bool) (dw : Bool) (d : Reg) (x : Reg) (g : Seg) : Statement (.aadd o n dw d x g) :=
  of_decode rfl (atomicOk 0 o n dw d x g)
theorem aand (o : AOrd) (n : Bool) (dw : Bool) (d : Reg) (x : Reg) (g : Seg) : Statement (.aand o n dw d x g) :=
  of_decode rfl (atomicOk 1 o n dw d x g)
theorem aor (o : AOrd) (n : Bool) (dw : Bool) (d : Reg) (x : Reg) (g : Seg) : Statement (.aor o n dw d x g) :=
  of_decode rfl (atomicOk 2 o n dw d x g)
theorem axor (o : AOrd) (n : Bool) (dw : Bool) (d : Reg) (x : Reg) (g : Seg) : Statement (.axor o n dw d x g) :=
  of_decode rfl (atomicOk 3 o n dw d x g)
theorem amin (o : AOrd) (n : Bool) (dw : Bool) (d : Reg) (x : Reg) (g : Seg) : Statement (.amin o n dw d x g) :=
  of_decode rfl (atomicOk 4 o n dw d x g)
theorem amax (o : AOrd) (n : Bool) (dw : Bool) (d : Reg) (x : Reg) (g : Seg) : Statement (.amax o n dw d x g) :=
  of_decode rfl (atomicOk 5 o n dw d x g)
theorem aminu (o : AOrd) (n : Bool) (dw : Bool) (d : Reg) (x : Reg) (g : Seg) : Statement (.aminu o n dw d x g) :=
  of_decode rfl (atomicOk 6 o n dw d x g)
theorem amaxu (o : AOrd) (n : Bool) (dw : Bool) (d : Reg) (x : Reg) (g : Seg) : Statement (.amaxu o n dw d x g) :=
  of_decode rfl (atomicOk 7 o n dw d x g)
theorem axchg (o : AOrd) (n : Bool) (dw : Bool) (d : Reg) (x : Reg) (g : Seg) : Statement (.axchg o n dw d x g) :=
  of_decode rfl (atomicOk 8 o n dw d x g)
theorem acas (o : AOrd) (n : Bool) (dw : Bool) (d : Reg) (x : Reg) (g : Seg) : Statement (.acas o n dw d x g) :=
  of_decode rfl (atomicOk 9 o n dw d x g)
theorem afadd (o : AOrd) (n : Bool) (d : Reg) (x : Reg) (g : Seg) : Statement (.afadd o n d x g) :=
  of_decode rfl (atomicOk 10 o n false d x g)
theorem rst (st : Fin 16) (z : Size) (d : Reg) (x : Reg) (g : Seg) : Statement (.rst st z d x g) :=
  of_decode rfl (rstOk st z d x g)
theorem mst (d : Reg) (x : Reg) (g : Seg) (imm : BitVec 9) : Statement (.mst d x g imm) :=
  of_decode rfl (formM (.mst d x) g imm)
theorem vld (d : Reg) (x : Reg) (g : Seg) (imm : BitVec 9) : Statement (.vld d x g imm) :=
  of_decode rfl (formM (.vld d x) g imm)
theorem vst (d : Reg) (x : Reg) (g : Seg) (imm : BitVec 9) : Statement (.vst d x g imm) :=
  of_decode rfl (formM (.vst d x) g imm)
theorem vlds (t : Reg) (z : Size) (d : Reg) (x : Reg) (g : Seg) : Statement (.vlds t z d x g) :=
  of_decode rfl (vidxOk 0 t z d x g)
theorem vgath (t : Reg) (z : Size) (d : Reg) (x : Reg) (g : Seg) : Statement (.vgath t z d x g) :=
  of_decode rfl (vidxOk 1 t z d x g)
theorem vscat (t : Reg) (z : Size) (d : Reg) (x : Reg) (g : Seg) : Statement (.vscat t z d x g) :=
  of_decode rfl (vidxOk 2 t z d x g)
theorem segset (a : Reg) (b : Reg) (g : Seg) : Statement (.segset a b g) :=
  of_decode rfl (argOk (.segset a b) (by decide) g)
theorem segget (d : Reg) (g : Seg) : Statement (.segget d g) :=
  of_decode rfl (argOk (.segget d) (by decide) g)
theorem segnarrow (a : Reg) (b : Reg) (g : Seg) : Statement (.segnarrow a b g) :=
  of_decode rfl (argOk (.segnarrow a b) (by decide) g)
theorem bankfmt (a : Reg) (b : Reg) : Statement (.bankfmt a b) := of_decode rfl rfl
theorem bankalloc (d : Reg) (b : Reg) : Statement (.bankalloc d b) := of_decode rfl rfl
theorem bankfree (a : Reg) : Statement (.bankfree a) := of_decode rfl rfl
theorem poolset (a : Reg) : Statement (.poolset a) := of_decode rfl rfl
theorem histrd (d : Reg) (b : Reg) (bin : Fin 64) : Statement (.histrd d b bin) := of_decode rfl rfl
theorem histclr (a : Reg) : Statement (.histclr a) := of_decode rfl rfl
theorem swait (d : Reg) (st : Fin 16) : Statement (.swait d st) :=
  of_decode rfl (argOk (.swait d) (by decide) st)
theorem sseq (d : Reg) (b : Reg) (st : Fin 16) : Statement (.sseq d b st) :=
  of_decode rfl (argOk (.sseq d b) (by decide) st)
theorem pgreg (a : Reg) (b : Reg) : Statement (.pgreg a b) := of_decode rfl rfl
theorem pgfill (a : Reg) (b : Reg) : Statement (.pgfill a b) := of_decode rfl rfl
theorem cpstream (b : Reg) (k : Fin 4) : Statement (.cpstream b k) :=
  of_decode rfl (argOk (.cpstream b) (by decide) k)
theorem accrd (d : Reg) (b : Reg) (t : Fin 4) : Statement (.accrd d b t) :=
  of_decode rfl (argOk (.accrd d b) (by decide) t)
theorem mxsave (a : Reg) : Statement (.mxsave a) := of_decode rfl rfl
theorem mxload (a : Reg) : Statement (.mxload a) := of_decode rfl rfl
theorem tkwin (a : Reg) : Statement (.tkwin a) := of_decode rfl rfl
theorem tkload (a : Reg) (b : Reg) : Statement (.tkload a b) := of_decode rfl rfl
theorem tklaunch (a : Reg) : Statement (.tklaunch a) := of_decode rfl rfl
theorem tklaunchAnd (a : Reg) : Statement (.tklaunchAnd a) := of_decode rfl rfl
theorem tkcapt (a : Reg) : Statement (.tkcapt a) := of_decode rfl rfl
theorem tkfirst (d : Reg) (b : Reg) : Statement (.tkfirst d b) := of_decode rfl rfl
theorem tkreset : Statement .tkreset := of_decode rfl rfl
theorem tkstat (d : Reg) : Statement (.tkstat d) := of_decode rfl rfl
theorem chdecl (a : Reg) (b : Reg) (out : Bool) (i : Fin 16) : Statement (.chdecl a b out i) :=
  of_decode rfl (dirOk (.chdecl a b) out i)
theorem chclose (out : Bool) (i : Fin 16) : Statement (.chclose out i) :=
  of_decode rfl (dirOk .chclose out i)
theorem hdlset (a : Reg) (i : Fin 16) : Statement (.hdlset a i) :=
  of_decode rfl (argOk (.hdlset a) (by decide) i)
theorem send (a : Reg) (i : Fin 16) : Statement (.send a i) :=
  of_decode rfl (argOk (.send a) (by decide) i)
theorem recv (d : Reg) : Statement (.recv d) := of_decode rfl rfl
theorem evdone : Statement .evdone := of_decode rfl rfl
theorem promise (a : Reg) (i : Fin 16) : Statement (.promise a i) :=
  of_decode rfl (argOk (.promise a) (by decide) i)
theorem floor (d : Reg) : Statement (.floor d) := of_decode rfl rfl
theorem evstart (a : Reg) : Statement (.evstart a) := of_decode rfl rfl
theorem sync : Statement .sync := of_decode rfl rfl
theorem taskend : Statement .taskend := of_decode rfl rfl
theorem qcfg (a : Reg) (k : Fin 4) : Statement (.qcfg a k) :=
  of_decode rfl (argOk (.qcfg a) (by decide) k)
theorem launch (a : Reg) (b : Reg) : Statement (.launch a b) := of_decode rfl rfl
theorem rwait (a : Reg) : Statement (.rwait a) := of_decode rfl rfl
theorem tscore (a : Reg) : Statement (.tscore a) := of_decode rfl rfl
theorem tround : Statement .tround := of_decode rfl rfl
theorem tgrow (d : Reg) : Statement (.tgrow d) := of_decode rfl rfl
theorem trank (d : Reg) (b : Reg) : Statement (.trank d b) := of_decode rfl rfl
theorem frecrd (d : Reg) (b : Reg) (w : Fin 8) : Statement (.frecrd d b w) :=
  of_decode rfl (argOk (.frecrd d b) (by decide) w)
theorem qthaw (a : Reg) : Statement (.qthaw a) := of_decode rfl rfl
theorem ctxsave (a : Reg) : Statement (.ctxsave a) := of_decode rfl rfl
theorem ctxload (a : Reg) : Statement (.ctxload a) := of_decode rfl rfl
theorem eret : Statement .eret := of_decode rfl rfl
theorem add (w : Bool) (m : IntMod) (d : Reg) (a : Reg) (b : Reg) : Statement (.add w m d a b) := by
  refine of_wf rfl (fun h => (arithOk _ _ _ _ _ _).trans ?_)
  cases w <;> cases m <;> first | rfl | skip
  have hn : (decide (d = 0) && decide (a = 0) && decide (b = 0)) = false := by
    simp only [Instr.wf] at h
    revert h
    generalize decide (d = 0) = x, decide (a = 0) = y, decide (b = 0) = z
    revert x y z
    decide
  show (if (decide (d = 0) && decide (a = 0) && decide (b = 0)) = true then Dec.ok .nopArith
    else .ok (.add false .wrap d a b)) = _
  rw [hn]
  rfl
theorem sub (w : Bool) (m : IntMod) (d : Reg) (a : Reg) (b : Reg) : Statement (.sub w m d a b) := by
  cases w <;> cases m <;> exact of_decode rfl ((arithOk _ _ _ _ _ _).trans rfl)
theorem min (w : Bool) (d : Reg) (a : Reg) (b : Reg) : Statement (.min w d a b) := by
  cases w <;> exact of_decode rfl ((arithOk _ _ _ _ _ _).trans rfl)
theorem max (w : Bool) (d : Reg) (a : Reg) (b : Reg) : Statement (.max w d a b) := by
  cases w <;> exact of_decode rfl ((arithOk _ _ _ _ _ _).trans rfl)
theorem minu (w : Bool) (d : Reg) (a : Reg) (b : Reg) : Statement (.minu w d a b) := by
  cases w <;> exact of_decode rfl ((arithOk _ _ _ _ _ _).trans rfl)
theorem maxu (w : Bool) (d : Reg) (a : Reg) (b : Reg) : Statement (.maxu w d a b) := by
  cases w <;> exact of_decode rfl ((arithOk _ _ _ _ _ _).trans rfl)
theorem mov (w : Bool) (d : Reg) (a : Reg) : Statement (.mov w d a) := by
  cases w <;> exact of_decode rfl ((arithOk _ _ _ _ _ _).trans rfl)
theorem sel (w : Bool) (d : Reg) (a : Reg) (b : Reg) : Statement (.sel w d a b) := by
  cases w <;> exact of_decode rfl ((arithOk _ _ _ _ _ _).trans rfl)
theorem mul (w : Bool) (m : IntMod) (d : Reg) (a : Reg) (b : Reg) : Statement (.mul w m d a b) := by
  cases w <;> cases m <;> exact of_decode rfl ((arithOk _ _ _ _ _ _).trans rfl)
theorem mulh (w : Bool) (d : Reg) (a : Reg) (b : Reg) : Statement (.mulh w d a b) := by
  cases w <;> exact of_decode rfl ((arithOk _ _ _ _ _ _).trans rfl)
theorem mulhu (w : Bool) (d : Reg) (a : Reg) (b : Reg) : Statement (.mulhu w d a b) := by
  cases w <;> exact of_decode rfl ((arithOk _ _ _ _ _ _).trans rfl)
theorem div (w : Bool) (d : Reg) (a : Reg) (b : Reg) : Statement (.div w d a b) := by
  cases w <;> exact of_decode rfl ((arithOk _ _ _ _ _ _).trans rfl)
theorem divu (w : Bool) (d : Reg) (a : Reg) (b : Reg) : Statement (.divu w d a b) := by
  cases w <;> exact of_decode rfl ((arithOk _ _ _ _ _ _).trans rfl)
theorem rem (w : Bool) (d : Reg) (a : Reg) (b : Reg) : Statement (.rem w d a b) := by
  cases w <;> exact of_decode rfl ((arithOk _ _ _ _ _ _).trans rfl)
theorem remu (w : Bool) (d : Reg) (a : Reg) (b : Reg) : Statement (.remu w d a b) := by
  cases w <;> exact of_decode rfl ((arithOk _ _ _ _ _ _).trans rfl)
theorem and (w : Bool) (d : Reg) (a : Reg) (b : Reg) : Statement (.and w d a b) := by
  cases w <;> exact of_decode rfl ((arithOk _ _ _ _ _ _).trans rfl)
theorem or (w : Bool) (d : Reg) (a : Reg) (b : Reg) : Statement (.or w d a b) := by
  cases w <;> exact of_decode rfl ((arithOk _ _ _ _ _ _).trans rfl)
theorem xor (w : Bool) (d : Reg) (a : Reg) (b : Reg) : Statement (.xor w d a b) := by
  cases w <;> exact of_decode rfl ((arithOk _ _ _ _ _ _).trans rfl)
theorem andn (w : Bool) (d : Reg) (a : Reg) (b : Reg) : Statement (.andn w d a b) := by
  cases w <;> exact of_decode rfl ((arithOk _ _ _ _ _ _).trans rfl)
theorem orn (w : Bool) (d : Reg) (a : Reg) (b : Reg) : Statement (.orn w d a b) := by
  cases w <;> exact of_decode rfl ((arithOk _ _ _ _ _ _).trans rfl)
theorem shl (w : Bool) (d : Reg) (a : Reg) (b : Reg) : Statement (.shl w d a b) := by
  cases w <;> exact of_decode rfl ((arithOk _ _ _ _ _ _).trans rfl)
theorem shr (w : Bool) (d : Reg) (a : Reg) (b : Reg) : Statement (.shr w d a b) := by
  cases w <;> exact of_decode rfl ((arithOk _ _ _ _ _ _).trans rfl)
theorem sra (w : Bool) (d : Reg) (a : Reg) (b : Reg) : Statement (.sra w d a b) := by
  cases w <;> exact of_decode rfl ((arithOk _ _ _ _ _ _).trans rfl)
theorem rol (w : Bool) (d : Reg) (a : Reg) (b : Reg) : Statement (.rol w d a b) := by
  cases w <;> exact of_decode rfl ((arithOk _ _ _ _ _ _).trans rfl)
theorem clz (w : Bool) (d : Reg) (a : Reg) : Statement (.clz w d a) := by
  cases w <;> exact of_decode rfl ((arithOk _ _ _ _ _ _).trans rfl)
theorem ctz (w : Bool) (d : Reg) (a : Reg) : Statement (.ctz w d a) := by
  cases w <;> exact of_decode rfl ((arithOk _ _ _ _ _ _).trans rfl)
theorem popc (w : Bool) (d : Reg) (a : Reg) : Statement (.popc w d a) := by
  cases w <;> exact of_decode rfl ((arithOk _ _ _ _ _ _).trans rfl)
theorem bfx (w : Bool) (d : Reg) (a : Reg) (b : Reg) : Statement (.bfx w d a b) := by
  cases w <;> exact of_decode rfl ((arithOk _ _ _ _ _ _).trans rfl)
theorem bfxSx (w : Bool) (d : Reg) (a : Reg) (b : Reg) : Statement (.bfxSx w d a b) := by
  cases w <;> exact of_decode rfl ((arithOk _ _ _ _ _ _).trans rfl)
theorem bfi (w : Bool) (d : Reg) (a : Reg) (b : Reg) : Statement (.bfi w d a b) := by
  cases w <;> exact of_decode rfl ((arithOk _ _ _ _ _ _).trans rfl)
theorem cmp (c : Cond) (w : Bool) (d : Reg) (a : Reg) (b : Reg) : Statement (.cmp c w d a b) := by
  cases c <;> cases w <;> exact of_decode rfl ((arithOk _ _ _ _ _ _).trans rfl)
theorem vadd (t : VArith) (d : Reg) (a : Reg) (b : Reg) : Statement (.vadd t d a b) := by
  rcases t with ⟨t, m⟩ | ⟨t, m⟩ <;> cases t <;> cases m <;> exact of_decode rfl ((arithOk _ _ _ _ _ _).trans rfl)
theorem vsub (t : VArith) (d : Reg) (a : Reg) (b : Reg) : Statement (.vsub t d a b) := by
  rcases t with ⟨t, m⟩ | ⟨t, m⟩ <;> cases t <;> cases m <;> exact of_decode rfl ((arithOk _ _ _ _ _ _).trans rfl)
theorem vmul (t : VArith) (d : Reg) (a : Reg) (b : Reg) : Statement (.vmul t d a b) := by
  rcases t with ⟨t, m⟩ | ⟨t, m⟩ <;> cases t <;> cases m <;> exact of_decode rfl ((arithOk _ _ _ _ _ _).trans rfl)
theorem vfma (t : VArith) (d : Reg) (a : Reg) (b : Reg) : Statement (.vfma t d a b) := by
  rcases t with ⟨t, m⟩ | ⟨t, m⟩ <;> cases t <;> cases m <;> exact of_decode rfl ((arithOk _ _ _ _ _ _).trans rfl)
theorem vdiv (t : FT) (r : Rm) (d : Reg) (a : Reg) (b : Reg) : Statement (.vdiv t r d a b) := by
  cases t <;> cases r <;> exact of_decode rfl ((arithOk _ _ _ _ _ _).trans rfl)
theorem vsqrt (t : FT) (r : Rm) (d : Reg) (a : Reg) : Statement (.vsqrt t r d a) := by
  cases t <;> cases r <;> exact of_decode rfl ((arithOk _ _ _ _ _ _).trans rfl)
theorem vmin (t : VT) (d : Reg) (a : Reg) (b : Reg) : Statement (.vmin t d a b) := by
  rcases t with t | t <;> cases t <;> exact of_decode rfl ((arithOk _ _ _ _ _ _).trans rfl)
theorem vmax (t : VT) (d : Reg) (a : Reg) (b : Reg) : Statement (.vmax t d a b) := by
  rcases t with t | t <;> cases t <;> exact of_decode rfl ((arithOk _ _ _ _ _ _).trans rfl)
theorem vabs (t : VAbs) (d : Reg) (a : Reg) : Statement (.vabs t d a) := by
  rcases t with t | ⟨t, ⟨⟩⟩ <;> cases t <;> exact of_decode rfl ((arithOk _ _ _ _ _ _).trans rfl)
theorem vneg (t : VAbs) (d : Reg) (a : Reg) : Statement (.vneg t d a) := by
  rcases t with t | ⟨t, ⟨⟩⟩ <;> cases t <;> exact of_decode rfl ((arithOk _ _ _ _ _ _).trans rfl)
theorem vrcp (t : FT) (r : Rm) (d : Reg) (a : Reg) : Statement (.vrcp t r d a) := by
  cases t <;> cases r <;> exact of_decode rfl ((arithOk _ _ _ _ _ _).trans rfl)
theorem vrsq (t : FT) (r : Rm) (d : Reg) (a : Reg) : Statement (.vrsq t r d a) := by
  cases t <;> cases r <;> exact of_decode rfl ((arithOk _ _ _ _ _ _).trans rfl)
theorem vexp (t : FT) (r : Rm) (d : Reg) (a : Reg) : Statement (.vexp t r d a) := by
  cases t <;> cases r <;> exact of_decode rfl ((arithOk _ _ _ _ _ _).trans rfl)
theorem vlog (t : FT) (r : Rm) (d : Reg) (a : Reg) : Statement (.vlog t r d a) := by
  cases t <;> cases r <;> exact of_decode rfl ((arithOk _ _ _ _ _ _).trans rfl)
theorem vtanh (t : FT) (r : Rm) (d : Reg) (a : Reg) : Statement (.vtanh t r d a) := by
  cases t <;> cases r <;> exact of_decode rfl ((arithOk _ _ _ _ _ _).trans rfl)
theorem vcmp (t : VCmp) (d : Reg) (a : Reg) (b : Reg) : Statement (.vcmp t d a b) := by
  rcases t with ⟨t, ⟨⟨⟩⟩ | _⟩ | ⟨t, ⟨⟩⟩ <;> cases t <;> exact of_decode rfl ((arithOk _ _ _ _ _ _).trans rfl)
theorem vsel (t : VT) (d : Reg) (a : Reg) (b : Reg) : Statement (.vsel t d a b) := by
  rcases t with t | t <;> cases t <;> exact of_decode rfl ((arithOk _ _ _ _ _ _).trans rfl)
theorem vand (t : IT) (d : Reg) (a : Reg) (b : Reg) : Statement (.vand t d a b) := by
  cases t <;> exact of_decode rfl ((arithOk _ _ _ _ _ _).trans rfl)
theorem vor (t : IT) (d : Reg) (a : Reg) (b : Reg) : Statement (.vor t d a b) := by
  cases t <;> exact of_decode rfl ((arithOk _ _ _ _ _ _).trans rfl)
theorem vxor (t : IT) (d : Reg) (a : Reg) (b : Reg) : Statement (.vxor t d a b) := by
  cases t <;> exact of_decode rfl ((arithOk _ _ _ _ _ _).trans rfl)
theorem vshl (t : IT) (d : Reg) (a : Reg) (b : Reg) : Statement (.vshl t d a b) := by
  cases t <;> exact of_decode rfl ((arithOk _ _ _ _ _ _).trans rfl)
theorem vshr (t : IT) (d : Reg) (a : Reg) (b : Reg) : Statement (.vshr t d a b) := by
  cases t <;> exact of_decode rfl ((arithOk _ _ _ _ _ _).trans rfl)
theorem vcvt (dst : VT) (src : VT) (r : Rm) (d : Reg) (a : Reg) : Statement (.vcvt dst src r d a) :=
  of_wf rfl (fun h => (arithOk _ _ _ _ _ _).trans (vcvtOk d a r dst src h))
theorem vdot (t : VArith) (d : Reg) (a : Reg) (b : Reg) : Statement (.vdot t d a b) := by
  rcases t with ⟨t, m⟩ | ⟨t, m⟩ <;> cases t <;> cases m <;> exact of_decode rfl ((arithOk _ _ _ _ _ _).trans rfl)
theorem vred (t : VArith) (d : Reg) (a : Reg) : Statement (.vred t d a) := by
  rcases t with ⟨t, m⟩ | ⟨t, m⟩ <;> cases t <;> cases m <;> exact of_decode rfl ((arithOk _ _ _ _ _ _).trans rfl)
theorem vperm (t : VT) (d : Reg) (a : Reg) (b : Reg) : Statement (.vperm t d a b) := by
  rcases t with t | t <;> cases t <;> exact of_decode rfl ((arithOk _ _ _ _ _ _).trans rfl)
theorem vbcast (t : VT) (d : Reg) (a : Reg) : Statement (.vbcast t d a) := by
  rcases t with t | t <;> cases t <;> exact of_decode rfl ((arithOk _ _ _ _ _ _).trans rfl)
theorem vext (t : VT) (d : Reg) (a : Reg) (b : Reg) : Statement (.vext t d a b) := by
  rcases t with t | t <;> cases t <;> exact of_decode rfl ((arithOk _ _ _ _ _ _).trans rfl)
theorem vins (t : VT) (d : Reg) (a : Reg) (b : Reg) : Statement (.vins t d a b) := by
  rcases t with t | t <;> cases t <;> exact of_decode rfl ((arithOk _ _ _ _ _ _).trans rfl)
theorem vcvtS (dst : ST) (src : ST) (r : Rm) (d : Reg) (a : Reg) : Statement (.vcvtS dst src r d a) :=
  of_wf rfl (fun h => (arithOk _ _ _ _ _ _).trans (vcvtSOk d a r dst src h))
theorem vaddS (t : SF) (r : Rm) (d : Reg) (a : Reg) (b : Reg) : Statement (.vaddS t r d a b) := by
  cases t <;> cases r <;> exact of_decode rfl ((arithOk _ _ _ _ _ _).trans rfl)
theorem vsubS (t : SF) (r : Rm) (d : Reg) (a : Reg) (b : Reg) : Statement (.vsubS t r d a b) := by
  cases t <;> cases r <;> exact of_decode rfl ((arithOk _ _ _ _ _ _).trans rfl)
theorem vmulS (t : SF) (r : Rm) (d : Reg) (a : Reg) (b : Reg) : Statement (.vmulS t r d a b) := by
  cases t <;> cases r <;> exact of_decode rfl ((arithOk _ _ _ _ _ _).trans rfl)
theorem vfmaS (t : SF) (r : Rm) (d : Reg) (a : Reg) (b : Reg) : Statement (.vfmaS t r d a b) := by
  cases t <;> cases r <;> exact of_decode rfl ((arithOk _ _ _ _ _ _).trans rfl)
theorem vdivS (t : SF) (r : Rm) (d : Reg) (a : Reg) (b : Reg) : Statement (.vdivS t r d a b) := by
  cases t <;> cases r <;> exact of_decode rfl ((arithOk _ _ _ _ _ _).trans rfl)
theorem vsqrtS (t : SF) (r : Rm) (d : Reg) (a : Reg) : Statement (.vsqrtS t r d a) := by
  cases t <;> cases r <;> exact of_decode rfl ((arithOk _ _ _ _ _ _).trans rfl)
theorem vminS (t : SF) (d : Reg) (a : Reg) (b : Reg) : Statement (.vminS t d a b) := by
  cases t <;> exact of_decode rfl ((arithOk _ _ _ _ _ _).trans rfl)
theorem vmaxS (t : SF) (d : Reg) (a : Reg) (b : Reg) : Statement (.vmaxS t d a b) := by
  cases t <;> exact of_decode rfl ((arithOk _ _ _ _ _ _).trans rfl)
theorem vabsS (t : SF) (d : Reg) (a : Reg) : Statement (.vabsS t d a) := by
  cases t <;> exact of_decode rfl ((arithOk _ _ _ _ _ _).trans rfl)
theorem vnegS (t : SF) (d : Reg) (a : Reg) : Statement (.vnegS t d a) := by
  cases t <;> exact of_decode rfl ((arithOk _ _ _ _ _ _).trans rfl)
theorem vrcpS (t : SF) (r : Rm) (d : Reg) (a : Reg) : Statement (.vrcpS t r d a) := by
  cases t <;> cases r <;> exact of_decode rfl ((arithOk _ _ _ _ _ _).trans rfl)
theorem vrsqS (t : SF) (r : Rm) (d : Reg) (a : Reg) : Statement (.vrsqS t r d a) := by
  cases t <;> cases r <;> exact of_decode rfl ((arithOk _ _ _ _ _ _).trans rfl)
theorem vexpS (t : SF) (r : Rm) (d : Reg) (a : Reg) : Statement (.vexpS t r d a) := by
  cases t <;> cases r <;> exact of_decode rfl ((arithOk _ _ _ _ _ _).trans rfl)
theorem vlogS (t : SF) (r : Rm) (d : Reg) (a : Reg) : Statement (.vlogS t r d a) := by
  cases t <;> cases r <;> exact of_decode rfl ((arithOk _ _ _ _ _ _).trans rfl)
theorem vtanhS (t : SF) (r : Rm) (d : Reg) (a : Reg) : Statement (.vtanhS t r d a) := by
  cases t <;> cases r <;> exact of_decode rfl ((arithOk _ _ _ _ _ _).trans rfl)
theorem vcmpS (t : SF) (c : VCond) (d : Reg) (a : Reg) (b : Reg) : Statement (.vcmpS t c d a b) := by
  cases t <;> rcases c with ⟨⟨⟩⟩ | _ <;> exact of_decode rfl ((arithOk _ _ _ _ _ _).trans rfl)
theorem parkedBundleReissue (cid : Nat) (slot : Nat) : Statement (.parkedBundleReissue cid slot) := of_none rfl
theorem allowanceEnd (cid : Nat) (slot : Nat) : Statement (.allowanceEnd cid slot) := of_none rfl
theorem noticePush (rid : Nat) : Statement (.noticePush rid) := of_none rfl
theorem lateResultWriteback (id : Nat) : Statement (.lateResultWriteback id) := of_none rfl
theorem storeAcknowledge (id : Nat) : Statement (.storeAcknowledge id) := of_none rfl
theorem storeBufferSend (cid : Nat) : Statement (.storeBufferSend cid) := of_none rfl
theorem bankRequestArrival (bank : Nat) (ids : List Nat) : Statement (.bankRequestArrival bank ids) := of_none rfl
theorem feRequestResend (id : Nat) : Statement (.feRequestResend id) := of_none rfl
theorem remoteRefusalArrival (id : Nat) : Statement (.remoteRefusalArrival id) := of_none rfl
theorem sliceAccessPerform (id : Nat) (piece : Nat) : Statement (.sliceAccessPerform id piece) := of_none rfl
theorem lineRecallComplete (line : Nat) : Statement (.lineRecallComplete line) := of_none rfl
theorem pinnedAccessResend (id : Nat) : Statement (.pinnedAccessResend id) := of_none rfl
theorem pageWalkEnd (id : Nat) : Statement (.pageWalkEnd id) := of_none rfl
theorem heldUpcallPush (rid : Nat) (page : Nat) : Statement (.heldUpcallPush rid page) := of_none rfl
theorem pgfillComplete (id : Nat) : Statement (.pgfillComplete id) := of_none rfl
theorem wakeMessage (cid : Nat) (slot : Nat) : Statement (.wakeMessage cid slot) := of_none rfl
theorem streamStoreArrival (id : Nat) : Statement (.streamStoreArrival id) := of_none rfl
theorem openStoreResend (id : Nat) : Statement (.openStoreResend id) := of_none rfl
theorem streamCloseFlit (n : Nat) : Statement (.streamCloseFlit n) := of_none rfl
theorem rvArrivalCount (n : Nat) : Statement (.rvArrivalCount n) := of_none rfl
theorem cpLin (cl : Nat) : Statement (.cpLin cl) := of_none rfl
theorem cp2d (cl : Nat) : Statement (.cp2d cl) := of_none rfl
theorem cpGath (cl : Nat) : Statement (.cpGath cl) := of_none rfl
theorem cpScat (cl : Nat) : Statement (.cpScat cl) := of_none rfl
theorem cpBcst (cl : Nat) : Statement (.cpBcst cl) := of_none rfl
theorem copyBytesLand (cl : Nat) : Statement (.copyBytesLand cl) := of_none rfl
theorem remoteLandingReport (n : Nat) : Statement (.remoteLandingReport n) := of_none rfl
theorem followOnEnter (cl : Nat) : Statement (.followOnEnter cl) := of_none rfl
theorem mxMma (cl : Nat) : Statement (.mxMma cl) := of_none rfl
theorem mxSpmma (cl : Nat) : Statement (.mxSpmma cl) := of_none rfl
theorem mxKStep (cl : Nat) : Statement (.mxKStep cl) := of_none rfl
theorem mxDrain (cl : Nat) : Statement (.mxDrain cl) := of_none rfl
theorem mxZero (cl : Nat) : Statement (.mxZero cl) := of_none rfl
theorem mxsaveExecute (cl : Nat) : Statement (.mxsaveExecute cl) := of_none rfl
theorem mxloadExecute (cl : Nat) : Statement (.mxloadExecute cl) := of_none rfl
theorem tickNote (cl : Nat) : Statement (.tickNote cl) := of_none rfl
theorem tickEntryExecute (cl : Nat) : Statement (.tickEntryExecute cl) := of_none rfl
theorem engineCompletionPost (cid : Nat) : Statement (.engineCompletionPost cid) := of_none rfl
theorem messageAccept (n : Nat) : Statement (.messageAccept n) := of_none rfl
theorem hungerFlitArrival (n : Nat) : Statement (.hungerFlitArrival n) := of_none rfl
theorem promiseFlitArrival (n : Nat) : Statement (.promiseFlitArrival n) := of_none rfl
theorem joinFlitArrival (n : Nat) : Statement (.joinFlitArrival n) := of_none rfl
theorem closeFlitArrival (n : Nat) : Statement (.closeFlitArrival n) := of_none rfl
theorem allowanceReturn (n : Nat) : Statement (.allowanceReturn n) := of_none rfl
theorem arrivalDispatch (cid : Nat) : Statement (.arrivalDispatch cid) := of_none rfl
theorem deadLetterReturn (n : Nat) : Statement (.deadLetterReturn n) := of_none rfl
theorem sweepDelayExpiry (cid : Nat) : Statement (.sweepDelayExpiry cid) := of_none rfl
theorem floorSweepStart (rid : Nat) : Statement (.floorSweepStart rid) := of_none rfl
theorem floorSweepComplete (rid : Nat) : Statement (.floorSweepComplete rid) := of_none rfl
theorem afaddAccept (id : Nat) : Statement (.afaddAccept id) := of_none rfl
theorem afaddResend (id : Nat) : Statement (.afaddResend id) := of_none rfl
theorem stealAttempt (cid : Nat) : Statement (.stealAttempt cid) := of_none rfl
theorem launchRegisterWrite (p : Nat) (v : Word) : Statement (.launchRegisterWrite p v) := of_none rfl
theorem lresRead (p : Nat) : Statement (.lresRead p) := of_none rfl
theorem teamPlacement (cl : Nat) : Statement (.teamPlacement cl) := of_none rfl
theorem teamRetire (rid : Nat) (team : Nat) : Statement (.teamRetire rid team) := of_none rfl
theorem regionEnd (rid : Nat) : Statement (.regionEnd rid) := of_none rfl
theorem regionAllowanceEnd (rid : Nat) : Statement (.regionAllowanceEnd rid) := of_none rfl
theorem roundBarrierComplete (rid : Nat) : Statement (.roundBarrierComplete rid) := of_none rfl
theorem regionStop (rid : Nat) : Statement (.regionStop rid) := of_none rfl
theorem teamDisplace (rid : Nat) : Statement (.teamDisplace rid) := of_none rfl
theorem displacedRequestArrival (id : Nat) : Statement (.displacedRequestArrival id) := of_none rfl
theorem displacedRequestResend (id : Nat) : Statement (.displacedRequestResend id) := of_none rfl
theorem teamRestore (rid : Nat) : Statement (.teamRestore rid) := of_none rfl
theorem tinkerServiceDispatch (cl : Nat) : Statement (.tinkerServiceDispatch cl) := of_none rfl
theorem tinkerFaultRestart (cl : Nat) : Statement (.tinkerFaultRestart cl) := of_none rfl
theorem poolSamplingInterval (cl : Nat) : Statement (.poolSamplingInterval cl) := of_none rfl
theorem cacheBankWritebackEnd (bank : Nat) : Statement (.cacheBankWritebackEnd bank) := of_none rfl
theorem bankIdle (bank : Nat) : Statement (.bankIdle bank) := of_none rfl
theorem bankClearEnd (bank : Nat) : Statement (.bankClearEnd bank) := of_none rfl
theorem uncorrectableError (key : Nat) : Statement (.uncorrectableError key) := of_none rfl
theorem scrubAccess (key : Nat) : Statement (.scrubAccess key) := of_none rfl
theorem clusterReset (cl : Nat) (cause : Fin 3) : Statement (.clusterReset cl cause) := of_none rfl
theorem drainTimeout (cl : Nat) : Statement (.drainTimeout cl) := of_none rfl
theorem clusterClearEnd (cl : Nat) : Statement (.clusterClearEnd cl) := of_none rfl
theorem dieLinkFailure (x : Fin 4) (y : Fin 4) : Statement (.dieLinkFailure x y) := of_none rfl
theorem porrokPortDown (port : Fin 16) : Statement (.porrokPortDown port) := of_none rfl
theorem migrationRequest (v : Word) : Statement (.migrationRequest v) := of_none rfl
theorem migrationLineCopy : Statement .migrationLineCopy := of_none rfl
theorem migrationEnd : Statement .migrationEnd := of_none rfl
theorem rcStop (v : Word) : Statement (.rcStop v) := of_none rfl
theorem rcDisplace (v : Word) : Statement (.rcDisplace v) := of_none rfl
theorem rcResume (v : Word) : Statement (.rcResume v) := of_none rfl
theorem rcResRead : Statement .rcResRead := of_none rfl
theorem featAcceptWrite (v : Word) : Statement (.featAcceptWrite v) := of_none rfl
theorem pkgIdWrite (v : Word) : Statement (.pkgIdWrite v) := of_none rfl
theorem nqHeadWrite (v : Word) : Statement (.nqHeadWrite v) := of_none rfl
theorem droverConfigWrite (die : Fin 4) (dw : Fin 4) (v : Word) : Statement (.droverConfigWrite die dw v) := of_none rfl
theorem droverEntryTake (die : Fin 4) : Statement (.droverEntryTake die) := of_none rfl
theorem registerWrite (off : Nat) (v : Word) : Statement (.registerWrite off v) := of_none rfl
theorem hostCxlAccess (acc : HostAccess) : Statement (.hostCxlAccess acc) := of_none rfl
theorem hostSnoop (line : Nat) : Statement (.hostSnoop line) := of_none rfl
theorem pldmPowerCapSet (mw : Nat) : Statement (.pldmPowerCapSet mw) := of_none rfl
theorem pldmSensorRead (sensor : Nat) : Statement (.pldmSensorRead sensor) := of_none rfl
theorem mctpControl (msg : List Byte) : Statement (.mctpControl msg) := of_none rfl
theorem telemetrySample (vals : List Int) : Statement (.telemetrySample vals) := of_none rfl
theorem thermalReset : Statement .thermalReset := of_none rfl
theorem firmwareUpdate (fw : FirmwareBundle) : Statement (.firmwareUpdate fw) := of_none rfl
theorem quoteRequest (nonce : BitVec 256) : Statement (.quoteRequest nonce) := of_none rfl
theorem eventLogRead (n : Nat) : Statement (.eventLogRead n) := of_none rfl
theorem lpddr6Refresh (ch : Nat) : Statement (.lpddr6Refresh ch) := of_none rfl
theorem lpddr6Retrain (ch : Nat) : Statement (.lpddr6Retrain ch) := of_none rfl
theorem moduleReset (verified : Bool) : Statement (.moduleReset verified) := of_none rfl
theorem unassignedOpcode (word : BitVec 32) : Statement (.unassignedOpcode word) := of_none rfl
theorem bundleAddress (addr : Word) : Statement (.bundleAddress addr) := of_none rfl
theorem dieLinkRetrain (x : Fin 4) (y : Fin 4) : Statement (.dieLinkRetrain x y) := of_none rfl
theorem porrokPortRetrain (port : Fin 16) : Statement (.porrokPortRetrain port) := of_none rfl
theorem msixVectorUnmask (v : Fin 3) : Statement (.msixVectorUnmask v) := of_none rfl
theorem poisonedPacketResend (id : Nat) : Statement (.poisonedPacketResend id) := of_none rfl
end RoundTrip

end Sys2Proof.Laws
end

