-- ==== Sys2Proof/Tests/Slice0.lean ====
section
/-! SUPPORT. Tests: for every statement of Certificates/Slice0/Obligations.lean a theorem `witness_<statement>` that shows a
concrete state and operands which meet its hypotheses, clause by clause; terms that are not well-formed; words of the
specification that decode to their instructions; and results that the specification works out. -/

namespace Sys2Proof.Tests
open Sys2Proof.Machine

/-- A ready thread at 0x10000 with these registers: g1 covers a megabyte of scratch, g2 one of global memory, g3 one of the
scratch of cluster 1. -/
def ready (regs : List (Nat × Word)) : Thread :=
  { Thread.fresh with
    state := .ready
    pc := 0x10000
    allow := Config.unlimited
    regs := regs
    segs := [(1, ⟨0, 0xC900000000100000⟩), (2, ⟨0, 0xD000000000100000⟩), (3, ⟨0x100000000, 0xCA00000000100000⟩)] }

/-- Slot 1 of core 0 begins a lone bundle at 0x10000; cores 0 and 1 are placed in region 1,
and every feature is accepted. -/
def base (regs : List (Nat × Word)) : State :=
  let s := State.reset.setRegion 1 wordRegion
  let s := s.setCore 0 { Core.fresh with region := some 1 }
  let s := s.setCore 1 { Core.fresh with region := some 1 }
  let s := s.setThread 0 1 (ready regs)
  { s with
    cyc := 100
    host := { HostRegs.reset with featAccept := 0x3F }
    bun := { Bun.none with cid := 0, slot := 1, addr := 0x10000, npc := 0x10004, words := 1 } }

/-- The same in the region of another kind. -/
def inKind (k : Kind) (regs : List (Nat × Word)) : State := (base regs).setRegion 1 { wordRegion with kind := k }

/-- The same for the supervisor's thread of cluster 0. -/
def sup (regs : List (Nat × Word)) : State :=
  let s := (base []).setThread 16 0 (ready regs)
  { s with bun := { s.bun with cid := 16, slot := 0 } }

/-- p1 = 7, p2 = 8, p3 = 64. -/
def regs0 : List (Nat × Word) := [(1, 7), (2, 8), (3, 64)]


/-- A command of these words from slot 1 of core 0. -/
def cmdOf (words : List Word) : Cmd :=
  { id := 5
    cid := 0
    slot := 1
    rid := 1
    bundle := 0x10000
    icnt := 0
    now := 0
    words := words
    entered := 0
    fmts := []
    follow := []
    followBundle := 0
    followIcnt := 0
    followId := 0
    stream := none
    step := 0
    stopped := false
    waits := false
    area := none }

/-- Region 1 with this field set. -/
def withField (s : State) (k : Nat) (v : Word) : State := s.modRegion 1 (fun r => { r with fields := Table.set r.fields k v })

/-- A leaf entry: readable and writable, at PA 0x4000_0000. -/
def leafW : Nat := 2 ^ 63 + 2 ^ 62 + 2 ^ 61 + 0x40000000

/-- Region 1's tables map the first GiB by this entry. -/
def mapped (leaf : Nat) (s : State) : State :=
  withField (((s.write 0x100000 8 (2 ^ 63 + 0x101000)).write 0x101000 8 (2 ^ 63 + 0x102000)).write 0x102000 8 leaf) 11 0x100000

/-- The first GiB is in the translation cache of cluster 0. -/
def cached (s : State) : State := s.modCluster 0 (fun k => k.tlbUse ⟨1, 0, 30, wrap64 leafW⟩)

theorem witness_AddLogicAndCompareGroupsHaveTheirEffects :
    (∀ w ∈ [false, true], ∀ i ∈ ([.add w .sat 4 1 2, .sub w .usat 4 1 2, .min w 4 1 2, .max w 4 1 2, .minu w 4 1 2,
      .maxu w 0 1 2, .mov w 4 1, .and w 4 1 2, .or w 51 1 2, .xor w 32 1 2, .andn w 4 1 2, .orn w 4 1 2, .shl w 4 1 3,
      .shr w 4 1 3, .sra w 4 1 3, .sel w 4 1 2] ++ [Cond.eq, .ne, .lt, .ge, .ltu, .geu].map (fun c => .cmp c w 4 1 2)),
      Issues i (base regs0)) ∧
    uView false ((base regs0).operand 1) ≠ 0 ∧ uView false ((base regs0).operand 9) = 0 ∧
    Issues (.sel false 4 9 2) (base regs0) := by decide

theorem witness_DivisionTruncatesAndDefinesDivisorZero :
    (∀ w ∈ [false, true], ∀ i ∈ ([.mul w .wrap 4 1 2, .mul w .sat 4 1 2, .mulh w 4 1 2, .mulhu w 4 1 2, .div w 4 1 2,
      .divu w 4 1 9, .rem w 4 1 9, .remu w 4 1 2] : List Instr), Issues i (base regs0)) ∧
    (let s := base [(1, 0x8000000000000000), (2, 0xFFFFFFFFFFFFFFFF)]
     sView false (s.operand 1) = -(2 ^ 63) ∧ sView false (s.operand 2) = -1 ∧ Issues (.div false 4 1 2) s) := by decide

theorem witness_BitCountsAndFieldsAreTheirBits : ∀ w ∈ [false, true], ∀ i ∈ ([.clz w 4 1, .ctz w 4 9, .popc w 4 1, .bfx w 4 1 2,
    .bfxSx w 4 1 2, .bfi w 4 1 2, .rol w 4 1 3] : List Instr), Issues i (base regs0) := by decide

theorem witness_ImmediatesAndNoOperations : ∀ i ∈ ([.movi 4 0x3FFFF, .movhi 4 1, .addi 4 0x20000, .addiW 4 1, .nop, .nopArith] :
    List Instr), Issues i (base regs0) := by decide

/-- Core 0 with this status of the carter command of token 7. -/
def withStatus (st : EStatus) : State :=
  (base regs0).modCore 0 (fun c => { c with hist := [(0, [⟨1, 7, st, [], 1⟩])] })

theorem witness_BranchesGoToTheirTargetsOrOn :
    (∀ i ∈ ([.beq 1 2 4, .bne 1 2 4, .blt 1 2 4, .bge 1 2 4, .bltu 1 2 4, .bgeu 1 2 4, .bz 1 4, .bnz 1 4,
      .beng .cart .done 1 4, .beng .mx .busy 1 4] : List Instr), Issues i (base regs0)) ∧
    (∃ e, (withStatus .done).myCore.statusOf Eng.cart.code (((withStatus .done).operand 1).toNat % 2 ^ 32) = some e ∧
      e.status = engStatus .done) ∧
    (base regs0).myCore.statusOf Eng.cart.code 7 = none := by
  refine ⟨by decide, ⟨⟨1, 7, .done, [], 1⟩, by decide, by decide⟩, by decide⟩

theorem witness_JumpsGoToTheirTargetsAndLink : ∀ i ∈ ([.j 0xFFFFFF, .jl 2, .jr 3, .jlr 3] : List Instr), Issues i (base regs0) := by
  decide

theorem witness_YieldExitAndTrapEndTheirTurn : ∀ i ∈ ([.yield, .exit, .trap 1] : List Instr), Issues i (base regs0) := by decide

theorem witness_SpecialRegistersReadAndWrite :
    (∀ n ∈ List.range 15, ∀ (h : n < 64), Issues (.rdsr 4 ⟨n, h⟩) (base regs0)) ∧
    Issues (.wrsr 1 7) (sup regs0) ∧ Issues (.wrsr 1 9) (sup regs0) ∧
    (let s := (sup regs0).modCluster 0 (fun k => { k with mxQ := [{ cmdOf [7] with stopped := true }] })
     mxprogOk (s.cluster s.myCl) (s.operand 1) = true ∧ Issues (.wrsr 1 13) s) ∧
    mxprogOk ((sup regs0).cluster (sup regs0).myCl) ((sup regs0).operand 1) = false ∧ Issues (.wrsr 1 13) (sup regs0) := by
  decide

/-- The foreman of core 0 begins a bundle; slot 15 of the core is in this state. -/
def foreman (t : Thread) : State :=
  let s := ((base []).setThread 0 0 (ready [(1, 15), (2, 0x10000), (3, 1)])).setThread 0 15 t
  { s with bun := { s.bun with slot := 0 } }

theorem witness_ForemanStartsReapsAndReadsSlots :
    (((foreman Thread.fresh).thread 0 15).state = .empty ∧ ((foreman Thread.fresh).operand 1).toNat = 15 ∧
      ((foreman Thread.fresh).operand 3).toNat = 1 ∧
      ∀ i ∈ ([.tstart 1 2, .tstart 3 2, .treap 1, .tstat 4 1] : List Instr), Issues i (foreman Thread.fresh)) ∧
    (let s := foreman { Thread.fresh with state := .stopped, code := 0x1C, icnt := 5 }
     (s.thread 0 15).state = .stopped ∧ (s.thread 0 15).handler = false ∧ s.parkShown 0 15 < 2 ^ 4 ∧
      s.recPending 0 15 = false ∧ Issues (.treap 1) s ∧ Issues (.tstat 4 1) s) ∧
    (let s := (foreman { Thread.fresh with state := .stopped, code := 0x1C, icnt := 5 }).modRegion 1 (fun r =>
       { r with late := [⟨0, 15, 9, 0, []⟩] })
     s.recPending 0 15 = true ∧ Issues (.tstat 4 1) s) := by decide

/-- The same with outstanding loads. -/
def withLoads (n : Nat) : State :=
  (base regs0).modThread 0 1 (fun t => { t with outs := (List.range n).map (fun k => ⟨k, .ld, false⟩) })

theorem witness_WaitFenceAndWidenGoOnWhenReady :
    (withLoads 2).me.count .ld = 2 ∧ Issues (.wait 0 0 0 2) (withLoads 2) ∧ ¬ (withLoads 2).me.count .ld ≤ 1 ∧
    Issues (.wait 0 0 0 1) (withLoads 2) ∧ Issues (.wait 15 15 15 15) (withLoads 2) ∧
    ∀ sc ∈ [Scope.thr, .core, .clu, .die, .pkg, .sys], fenceReady (base regs0) sc = true ∧ widenReady (base regs0) sc = true ∧
      Issues (.fence sc) (base regs0) ∧ Issues (.widen sc) (base regs0) := by decide

/-- The core in long mode or not. -/
def longCore (b : Bool) : State := (base regs0).modCore 0 (fun c => { c with long := b })

theorem witness_VmodeSwitchesAtWriteBack :
    (longCore true).myCore.long = true ∧ (longCore false).myCore.long = false ∧
    (∀ b ∈ [false, true], (longCore b).myCore.vmodeBusy = none ∧ (longCore b).vmemBusy 0 = false ∧
      Issues .vmode (longCore b) ∧ Issues .vmodeLong (longCore b)) ∧ longFree (longCore false) = true := by decide

/-- Point 23 of the team with this state, and p1 = n. -/
def atPoint (n : Nat) (p : PointSt) : State := (base [(1, wrap64 n)]).setPoint 1 0 23 p

/-- Point 23 is in phase 1, and the thread has arrived in phase ph. -/
def arrivedIn (ph : Nat) : State :=
  (atPoint 2 { PointSt.fresh with expect := some 2, phase := 1 }).modThread 0 1 (fun t => { t with rv := [(23, (ph, true))] })

theorem witness_RendezvousPointsCountArrivalsAndBytes :
    (∀ n ∈ [1, 256], ((atPoint n PointSt.fresh).operand 1).toNat = n ∧ ((atPoint n PointSt.fresh).myPoint 23).expect = none ∧
      Issues (.rvinit 1 23) (atPoint n PointSt.fresh)) ∧
    (let s := atPoint 256 { PointSt.fresh with expect := some 256 }
     (s.myPoint 23).expect = some 256 ∧ Issues (.rvinit 1 23) s ∧ Issues (.rvarr 23) s ∧
       (s.operand 1).toNat + (s.myPoint 23).bytes < 2 ^ 40 ∧ Issues (.rvbytes 1 23) s) ∧
    (∀ ph ∈ [0, 1], ((arrivedIn ph).myPoint 23).expect.isSome = true ∧ ((arrivedIn ph).myPoint 23).phase = 1 ∧
      Table.find (arrivedIn ph).me.rv 23 = some (ph, true) ∧ (arrivedIn ph).arrivals = [] ∧
      Issues (.rvwait 23) (arrivedIn ph)) := by
  refine ⟨?_, ?_, ?_⟩ <;> decide

theorem witness_ScratchLoadsReadTheirBytes :
    (∀ n ∈ [1, 2, 4, 8], (memCheck (base regs0) 3 [.scratch, .remote] rightR 64 n n fMisaligned).toOption.map (·.space)
      = some .remote) ∧
    (∀ l ∈ ([(.ldB 4 3 3 0, 1), (.ldH 4 3 3 0, 2), (.ldW 4 3 3 0, 4), (.ldD 4 3 3 0, 8), (.ldBSx 4 3 3 0, 1),
      (.ldHSx 4 3 3 0, 2), (.ldWSx 4 3 3 0, 4), (.ldB 4 3 1 0, 1), (.ldWSx 4 3 1 0, 4)] : List (Instr × Nat)),
      Issues l.1 (base regs0)) ∧
    (let s := base regs0
     let e : Ea := ⟨.scratch, 0, 64, 64⟩
     memCheck s 1 [.scratch, .remote] rightR (s.operand 3 + (0 : BitVec 9).signExtend 64 * wrap64 8) 8 8 fMisaligned = .ok e ∧
       coreOf s.bun.cid < 16 ∧ bankOfSa e.addr / 2 = coreOf s.bun.cid ∧ s.bankHeld s.rid e.cl (bankOfSa e.addr) = true ∧
       s.orderOk { s.newReq (.load false) e 1 [pieceOf s e 8 0 0] with dst := some 4, cls := some .ld } (pieceOf s e 8 0 0) = true ∧
       s.buffer s.bun.cid = [] ∧ s.poisoned (scratchKey e.cl e.addr) 8 = none) := by decide

/-- A full store buffer of core 0. -/
def bufferedUp : State :=
  let s := base regs0
  { s with reqs := (List.range 64).map (fun k => { s.newReq .store ⟨.remote, 1, 64, 0⟩ 3 [] with
      id := 1000 + k
      cls := some .st
      buffered := true
      stage := .unsent }) }

theorem witness_ScratchStoresTakeABufferEntry :
    (∀ l ∈ ([(.stB 2 3 3 0, 1), (.stH 2 3 3 0, 2), (.stW 2 3 1 0, 4), (.stD 2 3 1 0, 8)] : List (Instr × Nat)),
      Issues l.1 (base regs0) ∧ Issues l.1 bufferedUp) ∧ (base regs0).bufferFull 0 = false ∧ bufferedUp.bufferFull 0 = true ∧
    memCheck (base regs0) 1 [.scratch, .remote] rightW ((base regs0).operand 3 + (0 : BitVec 9).signExtend 64 * wrap64 8) 8 8 fMisaligned
      = .ok ⟨.scratch, 0, 64, 64⟩ ∧
    memCheck bufferedUp 3 [.scratch, .remote] rightW (bufferedUp.operand 3 + (0 : BitVec 9).signExtend 64 * wrap64 1) 1 1 fMisaligned
      = .ok ⟨.remote, 1, 64, 0x100000040⟩ := by decide

theorem witness_FullEmptyOperationsSynchronise :
    let s := base regs0
    let full := s.setFull (scratchKey 0 64) true
    (∀ r ∈ [rightR + rightS, rightW + rightS, rightS], memCheck s 3 [.scratch, .remote] r 64 8 8 fMisaligned
      = .ok ⟨.remote, 1, 64, 0x100000040⟩) ∧
    memCheck s 1 [.scratch, .remote] (rightR + rightS) 64 8 8 fMisaligned = .ok ⟨.scratch, 0, 64, 64⟩ ∧
    s.bankHeld s.rid 0 (bankOfSa 64) = true ∧ s.reqs = [] ∧ s.poisoned (scratchKey 0 64) 8 = none ∧
    full.isFull (scratchKey 0 64) = true ∧ s.isFull (scratchKey 0 64) = false ∧
    ∀ i ∈ ([.lds 4 3 3 0, .ldf 4 3 3 0, .sts 2 3 3 0, .stf 2 3 3 0, .feset 3 3, .feclr 3 3, .feq 4 3 3, .lds 4 3 1 0] : List Instr),
      Issues i s ∧ Issues i full := by decide

/-- p1 and p2 hold a valid scratch pair, p3 = 64. -/
def regsSeg : List (Nat × Word) := [(1, 0x100), (2, 0xC800000000000000 + 0x100000000000000 + 0x200), (3, 64)]

theorem witness_SegmentsAreSetReadAndNarrowed :
    let s := base regsSeg
    (⟨s.operand 1, s.operand 2⟩ : SegReg).valid = true ∧
    (⟨s.operand 1, s.operand 2⟩ : SegReg).within (s.seg 0 1 1) = true ∧ (⟨s.operand 3, s.operand 1⟩ : SegReg).valid = true ∧
    (⟨s.operand 2, s.operand 1⟩ : SegReg).valid = false ∧
    Issues (.segnarrow 1 2 1) s ∧ Issues (.segnarrow 2 1 1) s ∧ Issues (.segget 4 7) s ∧
    Issues (.segset 1 2 7) (sup regsSeg) ∧ Issues (.segset 2 1 7) (sup regsSeg) := by decide

/-- Pool bank n belongs to region 1, and p1 names it. -/
def ownsBank (n : Nat) : State := (base [(1, wrap64 n)]).setBank n (Bank.fresh (.alloc 1))

theorem witness_BankInstructionsActOnHeldBanks :
    (let s := base [(1, 3), (2, 0x1), (3, 0)]
     ownBank s (s.operand 1) = true ∧ fmtBad (s.operand 2) = false ∧ fmtRm (s.operand 2) ≠ 5 ∧ Issues (.bankfmt 1 2) s ∧
       Issues (.histrd 4 1 63) s ∧ Issues (.histclr 1) s ∧ Issues (.bankalloc 4 3) s) ∧
    (∀ n ∈ [32, 47], ((ownsBank n).operand 1).toNat = n ∧ ((ownsBank n).bank (bankKey 0 n)).role = .alloc (ownsBank n).rid ∧
      Issues (.bankfree 1) (ownsBank n)) ∧
    (let s := base [(1, 0), (2, 2), (3, 1)]
     limitsOk (s.operand 1) = true ∧ Issues (.poolset 1) s ∧ (s.poolBanks (fun r => r = .free)).length = 2 ∧
       Issues (.bankalloc 4 2) s ∧ Issues (.bankalloc 4 3) s ∧
       2 ≤ ((s.cluster s.myCl).limitsOf s.rid).scratchMax ∧ (s.ownedBanks s.rid s.myCl).length = 0) ∧
    (let s := (base [(1, 0), (2, 2), (3, 1)]).setBank 32 (Bank.fresh (.alloc 7))
     (s.poolBanks (fun r => r = .free)).length + ((s.poolBanks (fun r => r = .cache)).length -
       ((s.cluster s.myCl).limitsOf s.rid).cacheMin) < 2 ∧ Issues (.bankalloc 4 2) s) := by
  refine ⟨?_, ?_, ?_, ?_⟩ <;> decide

theorem witness_GlobalAndAcquiringLoadsSendTheirReads :
    (let s := cached (base regs0)
     memCheck s 2 [.global, .stack] rightR (s.operand 3 + (1 : BitVec 9).signExtend 64 * wrap64 8) 8 8 fMisaligned
       = .ok ⟨.global, 0, 72, 72⟩ ∧
     (s.known { s.newReq (.load false) ⟨.global, 0, 72, 72⟩ 2 [pieceOf s ⟨.global, 0, 72, 72⟩ 8 0 0] with
       dst := some 4, cls := some .ld }).isSome = true ∧
     ∀ i ∈ ([.ldgB 4 3 2 0, .ldgH 4 3 2 0, .ldgW 4 3 2 0, .ldgD 4 3 2 0, .ldgBSx 4 3 2 0, .ldgHSx 4 3 2 0, .ldgWSx 4 3 2 0,
       .ldgAcq .d false .sys 4 3 2, .ldAcq .b true .thr 4 3 3] : List Instr), Issues i s) ∧
    (let s := mapped leafW (base regs0)
     s.tlbLook s.rid s.myCl (dieOf s.bun.cid) false false 64 = .missing ∧ Issues (.ldgD 4 3 2 0) s ∧
       ∃ rg, s.region? s.rid = some rg ∧ s.translate rg (dieOf s.bun.cid) 64 false false = .pa 0x40000040 leafW 30) ∧
    (let s := mapped (leafW + 1) (base regs0)
     s.tlbLook s.rid s.myCl (dieOf s.bun.cid) false false 64 = .missing ∧ Issues (.ldgD 4 3 2 0) s ∧
       ∃ rg, s.region? s.rid = some rg ∧ s.translate rg (dieOf s.bun.cid) 64 false false = .denied 6) := by
  refine ⟨by decide, ⟨by decide, by decide, _, rfl, by decide⟩, by decide, by decide, _, rfl, by decide⟩

theorem witness_GlobalStoresReleasesAndCacheOperations :
    let s := cached (base regs0)
    s.bufferFull s.bun.cid = false ∧
    memCheck s 2 [.global, .stack] rightW (s.operand 3) 8 8 fMisaligned = .ok ⟨.global, 0, 64, 64⟩ ∧
    memCheck s 2 [.global, .stack] rightR (s.operand 3) 1 1 fMisaligned = .ok ⟨.global, 0, 64, 64⟩ ∧
    memCheck s 3 [.scratch, .remote] rightW (s.operand 3) 8 8 fMisaligned = .ok ⟨.remote, 1, 64, 0x100000040⟩ ∧
    (memCheck s 0 [.global, .stack] rightR (s.operand 3) 1 1 fMisaligned).toOption = none ∧
    (s.known { s.newReq .store ⟨.global, 0, 64, 64⟩ 2 [pieceOf s ⟨.global, 0, 64, 64⟩ 8 8 0] with
      cls := some .st, buffered := true, ord := .rel .sys }).isSome = true ∧
    ∀ i ∈ ([.stgB 2 3 2 0, .stgH 2 3 2 0, .stgW 2 3 2 0, .stgD 2 3 2 0, .stgRel .d .sys 2 3 2, .stRel .b .core 2 3 3,
      .cclean 3 2, .cinval 3 2, .pref 3 2, .pref 3 0] : List Instr), Issues i s := by decide

theorem witness_AtomicsSendTheirOperation :
    let s := cached (base regs0)
    let det := withField s 5 1
    (∀ n ∈ [4, 8], memCheck s 2 [.global, .stack] rightA (s.operand 3) n n fMisalignedAtomic = .ok ⟨.global, 0, 64, 64⟩ ∧
      memCheck det 2 [.global, .stack] rightA (det.operand 3) n n fMisalignedAtomic = .ok ⟨.global, 0, 64, 64⟩) ∧
    (s.region? s.rid).map (·.det) = some false ∧ (det.region? det.rid).map (·.det) = some true ∧
    (∀ i ∈ ([.aadd .plain false false 2 3 2, .aand .plain true true 2 3 2, .aor (.acq .sys) false true 2 3 2,
      .axor (.rel .thr) true false 2 3 2, .amin .plain false false 2 3 2, .amax .plain false false 2 3 2,
      .aminu .plain false false 2 3 2, .amaxu .plain false false 2 3 2, .axchg .plain false false 2 3 2,
      .acas .plain false true 2 3 2, .afadd .plain true 2 3 2] : List Instr), Issues i s) ∧
    Issues (.aadd .plain false false 2 3 2) det := by
  refine ⟨?_, ?_, ?_, ?_, ?_⟩ <;> decide

/-- Core 0 with an entry of the pair (stream 1, cluster 1). -/
def streamed (n : Nat) : State :=
  (base regs0).modCore 0 (fun c => { c with streamTab := [⟨1, 1, 7, n, false⟩] })

theorem witness_StreamStoresTakeTheNextNumber :
    (∀ n ∈ [63, 64], (streamed n).bufferFull 0 = false ∧ (streamed n).myCore.streamTab = [⟨1, 1, 7, n, false⟩] ∧
      Issues (.rst 1 .d 2 3 3) (streamed n) ∧ Issues (.rst 0 .d 2 3 3) (streamed n) ∧ Issues (.rst 2 .b 2 3 3) (streamed n) ∧
      memCheck (streamed n) 3 [.scratch, .remote, .global, .stack] rightW 64 8 8 fMisaligned
        = .ok ⟨.remote, 1, 64, 0x100000040⟩ ∧
      (streamed n).destOf { (streamed n).newReq (.rst 1) ⟨.remote, 1, 64, 0x100000040⟩ 3
        [pieceOf (streamed n) ⟨.remote, 1, 64, 0x100000040⟩ 8 8 0] with cls := some .st, buffered := true } = 1) ∧
    (let s := cached (base regs0)
     memCheck s 2 [.global] rightW (s.operand 3 + (1 : BitVec 9).signExtend 64 * 8) 8 8 fMisaligned = .ok ⟨.global, 0, 72, 72⟩ ∧
       Issues (.mst 2 3 2 1) s) := by
  refine ⟨?_, ?_⟩ <;> decide

theorem witness_StreamReadsReportTheirPair :
    (let s := base [(1, 0x1), (2, 0xC00), (3, 0xBB0)]
     (s.operand 3).toNat < 2 ^ 26 ∧ (s.operand 3).toNat / 2 ^ 14 = s.host.pkgId ∧ (s.operand 3).toNat / 2 ^ 8 % 16 = 11 ∧
       (s.operand 3).toNat / 2 ^ 4 % 16 = 11 ∧ Issues (.sseq 4 3 15) s ∧ (s.operand 2).toNat / 2 ^ 8 % 16 = 12 ∧
       Issues (.sseq 4 2 1) s ∧ Issues (.swait 4 3) s ∧ s.reqs = []) ∧
    (let s := (base []).addReq { (base []).newReq (.rst 3) ⟨.remote, 1, 64, 0⟩ 3 [] with cls := some .st, buffered := true }
     s.reqs.any (fun r => r.cid = s.bun.cid && r.slot = s.bun.slot && r.op = .rst 3 && !r.dropped) = true ∧
       Issues (.swait 4 3) s) := by
  refine ⟨?_, ?_⟩ <;> decide

theorem witness_VectorMemorySendsItsElements :
    (∀ b ∈ [false, true], Issues (.vld 4 3 3 0) (longCore b) ∧ Issues (.vst 4 3 3 0) (longCore b) ∧
      Issues (.vlds 1 .d 4 3 3) (longCore b) ∧ Issues (.vgath 1 .w 4 3 3) (longCore b) ∧ Issues (.vscat 1 .h 4 3 3) (longCore b) ∧
      memCheck (longCore b) 3 [.scratch, .remote, .global, .stack] rightR 64 (if b then 512 else 32) 32 fMisaligned
        = .ok ⟨.remote, 1, 64, 0x100000040⟩ ∧ oneBank ⟨.remote, 1, 64, 0x100000040⟩ (if b then 512 else 32) = true) ∧
    (let s := base [(1, 8), (3, 64)]
     (checkElems s 3 rightR 8 ((List.range 4).map (fun j => (j, s.operand 3 + wrap64 j * s.operand 1, 0)))).toOption.map
       (·.length) = some 4) ∧
    (let s := base [(1, 8), (3, 64)]
     ∀ e ∈ [((3 : Seg), Space.remote, 1, 0x100000040, false), (1, .scratch, 0, 64, true)],
       let ea : Ea := ⟨e.2.1, e.2.2.1, 64, e.2.2.2.1⟩
       let r : Req := { s.newReq .vload ea e.1 [pieceOf s ea 32 0 0] with vdst := some 4, long := false, cls := some .ld }
       memCheck s e.1 [.scratch, .remote, .global, .stack] rightR (s.operand 3 + (0 : BitVec 9).signExtend 64 * 32) 32 32 fMisaligned
         = .ok ea ∧ s.ownHome r = e.2.2.2.2 ∧ Issues (.vld 4 3 e.1 0) s ∧
         ∀ p ∈ r.pieces, s.orderOk r p = true ∧ s.poisoned p.key p.size = none) := by
  refine ⟨?_, ?_, ?_⟩ <;> decide

theorem witness_VectorSumsAndProductsAreLaneWise :
    (∀ b ∈ [false, true], ∀ i ∈ ([.vadd (.fl .f32 .rne) 4 1 2, .vsub (.fl .bf16 .sr) 4 1 2, .vmul (.fl .f16 .rsat) 4 1 2,
      .vdiv .f32 .rtz 4 1 2, .vsqrt .f32 .rup 4 1, .vfma (.fl .f32 .rne) 4 1 2, .vadd (.int .i8 .sat) 4 1 2,
      .vsub (.int .u8 .usat) 4 1 2, .vmul (.int .i64 .wrap) 4 1 2, .vfma (.int .i16 .sat) 4 1 2] : List Instr),
      Issues i (longCore b)) := by decide

theorem witness_VectorSelectionsSignsAndFunctions :
    ∀ i ∈ ([.vmin (.fl .f32) 4 1 2, .vmax (.int .u8) 4 1 2, .vabs (.fl .f16) 4 1, .vneg (.int .i32 true) 4 1, .vrcp .f32 .rne 4 1,
      .vrsq .bf16 .rna 4 1, .vexp .f32 .rdn 4 1, .vlog .f16 .rne 4 1, .vtanh .f32 .rsat 4 1, .vcmp (.fl .f32 .uno) 4 1 2,
      .vcmp (.int .i8 .gt) 4 1 2, .vsel (.int .i64) 4 1 2] : List Instr), Issues i (base regs0) := by decide

theorem witness_VectorLogicConversionsAndMoves :
    ∀ i ∈ ([.vand .i32 4 1 2, .vor .i8 4 1 2, .vxor .u8 4 1 2, .vshl .i16 4 1 2, .vshr .i64 4 1 2,
      .vcvt (.fl .f32) (.fl .bf16) .rne 4 1, .vperm (.int .u8) 4 1 2, .vbcast (.fl .f16) 4 1, .vins (.int .i8) 4 1 2,
      .vext (.fl .f32) 4 1 2, .vext (.int .i8) 4 1 2] : List Instr), Issues i (base regs0) := by decide

theorem witness_VectorReductionsSumTheirLanes : ∀ b ∈ [false, true],
    ∀ i ∈ ([.vdot (.fl .f32 .rne) 4 1 2, .vdot (.int .i8 .wrap) 4 1 2, .vred (.int .u8 .wrap) 4 1, .vred (.fl .f16 .sr) 4 1] :
      List Instr), Issues i (longCore b) := by decide

theorem witness_ScalarFloatFormsRoundOnce :
    ∀ i ∈ ([.vaddS .f64 .rne 4 1 2, .vsubS .f32 .rtz 4 1 2, .vmulS .f16 .sr 4 1 2, .vdivS .bf16 .rup 4 1 2, .vfmaS .f64 .rne 4 1 2,
      .vsqrtS .f64 .rne 4 1, .vminS .f32 4 1 2, .vmaxS .f64 4 1 2, .vabsS .f16 4 1, .vnegS .f64 4 1, .vrcpS .f64 .rne 4 1,
      .vrsqS .f64 .rne 4 1, .vexpS .f64 .rne 4 1, .vlogS .f32 .rne 4 1, .vtanhS .f64 .rne 4 1, .vcmpS .f64 .uno 4 1 2,
      .vcvtS (.int .u32) (.fl .f64) .rtz 4 1] : List Instr), Issues i (base regs0) := by decide

/-- Region 1 holds the arrays of cluster 0, or nobody does. -/
def arrays (h : Bool) (regs : List (Nat × Word)) : State :=
  (base regs).modCluster 0 (fun k => { k with
    mxHolder := if h then some 1 else none
    tkHolder := if h then some 1 else none })

/-- The matrix queue of cluster 0 is full. -/
def mxFull : State := (arrays true regs0).modCluster 0 (fun k => { k with mxQ := (List.range 16).map (fun _ => cmdOf [0]) })

theorem witness_EngineInstructionsEnterAtWriteBack :
    (let s := base regs0
     s.myCore.stream? 3 = none ∧ Issues (.cpstream 1 3) s) ∧
    (let s := arrays true [(1, 0x2000), (2, 0x5F)]
     s.holdsMx s.bun.cid s.rid = true ∧ s.engRoom s.myCl 29 = true ∧ (s.operand 2).toNat % 2 ^ 8 = 95 ∧
       Issues (.mxsave 1) s ∧ Issues (.mxload 1) s ∧ Issues (.accrd 4 2 3) s) ∧
    ((arrays false regs0).holdsMx 0 1 = false ∧ isSup 0 = false ∧ isSup (sup regs0).bun.cid = true) ∧
    mxFull.holdsMx 0 1 = true ∧ mxFull.engRoom mxFull.myCl 29 = false ∧ Issues (.mxsave 1) mxFull := by
  refine ⟨?_, ?_, ?_, ?_, ?_, ?_⟩ <;> decide

theorem witness_TickInstructionsEnterTheTickQueue :
    (let s := arrays true [(1, 255), (2, 0x4000), (3, 0x80), (5, 0x3F + 0x100), (6, 8)]
     s.holdsTk s.bun.cid s.rid = true ∧ s.engRoom s.myCl 30 = true ∧ (s.operand 1).toNat = 255 ∧
       (s.operand 2).toNat < 2 ^ 15 ∧ (s.operand 2).toNat % 2 ^ 6 + (s.operand 2).toNat / 2 ^ 8 = 64 ∧
       (s.operand 5).toNat % 2 ^ 6 + (s.operand 5).toNat / 2 ^ 8 = 64 ∧
       s.tickAddr (s.operand 3) 64 = true ∧ s.tickAddr (s.operand 3) (64 * 64) = true ∧ (s.operand 6).toNat = 8 ∧
       ∀ i ∈ ([.tkwin 1, .tkload 3 2, .tkload 3 5, .tklaunch 3, .tklaunchAnd 3, .tkcapt 3, .tkreset, .tkfirst 4 6, .tkstat 4] :
         List Instr), Issues i s) ∧
    ((arrays false regs0).holdsTk 0 1 = false ∧ Issues (.tkstat 4) (arrays false regs0)) := by
  refine ⟨?_, ?_⟩ <;> decide

/-- An outbound end of core 0 joined with end 2 of core 1, and an inbound end. -/
def outEnd0 : OutEnd := { OutEnd.declared 5 0 with peer := 1, pidx := 2, joined := true, allow := 1 }
def inEnd0 : InEnd := { InEnd.declared 0 with peer := 1, pidx := 2, joined := true, handler := 0x20000 }

/-- Core 0 of an event region: outbound end 3, inbound end 4, virtual time 10, its task attached. -/
def eventCore (f : Core → Core) (regs : List (Nat × Word)) : State :=
  (withField (inKind .event regs) 13 16).modCore 0 (fun c => f { c with
    outEnds := [(3, outEnd0)]
    inEnds := [(4, inEnd0)]
    attached := true
    tileNow := 10 })

/-- The same with this thread as its foreman, in slot 0. -/
def eventForeman (t : Thread → Thread) : State :=
  let s := (eventCore id []).setThread 0 0 (t (ready [(1, 0x100)]))
  { s with bun := { s.bun with slot := 0 } }

theorem witness_EventInstructionsMoveMessagesAndTime :
    (let s := eventCore id [(1, 15), (2, 1 + 0x1000000 + 0x200000000000000), (3, 20)]
     (s.regionOf 0).map (·.kind) = some .event ∧ s.me.handler = false ∧
       (∀ r, s.regionOf 0 = some r → (s.declareEnd 0 r (s.operand 1) (s.operand 2) true 15).toOption.isSome = true ∧
         (s.declareEnd 0 r (s.operand 1) (s.operand 2) false 0).toOption.isSome = true) ∧
       Issues (.chdecl 1 2 true 15) s ∧ Issues (.chdecl 1 2 false 0) s) ∧
    (let s := eventCore id [(1, 15), (2, 0), (3, 20)]
     s.myCore.outEnd? 3 = some outEnd0 ∧ s.detached = false ∧ outEnd0.closed = false ∧ outEnd0.joined = true ∧ 0 < outEnd0.allow ∧
       tsAdd (s.nowOf 0 1) outEnd0.look = 15 ∧ (s.operand 1).toNat = 15 ∧ s.acquiring 0 1 s.nextId = false ∧
       s.myCore.inEnd? 4 = some inEnd0 ∧
       ∀ i ∈ ([.send 1 3, .promise 3 3, .floor 4, .chclose true 3, .chclose false 4, .hdlset 1 4] : List Instr), Issues i s) ∧
    (let q : Arrival := ⟨12, false, 0, [1, 2, 3, 4, 5, 6, 7, 8], 1, 2, false⟩
     let s := eventForeman (fun t => { t with gift := some (4, q) })
     s.bun.slot = 0 ∧ s.me.gift = some (4, q) ∧ s.myCore.attached = true ∧ Issues (.recv 4) s ∧ Issues .evdone s) ∧
    (let s := ((eventCore id [(1, 0x100)]).write (scratchKey 0 0x100) 8 10).write (scratchKey 0 0x108) 8 4
     startInHome 0 (s.operand 1).toNat = true ∧ s.poisoned (scratchKey s.myCl (s.operand 1).toNat) 80 = none ∧
       s.seenDw 0 (scratchKey 0 0x108) = 4 ∧ s.seenDw 0 (scratchKey 0 0x100) = 10 ∧ s.myCore.tileNow = 10 ∧
       Issues (.evstart 1) s) := by
  refine ⟨⟨by decide, by decide, ?_, by decide, by decide⟩, ?_, ?_, ?_⟩
  · intro r hr
    obtain rfl : { wordRegion with kind := .event, fields := Table.set wordRegion.fields 13 16 } = r := Option.some.inj hr
    decide
  · decide
  · decide
  · decide

/-- Slot 1 of core 0 of a forkjoin region, its thread changed. -/
def forkjoin (f : Thread → Thread) (frames : List (Nat × Frame)) (deque : List DeqEntry) (regs : List (Nat × Word)) : State :=
  (((inKind .forkjoin regs).modRegion 1 (fun r => { r with frames := frames })).modThread 0 1 f).modCore 0
    (fun c => { c with deque := deque })

theorem witness_ForkJoinTasksSpawnSyncAndEnd :
    (let s := forkjoin id [] (List.replicate 63 ⟨0, [], none, none⟩) regs0
     (s.regionOf 0).map (·.dequeCap) = some 64 ∧ s.myCore.deque.length + s.spawning 0 = 63 ∧
       Issues (.spawn 4) s ∧ Issues .sync s ∧ Issues .taskend s ∧ s.me.frame = none ∧ s.me.parent = none) ∧
    (let s := forkjoin (fun t => { t with frame := some 9 }) [(9, ⟨0, 1, 0, none⟩)] [] regs0
     (s.regionOf 0).map (fun r => (Table.find r.frames 9).map (·.pending)) = some (some 1) ∧ Issues .taskend s) ∧
    (let s := forkjoin (fun t => { t with parent := some 9 }) [(9, ⟨0, 1, 0, none⟩)] [⟨0x10010, [], some 9, none⟩] regs0
     s.me.parent = some 9 ∧ (s.fullDeque 0).find? (fun x => x.frame = some 9) = some ⟨0x10010, [], some 9, none⟩ ∧
       s.myCore.dequeFrozen = false ∧
       (∀ r, s.regionOf 0 = some r → s.spillFault r s.myCore ((s.fullDeque 0).idxOf ⟨0x10010, [], some 9, none⟩) = none) ∧
       Issues .taskend s) ∧
    (∀ e ∈ [none, some (⟨0x10010, [], some 9, none⟩ : DeqEntry)],
      (forkjoin (fun t => { t with parent := some 9 }) [(9, ⟨0, 1, 0, e⟩)] [] regs0).releaseReady (commonScope 0 0) = true ∧
        Issues .taskend (forkjoin (fun t => { t with parent := some 9 }) [(9, ⟨0, 1, 0, e⟩)] [] regs0)) ∧
    (let s := base [(1, 0x10), (2, 0x100)]
     (s.operand 1).toNat % 2 ^ 5 = 16 ∧ s.myCore.queue? 3 = none ∧ s.configuring 0 3 = false ∧ Issues (.qcfg 1 3) s ∧
       (s.operand 2).toNat % 2 ^ 5 = 0 ∧ Issues (.qcfg 2 3) s) := by
  refine ⟨by decide, by decide, ⟨by decide, by decide, by decide, ?_, by decide⟩, by decide, by decide⟩
  intro r hr
  obtain rfl := Option.some.inj hr
  decide

/-- A launch, without records, of the block at VA 0x200, in the port. -/
def launchReq : Req := { (base []).newReq (.launch 0) ⟨.global, 0, 0x200, 0x200⟩ 0 [⟨0x200, 0, 8, 0, 0, false⟩] with
  id := 9
  cls := some .st
  ord := .rel .sys
  stage := .sent }
def launching : State :=
  ({ (mapped leafW (base [])).write 0x40000200 8 0x500000000 with reqs := [launchReq], nextId := 10 } : State).modRegion 1 (fun r =>
    { r with fields := [12, 15, 18, 19, 20, 44].foldl (fun l k => Table.set l k (1 : Word)) r.fields })

theorem witness_LaunchesAndTournamentInstructions :
    (let s := mapped leafW (base [(1, 0x200), (2, 0)])
     (s.operand 2).toNat = 0 ∧ (s.operand 1).toNat % 256 = 0 ∧ Issues (.launch 1 2) s) ∧
    (canLaunch launching 9 = true ∧ launching.req? 9 = some launchReq ∧
      ∃ c ds recs, launching.launchAns launchReq ⟨0x200, 0, 8, 0, 0, false⟩ = .go c ds recs) ∧
    (∀ st ∈ [3, 4, 5],
      let s := (mapped leafW (base [(1, 0x200)])).write (0x40000200 + 136) 8 st
      ∃ r, s.regionOf 0 = some r ∧ s.acquireWaits 0 1 0x200 256 = false ∧ s.translate r 0 0x200 false false = .pa 0x40000200 leafW 30 ∧
        s.dw (s.fwd (0x40000200 + 16)) % 2 ^ 57 = r.block ∧
        s.readsMeet 0 1 [(0x200 + 16, s.fwd (0x40000200 + 16), 8), (0x200 + 136, s.fwd (0x40000200 + 136), 8)] = .go ∧
        s.dw (s.fwd (0x40000200 + 136)) % 16 = st ∧ Issues (.rwait 1) s) ∧
    (let s := withField (inKind .tournament [(1, 5), (2, 1)]) 29 1
     (s.regionOf 0).map (·.kind) = some .tournament ∧ (s.regionOf 0).map (·.nTeams) = some 2 ∧
       ∀ i ∈ ([.tscore 1, .tround, .tgrow 4, .trank 4 2] : List Instr), Issues i s) ∧
    (∀ i ∈ ([.tscore 1, .tround, .tgrow 4, .trank 4 2] : List Instr), Issues i (base regs0)) := by
  refine ⟨by decide, ⟨by decide, by decide, _, _, _, rfl⟩, ?_, by decide, by decide⟩
  intro st hst
  fin_cases hst <;> exact ⟨_, rfl, by decide, by decide, by decide, by decide, by decide, by decide⟩

/-- The tables of `mapped leafW` stand in memory. -/
def tablesStand (s : State) : Prop :=
  s.read 0x100000 8 = 2 ^ 63 + 0x101000 ∧ s.read 0x101000 8 = 2 ^ 63 + 0x102000 ∧ s.read 0x102000 8 = leafW

/-- Nothing migrates. -/
theorem fwd_still (t : State) (hm : t.host.mig = none) (k : Nat) : t.fwd k = k := by
  unfold State.fwd
  rw [hm]

/-- Where they stand, they map the first GiB from 0x4000_0000 on. -/
theorem translate_mapped (t : State) (r : Region) (die va : Nat) (w : Bool) (hr : r.field 11 = 0x100000) (h : tablesStand t)
    (hm : t.host.mig = none) (hv : va < 2 ^ 30) : t.translate r die va w false = .pa (0x40000000 + va) leafW 30 := by
  obtain ⟨h1, h2, h3⟩ := h
  have e1 : va / 2 ^ 48 % 2 ^ 9 = 0 := by omega
  have e2 : va / 2 ^ 39 % 2 ^ 9 = 0 := by omega
  have e3 : va / 2 ^ 30 % 2 ^ 9 = 0 := by omega
  have e4 : va % 2 ^ 30 = va := by omega
  have hf : ∀ k, t.fwd k = k := fwd_still t hm
  have hw : t.walk r va = .leaf leafW 30 := by
    unfold State.walk
    rw [hr]
    simp only [walkLevels, walkFrom, State.dw, e1, e2, e3, Nat.mul_zero, Nat.add_zero, hf, h1]
    rw [if_neg (by decide), if_neg (by decide), if_neg (by decide), show ptePa (2 ^ 63 + 0x101000) = 0x101000 from by decide,
      h2, if_neg (by decide), if_neg (by decide), if_neg (by decide),
      show ptePa (2 ^ 63 + 0x102000) = 0x102000 from by decide, h3]
    rw [if_neg (by decide), if_neg (by decide), if_pos (by decide)]
  unfold State.translate
  rw [hw]
  simp only [leafPa, e4]
  rw [if_neg (by cases w <;> decide)]
  rfl

/-- A write of the mapped page leaves them. -/
theorem tablesStand_write (t : State) (m : State) (k n v : Nat) (hm : m.mem = memWrite t.mem k v n) (hk : 0x40000000 ≤ k)
    (h : tablesStand t) : tablesStand m := by
  unfold tablesStand State.read at *
  rw [hm]
  exact ⟨(memRead_memWrite_out _ _ _ _ _ _ (by omega)).trans h.1, (memRead_memWrite_out _ _ _ _ _ _ (by omega)).trans h.2.1,
    (memRead_memWrite_out _ _ _ _ _ _ (by omega)).trans h.2.2⟩

/-- Where they stand, doublewords from 0x3000 on are written in the page. -/
theorem writeDwFn_mapped (f : Nat → Nat) (n : Nat) (hn : n ≤ 6656) (s : State) (r : Region) (hr : r.field 11 = 0x100000)
    (h : tablesStand s) (hm : s.host.mig = none) :
    ∃ t, writeDwFn s r 0 0x3000 f n = some t ∧ tablesStand t ∧ t.host.mig = none := by
  induction n with
  | zero => exact ⟨s, rfl, h, hm⟩
  | succ n ih =>
    obtain ⟨t, ht, hs, ht'⟩ := ih (by omega)
    refine ⟨t.homeWrite (0x40000000 + (0x3000 + 8 * n)) 8 (f (8 * n)), ?_, ?_,
      (congrArg HostRegs.mig (State.homeWrite_host _ _ _ _)).trans ht'⟩
    rotate_left
    · obtain ⟨-, e⟩ | ⟨he, -⟩ := t.homeMerge_cases (0x40000000 + (0x3000 + 8 * n)) 8 0 (f (8 * n))
      · unfold State.homeWrite
        rw [e]
        exact hs
      · exact tablesStand_write t _ _ _ _ (State.homeWrite_mem _ _ _ _ he) (by omega) hs
    rw [writeDwFn, ht]
    show t.writeVa r 0 (0x3000 + 8 * n) 8 (f (8 * n)) = _
    unfold State.writeVa
    rw [translate_mapped t r 0 _ true hr hs ht' (by omega)]
    dsimp only
    rw [fwd_still t ht']

/-- Bytes of the mapped pages that nothing has written read as zero. -/
theorem memRead_zero (m : List Host.Cell) (k n : Nat) (hk : k + n ≤ 2 ^ 56) (h : ∀ e ∈ m, e.1 < k ∨ k + n ≤ e.1) :
    memRead m k n = 0 := by
  induction n generalizing k with
  | zero => rfl
  | succ n ih =>
    have hf : ∀ l : List Host.Cell, (∀ e ∈ l, e.1 < k ∨ k + (n + 1) ≤ e.1) → Table.find l k = none := by
      intro l
      induction l with
      | nil => exact fun _ => rfl
      | cons e t iht =>
        intro hl
        have := hl e (by simp)
        rw [Table.find, if_neg (by omega)]
        exact iht (fun x hx => hl x (by simp [hx]))
    have hg : Table.get memDflt m k = memDflt := by
      unfold Table.get
      rw [hf m h]
      rfl
    rw [memRead, hg, ih (k + 1) (by omega) (fun e he => by have := h e he; omega)]
    rfl

/-- A doubleword of the mapped pages that nothing has written is zero, and so is one of an image there. -/
theorem dwVa_zero (s : State) (r : Region) (die va : Nat) (hr : r.field 11 = 0x100000) (h : tablesStand s) (hm : s.host.mig = none)
    (hq : s.homeQ = []) (hz : ∀ e ∈ s.mem, e.1 < 0x40000000) (hv : va + 8 ≤ 2 ^ 30) : s.dwVa r die va = some 0 := by
  unfold State.dwVa
  rw [translate_mapped s r die va false hr h hm (by omega)]
  dsimp only
  rw [fwd_still s hm, show s.homeView = s from by unfold State.homeView; rw [hq]; rfl]
  exact congrArg some (memRead_zero _ _ _ (by omega) (fun e he => by have := hz e he; omega))

/-- An area of such pages can be read and holds no poison. -/
theorem imgFault_mapped (s : State) (r : Region) (va n : Nat) (hr : r.field 11 = 0x100000) (h : tablesStand s)
    (hm : s.host.mig = none) (hp : s.poison = []) (hv : va + n ≤ 2 ^ 30) : imgFault s r 0 va n = none := by
  unfold imgFault
  rw [List.findSome?_eq_none_iff]
  intro j hj
  have hj' := List.mem_range.mp hj
  rw [translate_mapped s r 0 _ false hr h hm (by omega)]
  dsimp only
  unfold State.poisoned
  rw [hp]
  rfl

/-- With every link up core 0 reaches every line of its package. -/
theorem diePath_still (s : State) (key : Nat) (hl : s.linksDown = []) (hk : paPkg s.host.pkgId key = s.host.pkgId) :
    s.diePath 0 key = true := by
  have hu : ∀ d, s.diesLinked 0 d = true := by
    intro d
    unfold State.diesLinked State.relayDie State.linkUp
    rw [hl]
    split
    · rfl
    · split
      · rename_i hd
        obtain rfl : d = 3 := by omega
        rfl
      · rfl
  unfold State.diePath
  rw [if_pos hk, hu]

theorem pathUp_still (s : State) (key : Nat) (hl : s.linksDown = []) (hk : paPkg s.host.pkgId key = s.host.pkgId) :
    s.pathUp 0 key = true := diePath_still s key hl hk

/-- With no line pinned and no copy at work as well, no such line makes core 0 wait. -/
theorem engClear_still (s : State) (key : Nat) (mine : CopyRun → Bool) (hp : ∀ l, s.pinOf l = none) (hl : s.linksDown = [])
    (hk : paPkg s.host.pkgId key = s.host.pkgId) (hc : ∀ e ∈ s.clusters, e.2.copies = []) : s.engClear 0 key mine = true := by
  have ha : s.clusters.any (fun (_, c) => c.copies.any (fun run => !mine run && run.owns s key)) = false := by
    rw [List.any_eq_false]
    intro e he
    obtain ⟨k, c⟩ := e
    dsimp only
    rw [show c.copies = [] from hc _ he]
    exact Bool.false_ne_true
  unfold State.engClear
  rw [hp, pathUp_still s key hl hk, ha]
  rfl

/-- A state in which nothing keeps the tinker, or an engine of cluster 0, from a line: every link is up, nothing migrates, no
line is pinned, no copy is at work, and no write waits at its home. -/
def still (s : State) : Prop :=
  s.linksDown = [] ∧ s.host.mig = none ∧ s.host.pkgId = 0 ∧ (∀ l, s.pinOf l = none) ∧ (∀ e ∈ s.clusters, e.2.copies = []) ∧ s.homeQ = []

/-- There the walk of an address of the mapped pages and the page itself are in reach. -/
theorem vaPath_mapped (s : State) (r : Region) (va : Nat) (hs : still s) (hr : r.field 11 = 0x100000) (h : tablesStand s)
    (hv : va < 2 ^ 30) : s.vaPath r 0 va = true := by
  obtain ⟨hl, hm, hk, -, -, -⟩ := hs
  have hp : ∀ k, k < 2 ^ 43 → s.diePath 0 k = true := by
    intro k hk'
    refine diePath_still s k hl ?_
    rw [hk]
    unfold paPkg
    rw [if_neg (by omega)]
    omega
  have hf : ∀ k, s.fwd k = k := fwd_still s hm
  obtain ⟨h1, h2, h3⟩ := h
  have e1 : va / 2 ^ 48 % 2 ^ 9 = 0 := by omega
  have e2 : va / 2 ^ 39 % 2 ^ 9 = 0 := by omega
  have e3 : va / 2 ^ 30 % 2 ^ 9 = 0 := by omega
  unfold State.vaPath State.walkPath
  rw [translate_mapped s r 0 va false hr ⟨h1, h2, h3⟩ hm hv, hr]
  simp only [walkLevels, walkReads, State.dw, e1, e2, e3, Nat.mul_zero, Nat.add_zero, hf, h1]
  rw [if_neg (by decide), show ptePa (2 ^ 63 + 0x101000) = 0x101000 from by decide, h2, if_neg (by decide),
    show ptePa (2 ^ 63 + 0x102000) = 0x102000 from by decide, h3, if_pos (by decide)]
  simp only [List.all_cons, List.all_nil, hp 0x100000 (by omega), hp 0x101000 (by omega), hp 0x102000 (by omega),
    hp (0x40000000 + va) (by omega), Bool.and_true]

/-- The addresses of a range lie in it. -/
theorem vaLines_lt (va n a : Nat) (h : a ∈ vaLines va n) : a < va + n := by
  unfold vaLines at h
  split at h
  · simp at h
  · obtain ⟨i, hi, rfl⟩ := List.mem_map.mp h
    have := List.mem_range.mp hi
    omega

/-- So nothing keeps the tinker from a range of the mapped pages. -/
theorem rangeClear_mapped (s : State) (r : Region) (va n : Nat) (hs : still s) (hr : r.field 11 = 0x100000) (h : tablesStand s)
    (hv : va + n ≤ 2 ^ 30) : s.pathCut r 0 va n = none ∧ s.rangeClear r 0 va n = true := by
  have hc : s.pathCut r 0 va n = none := by
    unfold State.pathCut
    rw [List.find?_eq_none]
    intro a ha
    have := vaLines_lt va n a ha
    rw [vaPath_mapped s r a hs hr h (by omega)]
    decide
  refine ⟨hc, ?_⟩
  obtain ⟨-, hm, -, hp, hc', -⟩ := hs
  unfold State.rangeClear
  rw [hc, Option.isNone_none, Bool.true_and, List.all_eq_true]
  intro a ha
  have := vaLines_lt va n a ha
  rw [translate_mapped s r 0 a false hr h hm (by omega)]
  dsimp only
  have ho : s.engineOwns (s.fwd (0x40000000 + a)) = false := by
    unfold State.engineOwns
    rw [List.any_eq_false]
    intro e he
    obtain ⟨k, c⟩ := e
    dsimp only
    rw [show c.copies = [] from hc' _ he]
    exact Bool.false_ne_true
  unfold State.tinkerClear State.isPinned
  rw [hp, ho]
  rfl

/-- Such an image can be read, holds no poison, and is valid for region 0, in short mode. -/
theorem image_of_zeros (s : State) (r : Region) (va : Nat) (hr : r.field 11 = 0x100000) (hid : r.id = 0) (h : tablesStand s)
    (hm : s.host.mig = none) (hq : s.homeQ = []) (hp : s.poison = []) (hz : ∀ e ∈ s.mem, e.1 < 0x40000000)
    (hv : va + imageBytes ≤ 2 ^ 30) :
    imgFault s r 0 va imageBytes = none ∧ imageValid s r 0 va = true ∧ imgLong s r 0 va = false := by
  have hi : ∀ o, o + 8 ≤ imageBytes → imgAt s r 0 va o = 0 := by
    intro o ho
    unfold imgAt
    rw [dwVa_zero s r 0 (va + o) hr h hm hq hz (by omega)]
    rfl
  have hb : imageBytes = 53248 := by decide
  refine ⟨imgFault_mapped s r va imageBytes hr h hm hp hv, ?_, ?_⟩
  · unfold imageValid
    simp only [Bool.and_eq_true, List.all_eq_true, List.mem_range, decide_eq_true_eq]
    refine ⟨⟨?_, fun k hk => ?_⟩, fun j hj => ?_⟩
    · rw [hi 8 (by omega), hid]
    · rw [hi _ (by omega)]
      decide
    · rw [hi _ (by omega)]
      exact Nat.zero_and _
  · unfold imgLong
    rw [hi 32 (by omega)]
    rfl

/-- Core 0 is placed in region 0, whose tables map an image of zeros; a supervisor thread names both. -/
def loadingRegion : Region := { wordRegion with
  id := 0
  fields := Table.set wordRegion.fields 11 0x100000
  teams := [(0, { Team.fresh with st := .placed, saved := [⟨0, Core.fresh, [], [], [], []⟩] })] }
def loading : State :=
  (((mapped leafW (sup [(1, 0x3000)])).setThread 0 1 Thread.fresh).setCore 0 { Core.fresh with region := some 0 }).setRegion 0 loadingRegion

/-- Core 0 is being saved: its team is away, its image's page is mapped, the supervisor's p1 names both. -/
def saving : State := (mapped leafW (sup [(1, 0x3000)])).modCore 0 (fun c => { c with away := true })
def savingRegion : Region := { wordRegion with fields := Table.set wordRegion.fields 11 0x100000 }

theorem witness_RecordThawPagerAndContextInstructions :
    (let s := base [(1, 0), (2, 15), (3, 0x4000000000000000)]
     (s.operand 2).toNat / 2 ^ 32 % 2 ^ 29 = 0 ∧ (s.operand 2).toNat % 2 ^ 32 = 15 ∧ (s.operand 3).toNat / 2 ^ 61 % 2 = 0 ∧
       Issues (.frecrd 4 2 7) s ∧ Issues (.frecrd 4 3 0) s) ∧
    (let s := (base [(1, 0x300000000), (2, 0x10003), (3, 0x10002), (4, 0x8000000000000000)]).modCore 0 (fun c => { c with queues := [(3, ⟨4, true, true, []⟩)] })
     (s.operand 1).toNat < 2 ^ 34 ∧ thawCore (s.operand 1) = 0 ∧ coordOk 0 = true ∧ (s.core 0).region = some s.rid ∧
       ((s.core 0).queue? 3).isSome = true ∧ Issues (.qthaw 1) s ∧ (s.operand 4).toNat / 2 ^ 34 = 2 ^ 29 ∧
       (s.operand 4).toNat / 2 ^ 26 % 2 ^ 8 = 0 ∧ thawCore (s.operand 4) = 0 ∧ Issues (.qthaw 4) s ∧
       (s.operand 2).toNat / 4 % 2 ^ 14 = 0 ∧ (s.operand 3).toNat % 4 = 2 ∧ 1 ≤ (s.operand 3).toNat / 2 ^ 16 ∧
       (s.regionOf 0).map (fun r => (r.pagers.any (pagesMeet 1 1), r.pagers.length)) = some (false, 0) ∧
       (s.myCore.queue? ((s.operand 2).toNat % 4)).isSome = true ∧ Issues (.pgreg 2 3) s) ∧
    (let s := (base [(1, 0x20000), (2, 0x50000)]).modRegion 1 (fun r => { r with pagers := [⟨0, 1, 2, 1, true, false, 0⟩] })
     (s.operand 1).toNat % 65536 = 0 ∧ (s.operand 2).toNat % 65536 = 0 ∧
       (s.regionOf 0).map (fun r => r.pagers.any (fun p => p.cid = 0 && p.slot = 1 && p.base ≤ 2 && 2 < p.base + p.pages))
         = some true ∧ Issues (.pgfill 1 2) s) ∧
    Issues .eret (sup regs0) ∧
    (let s := loading
     s.regionOf 0 = some loadingRegion ∧ (s.operand 1).toNat / 16 % 2 ^ 8 = 0 ∧ ctxCore s.myCl (s.operand 1) = 0 ∧ (∀ k, k < 16 → (s.thread 0 k).state = .empty) ∧
       imgFault s loadingRegion 0 (ctxVa (s.operand 1)) imageBytes = none ∧ imageValid s loadingRegion 0 (ctxVa (s.operand 1)) = true ∧
       imgLong s loadingRegion 0 (ctxVa (s.operand 1)) = false ∧
       ((s.team? 0 (s.core 0).team).map (·.saved)).bind (fun l => l.find? (fun y => y.cid = 0)) = some ⟨0, Core.fresh, [], [], [], []⟩ ∧
       Issues (.ctxload 1) s) ∧
    (∃ r s1, saving.regionOf 0 = some r ∧ saving.bun.slot < 16 ∧ (saving.operand 1).toNat / 16 % 2 ^ 8 = 0 ∧
       (saving.core 0).away = true ∧ saving.drained 0 = true ∧ saving.settled 1 0 [0] = true ∧ r.id = 1 ∧ writeDwFn saving r 0 (ctxVa (saving.operand 1))
         (imageWord r { saving.savedCore 0 with
           banks := ((((saving.team? r.id (saving.core 0).team).bind (fun t => t.saved.find? (fun y => y.cid = 0))).map
             (·.banks)).getD []) }) (imageBytes / 8) = some s1 ∧ Issues (.ctxsave 1) saving) := by
  refine ⟨?_, ?_, ?_, ?_, ?_, ?_⟩
  · decide
  · decide
  · decide
  · decide
  · obtain ⟨h1, h2, h3⟩ := image_of_zeros loading loadingRegion 0x3000 rfl rfl ⟨by decide, by decide, by decide⟩ rfl rfl rfl
      (by decide) (by decide)
    exact ⟨by decide, by decide, by decide, by decide, h1, h2, h3, by decide, by decide⟩
  · have ha : (saving.core 0).away = true := by decide
    have hd : saving.drained 0 = true := by decide
    have hi : Issues (.ctxsave 1) saving := by decide
    obtain ⟨t, ht, -⟩ := writeDwFn_mapped (imageWord savingRegion { saving.savedCore 0 with
      banks := ((((saving.team? savingRegion.id (saving.core 0).team).bind (fun t => t.saved.find? (fun y => y.cid = 0))).map
        (·.banks)).getD []) }) (imageBytes / 8) (by decide) saving savingRegion rfl ⟨by decide, by decide, by decide⟩ rfl
    exact ⟨savingRegion, t, rfl, by decide, by decide, ha, hd, by decide, rfl, ht, hi⟩

/-- One request, of number 9, in the port. -/
def req1 (op : MemOp) (sp : Space) (cl : Nat) (p : Piece) : Req := { (base regs0).newReq op ⟨sp, cl, 64, 64⟩ 3 [p] with id := 9 }
def port (r : Req) (s : State) : State := { s with reqs := [r], nextId := 10 }

/-- Eight bytes of the first page, and eight of scratch. -/
def pieceG : Piece := ⟨64, 0x40000040, 8, 5, 0, false⟩
def pieceS (cl : Nat) : Piece := ⟨64, scratchKey cl 64, 8, 5, 0, false⟩

theorem witness_PortRequestsAreSentAnsweredAndRefused :
    (let r := { req1 .store .global 0 pieceG with buffered := true, stage := .unsent, cls := some .st }
     (port r (base regs0)).req? 9 = some r ∧ (port r (base regs0)).oldestUnsent 0 = some r) ∧
    (let r := { req1 .lds .remote 1 (pieceS 1) with stage := .refused 100 }
     r.scratchy = true ∧ r.op.isSync = true ∧ 100 ≤ (port r (base regs0)).cyc) ∧
    (let r := { req1 .store .global 0 pieceG with stage := .refused 100 }
     r.scratchy = false ∧ r.afTag = none) ∧
    (let r := { req1 (.rst 1) .remote 1 (pieceS 1) with stage := .refused 100, seqn := some 0, dest := 1 }
     let s := (port r (base regs0)).modCore 0 (fun c => { c with streamTab := [⟨1, 1, 1, 1, true⟩] })
     r.isOpenStore s = true ∧ s.displacedKind r = true) ∧
    (let r := { req1 (.atomic 10 false false 0) .global 0 pieceG with stage := .refused 100, afTag := some (1, 0) }
     r.afTag.isSome = true ∧ (port r (base regs0)).req? 9 = some r) ∧
    (let r := { req1 .store .global 0 pieceG with buffered := true, stage := .sent }
     r.stage = .sent ∧ r.buffered = true) ∧
    (let r := { req1 (.load false) .global 0 pieceG with dst := some 4, stage := .served }
     r.op.isLoad = true ∧ r.op.late = true ∧ r.dropped = false ∧ r.vdst = none) ∧
    (let r := { req1 .store .global 0 pieceG with stage := .served }
     r.op.late = false ∧ r.op.isRst = none ∧ r.nulled = false) ∧
    (let r := { req1 .store .global 0 pieceG with stage := .bounced 9 0 }
     r.pieces.find? (fun p => !p.done) = some pieceG) := by decide

/-- A load of number 9 whose page walk is under way. -/
def walker : Req := { req1 (.load false) .global 0 pieceG with dst := some 4, stage := .walking, cls := some .ld }

/-- Region 1 has a pager in slot 2 of core 0, whose queue s24 is this, and an upcall of page 3 that waits. -/
def upcalled (q : QReg) : State :=
  ((base regs0).modRegion 1 (fun r => { r with
    pagers := [⟨0, 2, 3, 1, true, false, 0⟩]
    upcalls := [⟨3, 4, false⟩] })).modCore 0 (fun c => { c with queues := [(0, q)] })

theorem witness_PageWalksEndAndThreadsWake :
    (let s := port walker (mapped leafW (base regs0))
     ∃ g, s.req? 9 = some walker ∧ walker.stage = .walking ∧ s.region? walker.rid = some g ∧ walker.op.isLoad = true ∧
       walker.afTag = none ∧ (∃ ps nc used, xlate walker.rid (fun va => s.translate g (dieOf walker.cid) va walker.op.needsW false)
         walker.pieces = .ok ps nc used) ∧ s.walkDown g walker = none ∧ s.walkClear g walker = true) ∧
    (let s := port walker (base regs0)
     ∃ g, s.region? walker.rid = some g ∧ s.liveReq walker = true ∧ s.walkDown g walker = none ∧ s.walkClear g walker = true ∧
       xlate walker.rid (fun va => s.translate g (dieOf walker.cid) va walker.op.needsW false) walker.pieces = .missing 64) ∧
    (let s := (base regs0).modThread 0 1 (fun t => { t with state := .dropped, woken := true })
     (s.thread 0 1).state = .dropped ∧ (s.thread 0 1).woken = true) ∧
    (let s := upcalled ⟨4, false, false, []⟩
     ∃ r, s.region? 1 = some r ∧ r.upcalls = [⟨3, 4, false⟩] ∧ r.pagerFor (3 * 65536) = some ⟨0, 2, 3, 1, true, false, 0⟩ ∧
       (s.core 0).region = some 1 ∧ (s.core 0).queues = [(0, ⟨4, false, false, []⟩)] ∧ s.queueRoom 0 0 = true) := by
  refine ⟨⟨_, by decide, by decide, rfl, by decide, by decide, ⟨_, _, _, rfl⟩, by decide, by decide⟩,
    ⟨_, rfl, by decide, by decide, by decide, by decide⟩, by decide,
    ⟨_, rfl, by decide, by decide, by decide, by decide, by decide⟩⟩

theorem witness_AccessesArePerformedOnExactlyTheirBytes :
    (∀ op ∈ [MemOp.store, .load true, .atomic 9 true true 0],
      (port (req1 op .global 0 pieceG) (base regs0)).wfMem ∧
      (port (req1 op .global 0 pieceG) (base regs0)).req? 9 = some (req1 op .global 0 pieceG) ∧
      canSlice (port (req1 op .global 0 pieceG) (base regs0)) 9 0 = true ∧
      (port (req1 op .global 0 pieceG) (base regs0)).pathUp 0 0x40000040 = true ∧
      (port (req1 op .global 0 pieceG) (base regs0)).fwd 0x40000040 = 0x40000040 ∧
      (port (req1 op .global 0 pieceG) (base regs0)).pinOf (lineOf 0x40000040) = none ∧
      (port (req1 op .global 0 pieceG) (base regs0)).grantOf (lineOf 0x40000040) = none ∧
      (port (req1 op .global 0 pieceG) (base regs0)).coverOf (req1 op .global 0 pieceG) pieceG = .none ∧
      (port (req1 op .global 0 pieceG) (base regs0)).poisoned 0x40000040 8 = none) ∧
    (∀ op ∈ [MemOp.store, .load false],
      (port (req1 op .scratch 0 (pieceS 0)) (base regs0)).req? 9 = some (req1 op .scratch 0 (pieceS 0)) ∧
      ((base regs0).bank (bankKey 0 0)).park = [] ∧
      (port (req1 op .scratch 0 (pieceS 0)) (base regs0)).bankTakes (req1 op .scratch 0 (pieceS 0)) (bankKey 0 0) = true ∧
      (base regs0).bankHeld 1 0 (bankOfSa 64) = true ∧ bankKey 0 0 = bankKey 0 (bankOfSa 64) ∧
      (port (req1 op .scratch 0 (pieceS 0)) (base regs0)).clustersLinked 0 0 = true ∧
      (port (req1 op .scratch 0 (pieceS 0)) (base regs0)).coverOf (req1 op .scratch 0 (pieceS 0)) (pieceS 0) = .none ∧
      (port (req1 op .scratch 0 (pieceS 0)) (base regs0)).poisoned (scratchKey 0 64) 8 = none) := by
  refine ⟨?_, ?_⟩ <;> decide

/-- A store of number n of stream 1 at bank 0, whose pair expects number 3. -/
def streamReq (n : Nat) : Req := { req1 (.rst 1) .scratch 0 (pieceS 0) with seqn := some n, dest := 0 }
def streamPort (n : Nat) : State := { port (streamReq n) (base regs0) with commits := [⟨0, 0, 1, 3, []⟩] }

/-- A line granted to core 0 in a cache bank, for which a store of core 1 waits. -/
def recalled : Req := { req1 .store .global 0 ⟨64, 0x40000040, 8, 5, 0, false⟩ with cid := 1, stage := .recall }
def recallPort : State :=
  (port recalled (base regs0)).setBank 32 { Bank.fresh .cache with lines := [⟨lineOf 0x40000040, some 0, 0⟩] }

/-- A `PGFILL` that declines page 2, which its thread serves. -/
def declines : Req := req1 (.pgfill 0) .none 0 ⟨2 * 65536, 0, 0, 0, 0, false⟩
def declinePort : State := port declines ((base regs0).modRegion 1 (fun r => { r with pagers := [⟨0, 1, 2, 1, true, false, 0⟩] }))

/-- A held `AFADD` on its way to its slice, and a read of a bank whose team is displaced. -/
def heldAfadd : Req := { req1 (.atomic 10 false false 0) .global 0 ⟨64, 0x40000040, 4, 5, 0, false⟩ with afTag := some (1, 0) }
def readAway : State :=
  port (req1 (.load false) .scratch 0 (pieceS 0)) ((base regs0).modRegion 1 (fun r => { r with
    teams := [(0, { Team.fresh with
      st := .displaced
      saved := [⟨0, Core.fresh, [], [(bankKey 0 0, Bank.fresh .home)], [], []⟩] })] }))

theorem witness_StreamStoresHeldAtomicsAndRecalls :
    (∀ n ∈ [3, 4], (streamPort n).wfMem ∧ (streamPort n).req? 9 = some (streamReq n) ∧ canStream (streamPort n) 9 = true ∧
      (streamPort n).commit? 0 0 1 = some ⟨0, 0, 1, 3, []⟩ ∧ (streamReq n).scratchy = true ∧
      (streamPort n).displacedOwner 1 0 (bankOfSa 64) = none ∧ (streamPort n).bankHeld 1 0 (bankOfSa 64) = true ∧
      (streamPort n).clustersLinked 0 0 = true) ∧
    ({ base regs0 with closeFlits := [(0, 1, 1)] } : State).closeFlits[0]? = some (0, 1, 1) ∧
    ((port heldAfadd (base regs0)).req? 9 = some heldAfadd ∧ canAfadd (port heldAfadd (base regs0)) 9 = true ∧
      (let s := port heldAfadd (base regs0)
       (s.region? 1).map (fun g => g.live && !g.stopDue) = some true ∧ s.pathUp 0 (s.fwd 0x40000040) = true ∧
         s.pinnedFrom heldAfadd ⟨64, 0x40000040, 4, 5, 0, false⟩ (lineOf (s.fwd 0x40000040)) = false ∧
         (s.slice (s.sliceOf (s.fwd 0x40000040))).held.length < 16384)) ∧
    (readAway.req? 9 = some (req1 (.load false) .scratch 0 (pieceS 0)) ∧ canDisplaced readAway 9 = true ∧
      (MemOp.load false).writes = false ∧ readAway.clustersLinked 0 0 = true) ∧
    (recallPort.recalls (lineOf 0x40000040) = [recalled] ∧
      (let s1 := (recallPort.returnGrant (lineOf 0x40000040)).setReq { recalled with stage := .sent }
       s1.orderOk { recalled with stage := .sent } pieceG = true ∧ s1.lineReady { recalled with stage := .sent } pieceG = true ∧
         s1.fwd 0x40000040 = 0x40000040)) ∧
    (declinePort.req? 9 = some declines ∧ declinePort.fillClear 1 0 2 0 = true ∧ declinePort.orderOk declines ⟨2 * 65536, 0, 0, 0, 0, false⟩ = true ∧
      (declinePort.region? 1).map (fun g => g.pagers.find? (fun q => q.cid = 0 && q.slot = 1 && q.base ≤ 2 && 2 < q.base + q.pages))
        = some (some ⟨0, 1, 2, 1, true, false, 0⟩) ∧
      ((declinePort.fillPage 1 0 2 0 true false).req? 9).isSome = true) := by
  refine ⟨?_, ?_, ?_, ?_, ?_, ?_⟩ <;> decide

/-- The words of a copy between two scratch places: code, the element counts, source and destination address. -/
def copyWords (code w3 src dst : Nat) : List Word :=
  [wrap64 (code * 2 ^ 56 + 63 * 2 ^ 42), wrap64 (2 ^ 62 + src), wrap64 (2 ^ 62 + dst), wrap64 w3]

/-- One copy at the head of the carter queue of cluster 0. -/
def copyQueued (code w3 src dst : Nat) : State :=
  (base regs0).modCluster 0 (fun k => { k with copyQ := [cmdOf (copyWords code w3 src dst)] })

/-- A copy of four bytes of scratch of which three have landed. -/
def lastByte : CopyRun := ⟨cmdOf (copyWords 1 4 0x100 0x20000), 3, 4, [], none, 0⟩
def lastByteS : State := (base regs0).modCluster 0 (fun k => { k with copies := [lastByte] })

/-- The premises of a copy's begin, beside how its checks end. -/
def copyBegins (code w3 src dst : Nat) : Prop :=
  let s := copyQueued code w3 src dst
  let c := cmdOf (copyWords code w3 src dst)
  (s.cluster 0).nextCopy s = some c ∧ (s.cluster 0).copies.length < 8 ∧ c.cl = 0 ∧ copyReadable s c = true ∧
    (∀ r ∈ (s.cluster 0).copies, r.cmd.id ≠ c.id) ∧ c.code = code

/-- How the checks of that copy end, and its poisoned index word. -/
def copyChecks (code w3 src dst : Nat) : Check × Option Nat :=
  let s := copyQueued code w3 src dst
  let c := cmdOf (copyWords code w3 src dst)
  let s0 := (s.modCluster 0 (fun x => { x with copyQ := x.copyQ.filter (fun y => y.id ≠ c.id) })).tallyStart c
  let run : CopyRun := ⟨c, 0, c.geom.total * (c.targets s.host.pkgId).length, c.readIdx s, none, s0.nextId⟩
  let s1 := ({ s0 with nextId := s0.nextId + 1 } : State).modCluster 0 (fun x => { x with copies := x.copies ++ [run] })
  (copyCheck s1 c run.idx, idxPoison s1 c)

/-- Two elements of each of the five copies. -/
def w3Of (code : Nat) : Nat :=
  if code = 2 then 2 ^ 52 + 2 * 2 ^ 36 else if code = 3 ∨ code = 4 then 1 + 2 * 2 ^ 25 + 0x400 * 2 ^ 41
  else if code = 5 then 2 + 2 ^ 40 + 2 ^ 44 else 2

theorem witness_CopiesBeginLandAndReport :
    ((∀ n ∈ [1, 2, 3, 4, 5], copyBegins n (w3Of n) 0x100 0x20000 ∧ (cmdOf (copyWords n (w3Of n) 0x100 0x20000)).geom.total = 2) ∧
     (∀ n ∈ [1, 2, 3, 4, 5], copyChecks n (w3Of n) 0x100 0x20000 = (.pass, none)) ∧
     (∀ n ∈ [1, 2, 3, 4, 5], copyChecks n (w3Of n) 0x1FFFF 0x20000 = (.bad 4 0x1FFFF, none)) ∧
     (copyBegins 1 0 0x100 0x20000 ∧ (cmdOf (copyWords 1 0 0x100 0x20000)).geom.total = 0)) ∧
    (let s := lastByteS
     let c := lastByte.cmd
     s.wfMem ∧ (s.cluster 0).copies = [lastByte] ∧ c.cl = 0 ∧ c.code ≠ 5 ∧ (c.ends s.host.pkgId 0).1.p.space = 1 ∧
       (c.ends s.host.pkgId 0).2.p.space = 1 ∧ c.geom.total = 4 ∧
       converts (c.ends s.host.pkgId 0).1 (c.ends s.host.pkgId 0).2 = false ∧ c.setFull = false ∧ c.point = none ∧
       copyReadable s c = true ∧ s.displacedFor c 0 (bankOfSa 0x20003) = none ∧ s.poisoned (scratchKey 0 0x103) 1 = none) ∧
    (let s := (base regs0).modCluster 0 (fun k => { k with ready := [cmdOf []] })
     (s.cluster 0).ready = [cmdOf []] ∧ (s.cluster 0).mxQ.length + (s.cluster 0).ready.length ≤ 16 ∧
       (s.cluster 0).copyQ.length + (s.cluster 0).copyBack.length ≤ 32 ∧
       (s.cluster 0).tkQ.length + (s.cluster 0).tkBack.length ≤ 16) ∧
    (let s : State := { base regs0 with reports := [⟨5, 8⟩], tallies := [⟨cmdOf [], 0, false, 0, 0, 1, false⟩] }
     s.reports[0]? = some ⟨5, 8⟩ ∧ (cmdOf []).id = 5) ∧
    (let s := (base regs0).modCore 0 (fun c => { c with compWait := [⟨5, 1, 0, false, 7, []⟩] })
     (s.core 0).compWait = [⟨5, 1, 0, false, 7, []⟩] ∧ (s.core 0).comp.length < 64) := by
  unfold copyBegins
  refine ⟨⟨?_, ?_, ?_, ?_⟩, ?_, ?_, ?_, ?_⟩ <;> decide

/-- A matrix command whose bank of A holds elements of format f; the stack holds f as well. -/
def mxCmd (f : Nat) (words : List Word) : Cmd := { cmdOf words with fmts := [(bankKey 0 0, wrap64 f)] }

/-- It waits in the queue of cluster 0, or executes, due. -/
def mxQueued (f : Nat) (c : Cmd) : State :=
  (base regs0).modCluster 0 (fun k => { k with mxQ := [c], sf := [wrap64 (f * 2 ^ 60)] })
def mxRunning (f : Nat) (c : Cmd) : State :=
  (base regs0).modCluster 0 (fun k => { k with mxRun := some ⟨c, 0, 50⟩, sf := [wrap64 (f * 2 ^ 60)] })

/-- One row: one step of a multiplication (0x11 dense, 0x12 keeping 4 of 12), a drain (0x13), a zeroing (0x14). -/
def rowWords (code : Nat) : List Word :=
  [wrap64 (code * 2 ^ 56 + 63 * 2 ^ 42), wrap64 (2 ^ 55 + (if code = 0x12 then 4 * 2 ^ 32 else 0) + (if code ≤ 0x12 then 2 ^ 16 else 0)), 0]

/-- Nothing keeps such a command from the lines of its operand B. -/
theorem mxRunning_clear (f : Nat) (hf : f ∈ [2, 5]) : let c := mxCmd f (rowWords 0x11)
    (mxRunning f c).bClear c ((mxRunning f c).mx c) 0 = true := by
  intro c
  have hk : (((mxRunning f c).mx c).bLines (stackBase (mxRunning f c).host.pkgId c.cl) 0).all (fun k => decide (paPkg 0 k = 0)) = true := by
    revert hf; revert f; decide +kernel
  unfold State.bClear
  rw [List.all_eq_true] at hk ⊢
  intro k hm
  have hu : (mxRunning f c).pathUp c.cid k = true := pathUp_still _ k rfl (of_decide_eq_true (hk k hm))
  rw [hu]
  rfl

theorem witness_MatrixCommandsRunByTheirSteps :
    (∀ n ∈ [0x11, 0x12],
      (let s := mxQueued 5 (mxCmd 5 (rowWords n))
       let c := mxCmd 5 (rowWords n)
       (s.cluster 0).mxRun = none ∧ (s.cluster 0).nextMx s = some c ∧ c.cl = 0 ∧ s.copyPosted c = true ∧ c.code = n ∧ mxFmtOk (s.mx c) = true ∧
         c.step < (s.mx c).nk) ∧
      (let s := mxQueued 5 (mxCmd 2 (rowWords n))
       mxFmtOk (s.mx (mxCmd 2 (rowWords n))) = false ∧ (mxCmd 2 (rowWords n)).stopped = false)) ∧
    (∀ f ∈ [2, 5],
      let s := mxRunning f (mxCmd f (rowWords 0x11))
      let c := mxCmd f (rowWords 0x11)
      (s.cluster 0).mxRun = some ⟨c, 0, 50⟩ ∧ 50 ≤ s.cyc ∧ isMma c = true ∧ c.cl = 0 ∧
        Table.canon 0 (s.cluster 0).acc = true ∧ s.displacedFor c 0 (bankOfSa (s.mx c).aAddr) = none ∧
        s.stepCheck c (s.mx c) 0 = .pass ∧ intFmt (s.mx c).fa = decide (f = 5)) ∧
    (let s := mxRunning 0 (mxCmd 0 (rowWords 0x13))
     let c := mxCmd 0 (rowWords 0x13)
     s.wfMem ∧ (s.cluster 0).mxRun = some ⟨c, 0, 50⟩ ∧ c.code = 0x13 ∧ c.fmtA = 0 ∧ c.cl = 0 ∧ ∀ b, s.displacedFor c 0 b = none) ∧
    (let s := mxRunning 0 (mxCmd 0 (rowWords 0x14))
     let c := mxCmd 0 (rowWords 0x14)
     (s.cluster 0).mxRun = some ⟨c, 0, 50⟩ ∧ c.code = 0x14 ∧ Table.canon 0 (s.cluster 0).acc = true) := by
  refine ⟨?_, ?_, ⟨by decide, by decide, by decide, by decide, by decide, fun b => ?_⟩, ?_⟩
  · decide
  · decide
  · rfl
  · decide

/-- `MXSAVE` or `MXLOAD` of the area at a VA, queued; its pages are mapped. -/
def areaCmd (load : Bool) (va : Nat) : Cmd := { cmdOf [] with area := some (load, va) }
def areaQueued (load : Bool) (va : Nat) : State :=
  (mapped leafW (base regs0)).modCluster 0 (fun k => { k with mxQ := [areaCmd load va] })

/-- Region 1 with the tables of `mapped`. -/
def mappedRegion : Region := { wordRegion with fields := Table.set wordRegion.fields 11 0x100000 }

/-- A write of an area's line changes memory there, and nothing of the host's. -/
theorem lineWrite_home (s : State) (cid key n v : Nat) :
    (s.lineWrite cid false key n v).mem = memWrite s.mem key v n ∧ (s.lineWrite cid false key n v).host = s.host := by
  unfold State.lineWrite
  obtain ⟨b, k, h⟩ := State.linesOnly_trans (s.invalidate_lines (lineOf key) (s.l1Bank cid (lineOf key)))
    (State.otherAccess_lines _ (lineOf key) cid)
  dsimp only
  rw [h]
  exact ⟨rfl, rfl⟩

/-- An area in the mapped pages is written whole. -/
theorem saveArea_mapped (r : Region) (hr : r.field 11 = 0x100000) (c : Cmd) (va n : Nat) : ∀ (j : Nat) (s : State),
    va + 128 * (j + n) ≤ 2 ^ 30 → tablesStand s → s.host.mig = none →
    ∃ s1, saveArea r c va n j s = (s1, none) := by
  induction n with
  | zero => exact fun j s _ _ _ => ⟨s, rfl⟩
  | succ n ih =>
    intro j s hv h hm
    have hf : s.fwd (0x40000000 + (va + 128 * j)) = 0x40000000 + (va + 128 * j) := by unfold State.fwd; rw [hm]
    rw [saveArea, translate_mapped s r _ _ true hr h hm (by omega)]
    dsimp only
    rw [hf]
    obtain ⟨b, k, hg⟩ := s.returnGrant_lines (lineOf (0x40000000 + (va + 128 * j)))
    rw [hg]
    have hw := lineWrite_home { s with banks := b, slices := k } engineCid (0x40000000 + (va + 128 * j)) 128
      (areaLine (s.cluster c.cl) j)
    exact ih _ _ (by omega) (tablesStand_write s _ _ _ _ hw.1 (by omega) h) ((congrArg HostRegs.mig hw.2).trans hm)

/-- An area of the mapped pages that nothing has written is read as zeros. -/
theorem loadArea_mapped (s : State) (r : Region) (hr : r.field 11 = 0x100000) (c : Cmd) (va n : Nat) (h : tablesStand s)
    (hm : s.host.mig = none) (hp : s.poison = []) (hz : ∀ e ∈ s.mem, e.1 < 0x40000000) : ∀ j, va + 128 * (j + n) ≤ 2 ^ 30 →
    loadArea s r c va n j = .ok (List.replicate n 0) := by
  induction n with
  | zero => exact fun j _ => rfl
  | succ n ih =>
    intro j hv
    have hf : s.fwd (0x40000000 + (va + 128 * j)) = 0x40000000 + (va + 128 * j) := by unfold State.fwd; rw [hm]
    rw [loadArea, translate_mapped s r _ _ false hr h hm (by omega)]
    dsimp only
    rw [hf, show s.poisoned (0x40000000 + (va + 128 * j)) 128 = none from by unfold State.poisoned; rw [hp]; rfl, ih (j + 1) (by omega)]
    show Except.ok (s.read _ _ :: _) = _
    rw [show s.read (0x40000000 + (va + 128 * j)) 128 = 0 from
      memRead_zero _ _ _ (by omega) (fun e he => by have := hz e he; omega)]
    rfl

/-- So an area in the mapped pages makes nobody wait. -/
theorem areaFree_mapped (s : State) (r : Region) (c : Cmd) (va : Nat) (w : Bool) (hs : still s) (hr : r.field 11 = 0x100000)
    (h : tablesStand s) (h0 : c.cid = 0) (hv : va + areaBytes ≤ 2 ^ 30) : areaFree s r c va w = true := by
  have hd : dieOf c.cid = 0 := by rw [h0]; rfl
  unfold areaFree
  rw [hd, (rangeClear_mapped s r va areaBytes hs hr h hv).1, Option.isNone_none, Bool.and_true, List.all_eq_true]
  obtain ⟨hl, hm, hk, hp, hc, -⟩ := hs
  intro j hj
  have hj' := List.mem_range.mp hj
  have hb : areaBytes % 128 = 0 := by decide
  rw [translate_mapped s r _ _ w hr h hm (by omega)]
  dsimp only
  rw [fwd_still s hm, h0]
  refine engClear_still s _ _ hp hl ?_ hc
  rw [hk]
  unfold paPkg
  rw [if_neg (by omega)]
  omega

/-- The reads of an area leave the region and the memory as they are. -/
theorem areaSeen_lines (s : State) (r : Region) (c : Cmd) (va : Nat) : s.linesOnly (s.areaSeen r c va) := by
  refine State.linesOnly_foldl _ (fun s j => ?_) _ _
  split
  · exact s.engSees_lines _
  · exact s.linesOnly_refl

/-- An entry of the tick queue of cluster 0, and that entry in execution, due. -/
def tkEntry (op : TkOp) : TkEntry := ⟨5, 0, 0, 1, 1, 0x10000, 0, 0, op⟩
def tkQueued (op : TkOp) : State := (base regs0).modCluster 0 (fun k => { k with tkQ := [tkEntry op] })
def tkRunning (op : TkOp) : State := (base regs0).modCluster 0 (fun k => { k with tkRun := some (tkEntry op, 50) })

/-- Memory of `areaQueued` lies below its pages. -/
theorem areaQueued_below : ∀ e ∈ (areaQueued true 0x3000).mem, e.1 < 0x40000000 := by decide

theorem witness_SaveAreasAndTickEntriesArePerformed :
    (∀ va ∈ [0x3000, 0x3001], ∀ load ∈ [true, false],
      let s := areaQueued load va
      let c := areaCmd load va
      (s.cluster 0).mxRun = none ∧ (s.cluster 0).nextMx s = some c ∧ c.cl = 0 ∧ s.areaRegion c = some mappedRegion ∧
        s.copyPosted c = true) ∧
    (∀ load, areaFree (areaQueued load 0x3000) mappedRegion (areaCmd load 0x3000) 0x3000 (!load) = true) ∧
    (∃ s1, saveArea mappedRegion (areaCmd false 0x3000) 0x3000 (areaBytes / 128) 0
      ((areaQueued false 0x3000).takeMx 0 (areaCmd false 0x3000)) = (s1, none)) ∧
    (∃ lines s1, s1 = ((areaQueued true 0x3000).takeMx 0 (areaCmd true 0x3000)).areaSeen mappedRegion (areaCmd true 0x3000) 0x3000 ∧
      s1.areaRegion (areaCmd true 0x3000) = some mappedRegion ∧
      loadArea s1 mappedRegion (areaCmd true 0x3000) 0x3000 (areaBytes / 128) 0 = .ok lines ∧
      areaValid s1 (areaCmd true 0x3000) lines = true) ∧
    (let s := tkRunning (.note 7)
     (s.cluster 0).tkRun = some (tkEntry (.note 7), 50) ∧ 50 ≤ s.cyc ∧ clOf 0 = 0) ∧
    (∀ op ∈ [TkOp.win 5, .reset, .raced [] true, .load 0 0 1], tickFault (tkRunning op) (tkEntry op) = none) ∧
    Table.canon 255 ((tkRunning (.load 0 0 1)).cluster 0).cells = true ∧
    (∀ m ∈ [true, false],
      let s := tkQueued (.launch 0 m)
      (s.cluster 0).tkRun = none ∧ tickHead s 0 = some (tkEntry (.launch 0 m)) ∧ (s.cluster 0).win ≤ 255 ∧
        tickFault s (tkEntry (.launch 0 m)) = none) := by
  refine ⟨by decide, fun load => ?_, ?_, ?_, by decide, by decide, by decide, by decide⟩
  · refine areaFree_mapped _ mappedRegion _ _ _ ?_ rfl ?_ rfl (by decide) <;> cases load
    · exact ⟨rfl, rfl, rfl, fun l => rfl, by decide, rfl⟩
    · exact ⟨rfl, rfl, rfl, fun l => rfl, by decide, rfl⟩
    · exact ⟨by decide, by decide, by decide⟩
    · exact ⟨by decide, by decide, by decide⟩
  · exact saveArea_mapped mappedRegion rfl (areaCmd false 0x3000) 0x3000 (areaBytes / 128) 0 ((areaQueued false 0x3000).takeMx 0 (areaCmd false 0x3000)) (by decide)
      ⟨by decide, by decide, by decide⟩ rfl
  · obtain ⟨bs, sl, h⟩ := areaSeen_lines ((areaQueued true 0x3000).takeMx 0 (areaCmd true 0x3000)) mappedRegion (areaCmd true 0x3000) 0x3000
    refine ⟨List.replicate (areaBytes / 128) 0, _, rfl, ?_⟩
    have ht : tablesStand ((areaQueued true 0x3000).takeMx 0 (areaCmd true 0x3000)) := ⟨by decide, by decide, by decide⟩
    rw [h]
    refine ⟨rfl, loadArea_mapped { (areaQueued true 0x3000).takeMx 0 (areaCmd true 0x3000) with banks := bs, slices := sl } mappedRegion rfl (areaCmd true 0x3000) 0x3000 (areaBytes / 128)
      ht rfl rfl areaQueued_below _ (by decide), ?_⟩
    exact (by decide +kernel : areaValid ((areaQueued true 0x3000).takeMx 0 (areaCmd true 0x3000)) (areaCmd true 0x3000)
      (List.replicate (areaBytes / 128) 0) = true)

/-- A flit from end 2 of core 1 to an end of core 0. -/
def flitOf (kind : FlitKind) (didx seq : Nat) (payload : List Word) : Flit :=
  { kind := kind, rid := 1, slot := 1, bundle := 0x10000, icnt := 0, dst := 0, didx := didx, src := 1, sidx := 2, seq := seq,
    ts := 20, payload := payload, poisoned := false, sent := 0 }

/-- It is on its way to `eventCore`, whose ends are changed. -/
def flying (f : Flit) (out : OutEnd → OutEnd) (inn : InEnd → InEnd) : State :=
  ({ eventCore (fun c => c) regs0 with flits := [f] } : State).modCore 0 (fun c => { c with
    outEnds := [(3, out outEnd0)]
    inEnds := [(4, inn inEnd0)] })

/-- The ends of core 0 stay in order. -/
def endsSorted (s : State) : Bool := Table.sorted (s.core 0).inEnds && Table.sorted (s.core 0).outEnds

theorem witness_FlitsReachTheirEnds :
    (∀ e ∈ [(FlitKind.msg, 0), (.msg, 1), (.promise, 0)],
      let f := flitOf e.1 4 e.2 [1]
      let s := flying f id id
      s.flits[0]? = some f ∧ s.flitPath f = true ∧ endsSorted s = true ∧ s.endAt f (matchIn f) = .live 0 ∧ (s.core 0).inEnd? 4 = some inEnd0 ∧
        inEnd0.joined = true ∧ inEnd0.expect = 0 ∧ inEnd0.early = [] ∧ inEnd0.closed = false ∧ f.poisoned = false) ∧
    (let f := flitOf .msg 5 0 [1]
     let s := flying f id id
     s.flits[0]? = some f ∧ s.flitPath f = true ∧ endsSorted s = true ∧ s.endAt f (matchIn f) = .gone) ∧
    (∀ k ∈ [FlitKind.hunger, .close, .ret],
      let f := flitOf k 3 0 [1]
      let s := flying f id id
      s.flits[0]? = some f ∧ s.flitPath f = true ∧ endsSorted s = true ∧ s.endAt f (matchOut f) = .live 0 ∧
        (s.core 0).outEnd? 3 = some outEnd0) ∧
    (let f := flitOf .join 3 0 [0]
     let s := flying f (fun e => { e with joined := false }) id
     s.flits[0]? = some f ∧ s.flitPath f = true ∧ endsSorted s = true ∧ s.endAt f (matchOut f) = .live 0 ∧ f.payload ≠ [1] ∧
       (s.core 0).outEnd? 3 = some { outEnd0 with joined := false }) ∧
    (let f := flitOf .join 4 0 [1]
     let s := flying f id (fun e => { e with joined := false })
     s.flits[0]? = some f ∧ s.flitPath f = true ∧ endsSorted s = true ∧ s.endAt f (matchIn f) = .live 0 ∧
       (s.core 0).inEnd? 4 = some { inEnd0 with joined := false }) ∧
    (let f := { flitOf .dead 2 0 [1] with src := 0, sidx := 3, dst := 1 }
     let s := flying f id id
     s.flits[0]? = some f ∧ s.flitPath f = true ∧ endsSorted s = true ∧ canDead s 0 = true ∧ coordCid f.src = 0 ∧ (s.core 0).outEnd? 3 = some outEnd0 ∧
       (s.core 0).region = some f.rid ∧ outEnd0.peer = f.dst) := by
  refine ⟨?_, ?_, ?_, ?_, ?_, ?_⟩ <;> decide

/-- Core 0 of an event region with an arrival at tick 12 on its inbound end, which has a handler or not; its task stays
attached, parked in `RECV`, or not. -/
def arrived (handler : Word) (recv : Bool) : State :=
  let s := (eventCore id []).modCore 0 (fun c => { c with
    attached := recv
    inEnds := [(4, { inEnd0 with handler := handler, promise := 12, queue := [⟨12, false, 0, [7], 1, 2, false⟩] })] })
  s.modThread 0 0 (fun t => if recv then { t with state := .parked, reason := 9 } else t)

/-- A second end that has promised nothing blocks the arrival. -/
def blockedTile : State := (arrived 0x20000 false).modCore 0 (fun c => { c with
  blockedSince := some 5
  inEnds := c.inEnds ++ [(5, inEnd0)] })

/-- Region 1 of `eventCore`. -/
def eventRegion : Region := { wordRegion with kind := .event, fields := Table.set wordRegion.fields 13 16 }

/-- Core 1 of a forkjoin region with an empty deque, beside core 0 with one entry, or beside the deque with that entry which
core 0 has left. -/
def entry9 : DeqEntry := ⟨0x10010, [1], none, some 9⟩
def forkRegion (left : List (Nat × Core)) : Region :=
  { wordRegion with kind := .forkjoin, fields := Table.set wordRegion.fields 34 16, left := left }
def thief (left : Bool) : State :=
  let l := [(0, { Core.fresh with deque := [entry9] })]
  (((inKind .forkjoin []).setThread 0 1 Thread.fresh).setRegion 1 (forkRegion (if left then l else [])))
    |>.modCore 0 (fun c => { c with deque := if left then [] else [entry9] })

theorem witness_DispatchSweepsAndSteals :
    (∀ e ∈ [((0 : Word), true, Route.recv), (0x20000, false, .handler 2)],
      let s := arrived e.1 e.2.1
      (s.core 0).candidate = some (4, ⟨12, false, 0, [7], 1, 2, false⟩) ∧ ((s.core 0).inEnd? 4).isSome = true ∧
        (s.regionOf 0).map (fun r => r.field 43) = some 0 ∧ s.route 0 = e.2.2) ∧
    (∃ r, (blockedTile.core 0).region = some r.id ∧ blockedTile.region? r.id = some r ∧ r.kind = .event ∧
      blockedTile.blocked 0 = true ∧ (blockedTile.core 0).blockedSince = some 5 ∧ 5 + r.field 18 < blockedTile.cyc) ∧
    canSweep ((arrived 0 false).modRegion 1 (fun r => { r with sweepDue := true })) 1 = true ∧
    (∃ r, ((arrived 0 false).modRegion 1 (fun r => { r with sweeping := true })).region? 1 = some r ∧ r.id = 1 ∧ r.kind = .event ∧
      r.sweeping = true ∧ r.anyDisplaced = false ∧ r.live = true ∧ r.stopDue = false ∧ r.det = false ∧
      (let s := (arrived 0 false).modRegion 1 (fun r => { r with sweeping := true })
       s.afClear 1 (s.sweepResult r) = true)) ∧
    (∀ c, Table.sorted (((arrived 0 false).modRegion 1 (fun r => { r with sweeping := true })).core c).inEnds = true) ∧
    (∀ l ∈ [false, true], canSteal (thief l) 1 = true ∧ ((thief l).core 1).region = some 1 ∧
      (thief l).handlerSlot 1 false = some 1 ∧ (thief l).victim 1 1 = some (if l then .left 0 else .core 0)) ∧
    ((thief false).region? 1 = some (forkRegion []) ∧ (forkRegion []).id = 1 ∧ (forkRegion []).field 43 = 0 ∧
      ((thief false).fullDeque 0).getLast? = some entry9 ∧ ((thief false).core 0).spilled = 0 ∧
      (thief false).spillFault (forkRegion []) ((thief false).core 0) 0 = none) ∧
    (let c := { Core.fresh with deque := [entry9] }
     let r := forkRegion [(0, c)]
     (thief true).region? 1 = some r ∧ r.left[0]? = some (0, c) ∧ ((thief true).dequeAt r c).getLast? = some entry9 ∧
       (thief true).spillFault r c 0 = none) := by
  refine ⟨by decide, ⟨eventRegion, by decide⟩, by decide, ⟨{ eventRegion with sweeping := true }, by decide⟩, ?_, by decide,
    by decide, by decide⟩
  intro c
  match c with
  | 0 => decide
  | 1 => decide
  | c + 2 => rfl

/-- Region 1, live, with team 0 in a state, on cores 0 and 1 or none. -/
def team0 (st : TeamSt) (cores : List Nat) : Team := { Team.fresh with st := st, cores := cores }
def withTeam (x : Team) (f : Region → Region) (s : State) : State := s.modRegion 1 (fun r => f { r with teams := [(0, x)] })

/-- Region 1 waits to be placed; its teams take one core. -/
def waiting : State :=
  withTeam (team0 .waiting []) (fun r => { r with state := 1, fields := Table.set r.fields 15 1 }) (State.reset.setRegion 1 wordRegion)

/-- The team of core 0 has finished. -/
def finished (k : Kind) (st : TeamSt) (f : Region → Region) : State :=
  withTeam (team0 st [0]) f (((inKind k []).setThread 0 1 Thread.fresh).modCore 0 (fun c => { c with tileDone := true }))

/-- The team of core 0 has ended its round of a tournament of two entrants. -/
def lastOfRound : State := finished .tournament .placed (fun r => { r with
  roundOn := true
  fields := Table.set r.fields 29 2
  entrants := [(0, Entrant.fresh), (1, Entrant.fresh)] })

theorem witness_TeamsArePlacedRetiredAndEnded :
    (canPlace waiting 0 = true ∧ (waiting.head).isSome = true ∧
      (waiting.head).map (fun h => (waiting.region? h.1.id == some h.1, h.1.field 43, (waiting.teamCores h.1 0))) =
        some (true, 0, some [0])) ∧
    (∀ k ∈ [Kind.grid, .forkjoin], canRetire (finished k .placed id) 1 0 = true ∧ ((finished k .placed id).team? 1 0).isSome = true) ∧
    (let s := (finished .forkjoin .placed id).modCore 0 (fun c => { c with deque := [entry9] })
     canRetire s 1 0 = true ∧ (s.team? 1 0).map (·.cores) = some [0] ∧ (s.core 0).deque ≠ []) ∧
    canEnd (finished .grid .retired id) 1 = true ∧
    (let s := (base []).modRegion 1 (fun r => { r with totalHit := some (0, 1) })
     canAllowanceStop s 1 = true ∧ (s.region? 1).map (·.totalHit) = some (some (0, 1))) ∧
    (let s := (base []).modRegion 1 (fun r => { r with stopDue := true })
     canStop s 1 = true ∧ (s.stopWork 1).enginesBusy 1 = false ∧ (s.stopWork 1).writesOut 1 = false) ∧
    (canBarrier lastOfRound 1 = true ∧ (lastOfRound.region? 1).isSome = true ∧
      (lastOfRound.region? 1).map (fun r => (r.id, Table.sorted r.entrants, r.ranking.length)) = some (1, true, 2)) := by
  refine ⟨?_, ?_, ?_, ?_, ?_, ?_, ?_⟩
  · decide
  · decide
  · decide
  · decide
  · decide
  · decide +kernel
  · decide

/-- A region whose team of core 0 is displaced; its tables, at this root, map zeros from 0x4000_0000 on, or nothing. -/
def awayTeam : Team := { Team.fresh with st := .displaced, cores := [0], saved := [⟨0, Core.fresh, [], [], [], []⟩] }
def awayRegion (rid : Nat) (root : Word) : Region :=
  { wordRegion with id := rid, fields := Table.set wordRegion.fields 11 root, teams := [(0, awayTeam)] }
def displaced (rid : Nat) (root : Word) (poison : List Nat) : State :=
  let s := ((State.reset.write 0x100000 8 (2 ^ 63 + 0x101000)).write 0x101000 8 (2 ^ 63 + 0x102000)).write 0x102000 8 leafW
  { s.setRegion rid (awayRegion rid root) with poison := poison }

/-- A team of one core, whose arrays and banks nobody saved, can be restored where its image and its points can be read. -/
theorem restoreFault_clear (s : State) (r : Region) (n : Nat) (t : Team) (sv : SavedCore) (hs : t.saved = [sv])
    (hb : sv.banks = []) (hl : t.log = []) (ha : r.arrayTeam t.cl = none) (h1 : imgFault s r (dieOf sv.cid) (r.ctx + n * r.imageSize + 0 * 0x4F000) imageBytes = none)
    (h2 : imgFault s r (t.cl / 144) (r.partsVa n + 0x210000) 0x1000 = none) : s.restoreFault r n t = none := by
  have hc : (([sv] : List SavedCore).zipIdx).findSome? (fun (sv, i) =>
      imgFault s r (dieOf sv.cid) (r.ctx + n * r.imageSize + i * 0x4F000) imageBytes) = none := by
    rw [List.zipIdx_cons, List.zipIdx_nil, List.findSome?_cons, List.findSome?_nil]
    dsimp only
    rw [h1]
  have hk : (([sv] : List SavedCore).zipIdx).findSome? (fun (sv, i) => sv.banks.findSome? (fun (k, _) =>
      (imgMissing s r (dieOf sv.cid) (r.bankVa n i (k % 64)) bankImageBytes).orElse (fun _ =>
        imgFault s r (dieOf sv.cid) (r.bankVa n i (k % 64) + 0x20000) 0x908))) = none := by
    rw [List.zipIdx_cons, List.zipIdx_nil, List.findSome?_cons, List.findSome?_nil]
    dsimp only
    rw [hb, List.findSome?_nil]
  unfold State.restoreFault
  rw [hs, ha, hl, hc]
  dsimp only at hk ⊢
  rw [hk, h2]
  rfl

/-- Where the tables map zeros, the images can be read; they are those of region 0. -/
theorem displaced_images (rid : Nat) : (displaced rid 0x100000 []).restoreFault (awayRegion rid 0x100000) 0 awayTeam = none ∧
    imageValid (displaced rid 0x100000 []) (awayRegion rid 0x100000) 0 (awayRegion rid 0x100000).ctx = decide (rid = 0) := by
  have h : tablesStand (displaced rid 0x100000 []) := (⟨by decide, by decide, by decide⟩ : tablesStand (displaced 0 0x100000 []))
  have hz : ∀ e ∈ (displaced rid 0x100000 []).mem, e.1 < 0x40000000 :=
    (by decide : ∀ e ∈ (displaced 0 0x100000 []).mem, e.1 < 0x40000000)
  have hc : (awayRegion rid 0x100000).ctx + imageBytes ≤ 2 ^ 30 := (by decide : (awayRegion 0 0x100000).ctx + imageBytes ≤ 2 ^ 30)
  have hq : (awayRegion rid 0x100000).partsVa 0 + 0x210000 + 0x1000 ≤ 2 ^ 30 :=
    (by decide : (awayRegion 0 0x100000).partsVa 0 + 0x210000 + 0x1000 ≤ 2 ^ 30)
  have hf (va n : Nat) (hv : va + n ≤ 2 ^ 30) : imgFault (displaced rid 0x100000 []) (awayRegion rid 0x100000) 0 va n = none :=
    imgFault_mapped _ _ va n rfl h rfl rfl hv
  refine ⟨?_, ?_⟩
  · refine restoreFault_clear _ _ 0 awayTeam ⟨0, Core.fresh, [], [], [], []⟩ rfl rfl rfl rfl ?_ (hf _ _ hq)
    rw [Nat.zero_mul, Nat.zero_mul, Nat.add_zero]
    exact hf _ _ hc
  · by_cases h0 : rid = 0
    · subst h0
      exact (image_of_zeros _ _ _ rfl rfl h rfl rfl rfl hz hc).2.1
    · rw [decide_eq_false h0]
      unfold imageValid imgAt
      have hb : imageBytes = 53248 := by decide
      rw [dwVa_zero _ _ 0 _ rfl h rfl rfl hz (by omega)]
      have : decide (Option.getD (some 0) 0 = (awayRegion rid 0x100000).id) = false := decide_eq_false (fun e => h0 e.symm)
      rw [this, Bool.false_and, Bool.false_and]

/-- Under a root of zeros nothing is mapped, and the one entry that a walk reads is in reach. -/
theorem rangeClear_unmapped (s : State) (r : Region) (va n : Nat) (hl : s.linksDown = []) (hm : s.host.mig = none)
    (hk : s.host.pkgId = 0) (hr : r.field 11 = 0) (hz : ∀ k, k < 2 ^ 12 → s.dw k = 0) : s.rangeClear r 0 va n = true := by
  have hf : ∀ k, s.fwd k = k := fwd_still s hm
  have hi (a : Nat) : 8 * (a / 2 ^ 48 % 2 ^ 9) < 2 ^ 12 := by omega
  have ht (a : Nat) : s.translate r 0 a false false = .missing := by
    unfold State.translate State.walk
    rw [hr]
    simp only [walkLevels, walkFrom, Nat.zero_add, hf, hz _ (hi a)]
    rfl
  have hw (a : Nat) : s.walkPath r 0 a = true := by
    unfold State.walkPath
    rw [hr]
    simp only [walkLevels, walkReads, Nat.zero_add, hf, hz _ (hi a)]
    rw [if_pos (by decide)]
    simp only [List.all_cons, List.all_nil, Bool.and_true]
    refine diePath_still s _ hl ?_
    rw [hk]
    have := hi a
    unfold paPkg
    rw [if_neg (by omega)]
    omega
  unfold State.rangeClear
  rw [Bool.and_eq_true, List.all_eq_true]
  refine ⟨?_, fun a _ => by rw [ht]⟩
  rw [Option.isNone_iff_eq_none]
  unfold State.pathCut
  rw [List.find?_eq_none]
  intro a _
  unfold State.vaPath
  rw [hw, ht]
  exact Bool.false_ne_true

/-- Either way nothing keeps the tinker from the images. -/
theorem canRestore_displaced (root : Word) (hroot : root ∈ ([0, 0x100000] : List Word)) (rid : Nat) (hrid : rid ∈ [0, 1]) (poison : List Nat) :
    canRestore (displaced rid root poison) rid = true := by
  have hc (va n : Nat) (hv : va + n ≤ 2 ^ 30) : (displaced rid root poison).rangeClear (awayRegion rid root) 0 va n = true := by
    simp only [List.mem_cons, List.not_mem_nil, or_false] at hroot
    obtain rfl | rfl := hroot
    · refine rangeClear_unmapped _ _ _ _ rfl rfl rfl rfl (fun k hk => ?_)
      exact memRead_zero (displaced rid 0 poison).mem k 8 (by omega) (fun e he => .inr (by
        have := (by decide : ∀ e ∈ (displaced 0 0 []).mem, 0x100000 ≤ e.1) e he
        omega))
    · exact (rangeClear_mapped _ _ va n ⟨rfl, rfl, rfl, fun l => rfl,
        (by decide : ∀ e ∈ (displaced 0 0 []).clusters, e.2.copies = []), rfl⟩ rfl
        (⟨by decide, by decide, by decide⟩ : tablesStand (displaced 0 0 [])) hv).2
  have hb : (awayRegion rid root).ctx + 0 * (awayRegion rid root).imageSize + (awayRegion rid root).imageSize ≤ 2 ^ 30 ∧
      (awayRegion rid root).logAt 0 + 128 * (awayRegion rid root).logCap ≤ 2 ^ 30 := by
    exact (by decide : (awayRegion 0 0).ctx + 0 * (awayRegion 0 0).imageSize + (awayRegion 0 0).imageSize ≤ 2 ^ 30 ∧
      (awayRegion 0 0).logAt 0 + 128 * (awayRegion 0 0).logCap ≤ 2 ^ 30)
  have hi : (displaced rid root poison).imagesClear (awayRegion rid root) ((0 : Nat), awayTeam).1 ((0 : Nat), awayTeam).2.cl = true := by
    show (displaced rid root poison).imagesClear (awayRegion rid root) 0 0 = true
    unfold State.imagesClear
    rw [hc _ _ hb.1, hc _ _ hb.2]
    rfl
  clear hc hb
  simp only [List.mem_cons, List.not_mem_nil, or_false] at hrid
  obtain rfl | rfl := hrid
  · unfold canRestore
    rw [show (displaced 0 root poison).region? 0 = some (awayRegion 0 root) from rfl]
    dsimp only
    rw [show (displaced 0 root poison).restorable (awayRegion 0 root) = some (0, awayTeam) from rfl, Option.any_some, hi]
    rfl
  · unfold canRestore
    rw [show (displaced 1 root poison).region? 1 = some (awayRegion 1 root) from rfl]
    dsimp only
    rw [show (displaced 1 root poison).restorable (awayRegion 1 root) = some (0, awayTeam) from rfl, Option.any_some, hi]
    rfl

/-- A pool bank of core 0 in a role. -/
def pool (r : Role) : State := (base []).setBank (bankKey 0 32) (Bank.fresh r)

/-- A team of core 0 that is being saved is drained, and nothing keeps the tinker from its images. -/
def savingTeam : State := withTeam (team0 .saving [0]) id (base [])
theorem saving_ready : canSave savingTeam 1 = true := by
  let r : Region := { wordRegion with teams := [(0, team0 .saving [0])] }
  have hr : savingTeam.region? 1 = some r := rfl
  have ht : r.savingTeam = some (0, team0 .saving [0]) := rfl
  have hi : savingTeam.imagesClear r 0 (team0 .saving [0]).cl = true := by
    have hz : ∀ k, k < 2 ^ 12 → savingTeam.dw k = 0 := fun k hk =>
      memRead_zero savingTeam.mem k 8 (by omega) (fun e he => absurd he (by rw [show savingTeam.mem = [] from rfl]; exact List.not_mem_nil))
    show savingTeam.imagesClear r 0 0 = true
    unfold State.imagesClear
    rw [rangeClear_unmapped _ _ _ _ rfl rfl rfl rfl hz, rangeClear_unmapped _ _ _ _ rfl rfl rfl rfl hz]
    rfl
  unfold canSave
  rw [hr]
  dsimp only
  rw [ht]
  dsimp only
  rw [hi]
  decide

theorem witness_TeamsAreDisplacedAndBanksChangeRoles :
    (let s := (base []).modRegion 1 (fun r => { r with hold := some 0 })
     canSave s 1 = false ∧ s.beginsSave 1 = some 0 ∧ (s.team? 1 0).isSome = true) ∧
    (let s := withTeam (team0 .saving [0]) id (base [])
     canSave s 1 = true ∧ (s.region? 1).map (·.savingTeam) = some (some (0, team0 .saving [0]))) ∧
    (∀ root ∈ ([0, 0x100000] : List Word), ∀ poison, canRestore (displaced 0 root poison) 0 = true ∧ (displaced 0 root poison).region? 0 = some (awayRegion 0 root) ∧
      (displaced 0 root poison).restorable (awayRegion 0 root) = some (0, awayTeam)) ∧
    (∀ root ∈ ([0, 0x100000] : List Word), ∀ poison, canRestore (displaced 1 root poison) 1 = true ∧ (displaced 1 root poison).region? 1 = some (awayRegion 1 root) ∧
      (displaced 1 root poison).restorable (awayRegion 1 root) = some (0, awayTeam)) ∧
    ((displaced 0 0 []).restoreFault (awayRegion 0 0) 0 awayTeam = some (pageDenied 0 0) ∧
      ((displaced 0 0x100000 [0x8000000]).restoreFault (awayRegion 0 0x100000) 0 awayTeam).map (·.code) = some fPoison ∧
      fPoison ≠ fPageDenied) ∧
    (canService ((base []).modCluster 0 (fun k => { k with services := [1] })) 0 = true ∧
      (((base []).modCluster 0 (fun k => { k with serving := true })).cluster 0).serving = true) ∧
    (canLeave (pool (.leaving 1 none)) (bankKey 0 32) = true ∧ canIdle (pool (.closing 1)) (bankKey 0 32) = true ∧
      canClear (pool (.clearing (some 1))) (bankKey 0 32) = true) ∧
    (let s : State := { base [] with cyc := 65536 }
     canSample s 0 = true ∧ s.clusterRegions 0 = [1]) := by
  refine ⟨?_, ⟨saving_ready, rfl⟩, fun root h p => ⟨canRestore_displaced root h 0 (by decide) p, rfl, rfl⟩,
    fun root h p => ⟨canRestore_displaced root h 1 (by decide) p, rfl, rfl⟩, ⟨?_, ?_⟩, ?_, ?_, ?_⟩
  · decide
  · decide +kernel
  · decide +kernel
  · decide
  · decide
  · decide

/-- A lone `NOP` stands at 0x10000 of the mapped and executable pages; the thread of slot 1 may run this many instructions. -/
def leafX : Nat := 2 ^ 63 + 2 ^ 62 + 2 ^ 60 + 0x40000000
def nopAt (k : Kind) (allow : Word) (f : Thread → Thread) : State :=
  ((mapped leafX (inKind k [])).write 0x40010000 4 0x80000000).modThread 0 1 (fun t => f { t with allow := allow })

/-- The copy of a store of the package at port 0, under way. -/
def remoteReq : Req :=
  { (base regs0).newReq .store ⟨.global, 0, 64, 64⟩ 3 [⟨64, 5 * 2 ^ 43, 8, 5, 0, false⟩] with id := 9, stage := .sent }

theorem witness_FaultyUnitsAreContained :
    (realKey 0x40000000 = true ∧ ({ base [] with poison := [0x8000000] } : State).poison.contains (0x40000000 / 8) = true) ∧
    canTimeout ((({ base [] with cyc := 2 ^ 21 } : State)).modCluster 0 (fun k => { k with draining := some 5 })) 0 = true ∧
    canClearCluster (State.reset.modCluster 0 (fun k => { k with resetAt := some 5 })) 0 = true ∧
    (linked 0 1 = true ∧ (base []).linksDown.contains (linkCode 0 1) = false ∧
      (let s := (base []).setCore (32 * 144) { Core.fresh with region := some 1 }
       0 ∈ s.diesOf 1 ∧ 1 ∈ s.diesOf 1 ∧ (s.region? 1).map (·.live) = some true)) ∧
    ({ base [] with portsDown := [0] } : State).stopFar.reqs = [] ∧
    (let s : State := { base [] with reqs := [remoteReq], portsDown := [0] }
     s.stopFar.reqs = [remoteReq] ∧ (s.stopFar.cutReq remoteReq).isSome = true) ∧
    (let s := (withTeam (team0 .placed [0]) (fun r => { r with farPkgs := [5] }) (base []))
     let s0 : State := { s with portsDown := [0] }
     (s.region? 1).map (fun r => (r.live, r.teams.any (fun (_, t) => t.st = .placed), r.farPkgs)) = some (true, true, [5]) ∧
       s0.pkgReach 5 = false) ∧
    (∃ s : State, Config.partnerId 0 ≠ s.host.pkgId) := by
  refine ⟨?_, ?_, ?_, ?_, ?_, ?_, ?_, ⟨(base []).modHost (fun h => { h with pkgId := Config.partnerId 0 + 1 }), ?_⟩⟩
  · decide
  · decide
  · decide
  · decide
  · decide
  · decide
  · decide
  · exact (Nat.ne_of_lt (Nat.lt_succ_self _))

theorem witness_ThreadsWakeStopAndAreNotified :
    canWake (nopAt .grid 9 (fun t => { t with state := .parked, reason := 2 })) 0 1 = true ∧
    (canAllowanceEnd (nopAt .grid 0 id) 0 1 = true ∧ (nopAt .grid 0 id).entrantOf 0 = none) ∧
    (let s := (nopAt .tournament 0 id).modRegion 1 (fun r => { r with
       fields := Table.set r.fields 29 2
       entrants := [(0, Entrant.fresh)] })
     canAllowanceEnd s 0 1 = true ∧ (s.entrantOf 0).isSome = true) ∧
    (let s := (base []).setRegion 2 { wordRegion with id := 2, parentRid := 1, notices := [5], launcher := some 0 }
     canNotice s 2 = true ∧ (s.region? 2).map (·.notices) = some [5] ∧ (s.region? 2).map (·.launcher) = some (some 0) ∧
       (s.region? 2).map (fun r => some r.parentRid) = some ((s.core 0).region)) ∧
    (let s : State := { base [] with arrivals := [⟨0, 1, 1, 0, 3, 0, 0⟩] }
     s.arrivals[0]? = some ⟨0, 1, 1, 0, 3, 0, 0⟩ ∧ s.arrivalReady ⟨0, 1, 1, 0, 3, 0, 0⟩ = true ∧ (s.team? 1 0).isSome = true) := by
  refine ⟨?_, ?_, ?_, ?_, ?_⟩ <;> decide

/-- The host has accepted features; the first doubleword of a block at PA 0x4000_0000. -/
def offered (dw0 : Nat) : State := (State.reset.modHost (fun h => { h with featWritten := true })).write 0x40000000 8 dw0

/-- Region 1 maps VA 0 by a 2 MiB leaf at 0x4000_0000; the host has asked for its migration to 0x4020_0000. -/
def moving (mig : Option Migration) : State :=
  let s := (((base []).write 0x100000 8 (2 ^ 63 + 0x101000)).write 0x101000 8 (2 ^ 63 + 0x102000)).write 0x102000 8 (2 ^ 63 + 0x103000)
  (withField (s.write 0x103000 8 leafW) 11 0x100000).modHost (fun h => { h with migPa := 0x40200000, mig := mig })

theorem witness_HostLinkActsOnRegionsAndMemory :
    ((offered 0).up = true ∧ (offered 0).host.featWritten = true ∧ State.reset.host.featWritten = false ∧
      backing 0x40000000 ≠ .nothing ∧ (0x40000000 : Word).toNat / 2 ^ 56 = 0 ∧ (0x40000000 : Word).toNat % 2 ^ 8 = 0) ∧
    (∃ b, (offered 7).checkBlock 0x40000000 0x40000000 none 0 (some 3) none = .refused b) ∧
    (∃ r ds, (offered 0x500000000).checkBlock 0x40000000 0x40000000 none 0 (some 3) none = .ok r ds) ∧
    ((base []).rcRegion = some 1 ∧ ((base []).region? 1).map (·.hold) = some none ∧ State.reset.rcRegion = none ∧
      (∀ op ∈ [0, 1, 2, 3], (wrap64 (op * 2 ^ 62)).toNat / 2 ^ 62 = op ∧ (wrap64 (op * 2 ^ 62)).toNat / 2 ^ 16 % 2 ^ 46 = 0)) ∧
    (((moving none).migWanted 1).isSome = true ∧ State.reset.host.locked = false ∧
      ((base []).modHost (fun h => { h with locked := true })).host.locked = true) ∧
    (let m : Migration := ⟨1, 0, 2 ^ 21, 0x40000000, 0x40200000, 0⟩
     (moving (some m)).wfMem ∧ canCopyLine (moving (some m)) = true ∧ (m.copied + 1) * 128 < m.size ∧
       canEndMigration (moving (some { m with copied := 2 ^ 14 })) = true) ∧
    (((base []).modHost (fun h => { h with pending := [0] })).host.pending.contains 0 = true ∧ (base []).up = true ∧
      ({ base [] with up := false } : State).up = false) ∧
    (∀ s ∈ [base [], (base []).modHost (fun h => { h with hdm := [(0, (0, 2 ^ 40, 0x40000000))] })],
      s.hostLine (s.hostPa 0) = true ∧ hostMemory (s.hostPa 0) = true ∧ hostRange (s.hostPa 0) 8 = true ∧ s.wfMem) ∧
    (backing (128 * 2 ^ 48) = .host ∧ (base []).hostLine (128 * 2 ^ 48) = true) := by
  refine ⟨by decide, ⟨_, rfl⟩, ⟨_, _, rfl⟩, ?_, ?_, ?_, ?_, ?_, ?_⟩
  · decide
  · decide
  · decide
  · decide
  · decide
  · decide

/-- One row waits in the ring of die 0's drover for destination 0. -/
def droving : State :=
  let s := ((mapped leafW (base [])).write 0x50020000 8 1).write 0x50000008 8 7
  let s := (s.write 0x50100008 8 0x51000000).write 0x50100018 8 64
  s.modHost (fun h => { h with drover := [(0, 0x50000000), (1, 0x50100000), (2, 1)] })

theorem witness_DroversAndModuleManagement :
    Table.sorted droving.host.drover = true ∧
    (droving.wfMem ∧ droving.host.mig = none ∧ droving.up = true ∧ droving.ringClear 0 = true ∧ droving.droverReg 0 2 = 1 ∧ droving.droverRegion 0 = some mappedRegion ∧
      0 < droving.ringWaits 0 ∧ droving.ringAhead 0 ≤ 4096 ∧ droving.destRows 0 0 + 1 < 32 ∧
      droving.droverReg 0 1 + 32 * 0 + 32 ≤ (droving.destAt 0 0).buf + 64 + droving.destRows 0 0 * (64 + (droving.destAt 0 0).row)) ∧
    (∃ row, droving.droverAct 0 mappedRegion = .send 0 row) ∧
    (1200000 ≤ 2000000 ∧ 2000000 ≤ 2800000 ∧ ¬ (1200000 ≤ 5 ∧ 5 ≤ 2800000)) ∧
    (∃ s : State, s.alavis.sensors[0]? = some 121 ∧ (∃ x ∈ s.alavis.sensors.take 4, 120 < x) ∧
      s.alavis.log.find? (fun e => e.seq = 3) = some ⟨3, 2, 6, 0, 0, 0⟩) ∧
    ((⟨2, 0, true, true⟩ : FirmwareBundle).ed25519Ok = true ∧ (⟨2, 0, true, true⟩ : FirmwareBundle).mldsaOk = true) ∧
    (∃ s : State, s.alavis.rollback ≤ 2 ∧ (∃ fw : FirmwareBundle, ¬ (fw.ed25519Ok = true ∧ fw.mldsaOk = true ∧ s.alavis.rollback ≤ fw.version))) := by
  refine ⟨?_, ?_, ⟨_, rfl⟩, ?_, ?_, ?_, ?_⟩
  · decide
  · decide
  · decide
  · exact ⟨State.reset.modAlavis (fun a => { a with sensors := [121], log := [⟨3, 2, 6, 0, 0, 0⟩] }), by decide, ⟨121, by decide, by decide⟩, by decide⟩
  · decide
  · exact ⟨State.reset.modAlavis (fun a => { a with rollback := 0 }), by decide, ⟨⟨2, 0, false, true⟩, by decide⟩⟩

/-- A word placed for the next fetch; the rest of the agenda is empty. -/
def fetched (w : Nat) : State := State.reset.withFetchWord 32 w

/-- The thread of slot 0 begins that bundle. -/
def begun (n w : Nat) : State :=
  (({ fetched w with agenda := [] } : State).fetchUse wordRegion 0 0x10000).beginBundle 0 0 0x10000 (wrap64 (0x10000 + 4 * n)) n w

theorem witness_StepRunsTheDecodedInstruction :
    ({ State.reset with agenda := [.ev (.lpddr6Refresh 0)] } : State).agenda = .ev (.lpddr6Refresh 0) :: [] ∧
    ((fetched 0x80000000).agenda = [.issue 0 0] ∧ (fetched 0x80000000).regionOf 0 = some wordRegion ∧
      (fetched 0x80000000).fetchBundle wordRegion 0 0 = .lone 0x80000000 ∧ decodeWord 0x80000000 = .ok .nop) ∧
    (let s : State := { fetched 0x80000000 with agenda := [] }
     s.up = true ∧ s.nextCore = some 0 ∧ s.roundHeld 0 = false ∧ (s.core 0).long = false ∧ s.owner 0 = 0 ∧
       ({ s with turn := 1 } : State).candidateAt wordRegion 0 false 0 = some (0, .lone 0x80000000)) ∧
    ((fetched 0).fetchBundle wordRegion 0 0 = .pair 0 0x40000000 ∧ decodeWord 0 = .ok .nop ∧ decodeWord 0x40000000 = .ok .nopArith ∧
      gate (begun 2 0) [(.nop, issueW5 0 false), (.nopArith, issueW5 0x40000000 true)] = none ∧
      ∃ s1 s2, exec .nop ((begun 2 0).enter [.nop, .nopArith]) = .next s1 ∧ s1.bun.out = .ok ∧ exec .nopArith s1 = .next s2) := by
  refine ⟨by decide, by decide, by decide, ⟨by decide, by decide, by decide, by decide, ⟨_, _, rfl, rfl, rfl⟩⟩⟩

theorem witness_SupervisorFormsRaisePrivilegeInUserMode :
    (base regs0).bun.active = false ∧ (base regs0).bun.again = false ∧ isSup (base regs0).bun.cid = false ∧
    ∀ i ∈ ([.segset 1 2 3, .ctxsave 1, .ctxload 1, .eret, .wrsr 1 7, .wrsr 1 9, .wrsr 1 13] : List Instr), bundleOk (base regs0) [i] = true := by
  decide

/-- A load of p4 that is not back yet; queue register `s24` exists. -/
def pendingP4 : State :=
  { (base regs0).modCore 0 (fun c => { c with queues := [(0, ⟨4, false, false, [1, 2]⟩)] }) with reqs := [{ (base regs0).newReq (.load false)
      ⟨.scratch, 0, 64, 64⟩ 1 [] with id := 9, dst := some 4 }] }

theorem witness_IssueChecksDecideTheFaultInTheirOrder :
    (∀ i ∈ ([.add false .wrap 5 56 56, .tkreset, .segset 1 2 3, .rdsr 5 20, .add true .sat 5 4 4] : List Instr),
      (encodeChunks i).isSome = true ∧ pendingP4.bun.active = false ∧ pendingP4.bun.again = false) ∧
    bundleOk pendingP4 [.add false .wrap 5 56 56] = false ∧
    (bundleOk { pendingP4 with host := HostRegs.reset } [.tkreset] = true ∧
      featOk { pendingP4 with host := HostRegs.reset } .tkreset = false) ∧
    (bundleOk pendingP4 [.segset 1 2 3] = true ∧ featOk pendingP4 (.segset 1 2 3) = true ∧ privOk pendingP4 (.segset 1 2 3) = false) ∧
    (bundleOk pendingP4 [.rdsr 5 20] = true ∧ featOk pendingP4 (.rdsr 5 20) = true ∧ privOk pendingP4 (.rdsr 5 20) = true ∧
      operandOk pendingP4 (.rdsr 5 20) = false) ∧
    (let i : Instr := .add true .sat 5 4 4
     bundleOk pendingP4 [i] = true ∧ featOk pendingP4 i = true ∧ privOk pendingP4 i = true ∧ operandOk pendingP4 i = true ∧
       pendingOk pendingP4 i = false) := by
  refine ⟨?_, ?_, ?_, ?_, ?_, ?_⟩ <;> decide

theorem witness_RegisterInstructionsChangeNothingElse :
    ∀ i ∈ ([.add false .sat 4 1 2, .movi 4 7] : List Instr), i.inRegisters = true ∧ Issues i (base regs0) ∧
      (base regs0).bun.slot < 16 ∧ ∃ t, exec i (base regs0) = .next t := by
  intro i hi
  simp only [List.mem_cons, List.not_mem_nil, or_false] at hi
  obtain rfl | rfl := hi <;> exact ⟨by decide, by decide, by decide, _, rfl⟩

/-- A write-back of slot 1 of core 0. -/
def wbOf (due slot seq : Nat) (act : WbAct) : Wb := ⟨due, 0, slot, seq, 0x10000, 0, act⟩
def inWbs (l : List Wb) : State := { base regs0 with wbs := l }

theorem witness_WriteBackSetsExactlyItsRegister :
    (∀ due ∈ [99, 101], ∀ r ∈ [0, 5, 40],
      (inWbs [wbOf due 1 3 (.gpr r 7)]).wbs = [wbOf due 1 3 (.gpr r 7)] ∧ r < 64 ∧
        Table.canon 0 ((inWbs [wbOf due 1 3 (.gpr r 7)]).thread 0 1).regs = true ∧
        Table.canon 0 ((inWbs [wbOf due 1 3 (.gpr r 7)]).core 0).regs = true) ∧
    (inWbs []).cyc < 101 ∧ 99 ≤ (inWbs []).cyc := by decide

/-- Writes of `s8` by two threads and of `y1` and `w0`, and a push into `s24`, in one write-back cycle of core 0. -/
def colliding : List Wb :=
  [wbOf 99 2 4 (.load 40 8 9), wbOf 99 1 3 (.gpr 40 7), wbOf 99 1 5 (.vreg 1 3), wbOf 99 1 6 (.wreg 0 3), wbOf 99 1 7 (.qpush 0 7)]
def collidingS : State := (inWbs colliding).modCore 0 (fun c => { c with queues := [(0, ⟨4, false, false, []⟩)] })

theorem witness_CollidingWritesKeepExactlyOne :
    (∀ x ∈ collidingS.wbs, x.due ≤ collidingS.cyc ∧ x.slot < 16 ∧ (x.act.target.isSome = true ∨ ∃ k v, x.act = .qpush k v)) ∧
    (∀ c k, k < 16 → Table.canon 0 (collidingS.thread c k).regs = true ∧ Table.canon 0 (collidingS.thread c k).vregs = true) ∧
    (∀ c, Table.canon 0 (collidingS.core c).regs = true ∧ Table.canon 0 (collidingS.core c).yregs = true ∧
      Table.canon 0 (collidingS.core c).wregs = true) ∧
    (∀ x ∈ collidingS.wbs, x.sameReg (wbOf 99 1 3 (.gpr 40 7)) → x = wbOf 99 1 3 (.gpr 40 7) ∨ 1 < x.slot) ∧
    ((wbOf 99 1 3 (.gpr 40 7)).act.puts 40 7 ∧ (wbOf 99 1 5 (.vreg 1 3)).act.putsY 1 3 ∧ (wbOf 99 1 6 (.wreg 0 3)).act.putsW 0 3 ∧
      (wbOf 99 2 4 (.load 40 8 9)).act = .load 40 8 9 ∧ (collidingS.core 0).queue? 0 = some ⟨4, false, false, []⟩) := by
  have hs : collidingS.wbs = colliding := rfl
  rw [hs]
  unfold colliding
  refine ⟨?_, fun c k hk => ?_, fun c => ?_, ?_, Or.inl rfl, Or.inl rfl, Or.inl rfl, rfl, by decide⟩
  · simp only [List.mem_cons, List.not_mem_nil, or_false]
    rintro x (rfl | rfl | rfl | rfl | rfl)
    · exact ⟨by decide, by decide, Or.inl rfl⟩
    · exact ⟨by decide, by decide, Or.inl rfl⟩
    · exact ⟨by decide, by decide, Or.inl rfl⟩
    · exact ⟨by decide, by decide, Or.inl rfl⟩
    · exact ⟨by decide, by decide, Or.inr ⟨0, 7, rfl⟩⟩
  · by_cases h : 16 * c + k = 1
    · obtain ⟨rfl, rfl⟩ : c = 0 ∧ k = 1 := by omega
      decide
    · have ht : collidingS.thread c k = Thread.fresh := by
        show Table.get Thread.fresh [(1, _)] (16 * c + k) = _
        rw [Table.get, Table.find, if_neg (Ne.symm h)]
        rfl
      rw [ht]
      exact ⟨rfl, rfl⟩
  · match c with
    | 0 => decide
    | 1 => decide
    | c + 2 => exact ⟨rfl, rfl, rfl⟩
  · simp only [List.mem_cons, List.not_mem_nil, or_false]
    rintro x (rfl | rfl | rfl | rfl | rfl) ⟨-, n, h1, h2, -⟩
    · exact Or.inr (by decide)
    · exact Or.inl rfl
    all_goals
      rw [← h1] at h2
      exact absurd h2 (by decide)

/-- Region 1 is a child with a mailbox at VA 0x2000. -/
def mailed : State := withField ((mapped leafW (base regs0)).modRegion 1 (fun r => { r with root := false })) 24 0x2000
def mailedRegion : Region :=
  { wordRegion with root := false, fields := Table.set (Table.set wordRegion.fields 11 0x100000) 24 0x2000 }

theorem witness_TakingAFaultStoresItsRecordAndStopsTheThread :
    mailed.wfMem ∧ isSup 0 = false ∧ (mailed.core 0).region = some mailedRegion.id ∧ mailed.region? mailedRegion.id = some mailedRegion ∧
    (mailed.core 0).foremanGone = false ∧ (mailed.thread 0 1).handler = false ∧ (mailed.thread 0 1).supplier = .none ∧
    mailedRegion.pagers = [] ∧ mailedRegion.fdom = false ∧ mailed.recReady 0 1 mailed.nextId = true ∧ (mailed.core 0).pins = [] ∧
    mailedRegion.late = [] ∧ mailedRegion.root = false ∧ mailedRegion.freeMail = some 0 ∧
    mailedRegion.field 24 = 0x2000 ∧ fPrivilege < 256 ∧
    mailed.translate mailedRegion 0 0x2000 true false = .pa 0x40002000 leafW 30 ∧ mailedRegion.blockPa + 144 ≤ 0x40002000 ∧
    (let s := port (req1 .store .global 0 pieceG) mailed
     s.recReady 0 1 s.nextId = false ∧ s.region? 1 = some mailedRegion) := by
  decide

theorem witness_DecodingTheEncodedInstructionGivesItBack :
    ∀ lone ∈ [true, false], ∀ i ∈ ([.add true .sat 5 4 63, .chdecl 1 2 true 15, .vperm (.int .i32) 3 4 5] : List Instr),
      i.wf = true ∧ (encode lone i).isSome = true := by decide

theorem witness_EveryStepKeepsMemoryCanonical : State.reset.wfMem ∧ ∃ t, step State.reset = .next t := ⟨by decide, _, rfl⟩

/-! ### Terms that no word encodes (Sys2Proof/WellFormed.lean) -/

theorem test_wf_refuses_the_nop_as_add : (Instr.add false .wrap 0 0 0).wf = false := by decide
theorem test_wf_refuses_ordered_doubleword_sx :
    (Instr.ldAcq .d true .die 4 1 1).wf = false ∧ (Instr.ldgAcq .d true .die 4 1 1).wf = false := by decide
theorem test_wf_refuses_rounding_without_a_float :
    (Instr.vcvt (.int .i8) (.int .i32) .rtz 1 2).wf = false ∧ (Instr.vcvt (.fl .f32) (.fl .f32) .rup 1 2).wf = false ∧
    (Instr.vcvtS (.int .u32) (.int .i64) .rtz 1 2).wf = false := by decide
theorem test_wf_takes_the_others :
    (Instr.add true .wrap 0 0 0).wf = true ∧ (Instr.ldAcq .w true .die 4 1 1).wf = true ∧
    (Instr.vcvt (.int .i8) (.fl .f32) .rtz 1 2).wf = true ∧ (Instr.vcvtS (.int .u32) (.fl .f64) .rtz 1 2).wf = true := by decide

/-! ### Words that the specification writes out, and words written out from its tables -/

/-- Words decode to the instructions beside them. -/
def decodes (l : List (Nat × Instr)) : Bool := l.all (fun e => decide (decodeWord e.1 = .ok e.2))

/-- The listing's words (chapter 2, "Worked encodings"), and the jumps and branches of R31. -/
theorem test_words_control : decodes [(0x811C0040, .movi 7 0x40), (0x8D0C7FFD, .bltu 3 7 0xFFD), (0x80000203, .fence .die),
    (0x80000080, .exit), (0x8500F0FF, .wait 15 0 15 15), (0x91106FFE, .beng .cart .done 6 0xFFE), (0x8700000A, .jl 10),
    (0x89042FFF, .beq 1 2 0xFFF), (0x86FFFFFE, .j 0xFFFFFE), (0x88000003, .spawn 3), (0x91503004, .beng .mx .done 3 4),
    (0x85001234, .wait 1 2 3 4), (0x80000281, .vmodeLong), (0x80140383, .rvinit 5 3), (0x800003C3, .rvarr 3),
    (0x80000403, .rvwait 3), (0x80140442, .rvbytes 5 2), (0x80040181, .rdsr 1 1), (0x800031C7, .wrsr 3 7)] = true := by decide

/-- R31, R32: scratch and full/empty forms. -/
theorem test_words_scratch : decodes [(0x95143200, .ldD 5 3 1 0), (0x1C100208, .stD 4 0 1 8), (0x9B0807FF, .stW 2 0 3 0x1FF),
    (0x9D106402, .lds 4 6 2 2), (0xA01C0201, .stf 7 0 1 1), (0xA1243300, .feq 9 3 1), (0xA1003200, .feset 3 1),
    (0x94101401, .ldW 4 1 2 1), (0x9C142FFF, .stD 5 2 7 0x1FF)] = true := by decide

/-- R31, R32: global, cache, ordered and atomic forms. -/
theorem test_words_global : decodes [(0xA5143402, .ldgD 5 3 2 2), (0xA7187600, .ldgHSx 6 7 3 0), (0xAB1005FF, .stgW 4 0 2 0x1FF),
    (0xAD003400, .pref 3 2), (0xAD003480, .cclean 3 2), (0xAD003500, .cinval 3 2), (0xAE04359C, .ldgAcq .d false .die 1 3 2),
    (0xAE105308, .ldAcq .w false .core 4 5 1), (0xAF1065AC, .stgRel .d .sys 4 6 2), (0xAF1C0388, .stRel .d .core 7 0 1),
    (0xAF100594, .stgRel .d .clu 4 0 2), (0xAE10155C, .ldgAcq .w true .die 4 1 2)] = true := by decide
theorem test_words_atomic : decodes [(0xB0103408, .aadd .plain false true 4 3 2), (0xB0103410, .aadd .plain true false 4 3 2),
    (0xB0205508, .axchg .plain false true 8 5 2), (0xB118352B, .acas (.acq .die) false true 6 3 2),
    (0xB2242955, .afadd (.rel .sys) true 9 2 4), (0xB110152C, .acas (.acq .pkg) false true 4 1 2)] = true := by decide

/-- Streams, resources, matrix and tick instructions. -/
theorem test_words_resource : decodes [(0xB3106478, .rst 3 .d 4 6 2), (0xB4101602, .mst 4 1 3 2), (0xBA1C0243, .swait 7 3),
    (0xBA209283, .sseq 8 9 3), (0xBA1052C0, .pgreg 4 5), (0xBA106300, .pgfill 4 6), (0xBA006341, .cpstream 6 1),
    (0xBA1003C0, .mxsave 4), (0xBA100400, .mxload 4), (0xBA0C4381, .accrd 3 4 1), (0xBA105082, .segnarrow 4 5 2),
    (0xBA0420C0, .bankfmt 1 2), (0xBA187100, .bankalloc 6 7), (0xBA0C11E0, .histrd 3 1 32), (0xBA100440, .tkwin 4),
    (0xBA105480, .tkload 4 5), (0xBA1804C0, .tklaunch 6), (0xBA1804C1, .tklaunchAnd 6), (0xBA240500, .tkcapt 9),
    (0xBA1C8540, .tkfirst 7 8), (0xBA000580, .tkreset), (0xBA0C05C0, .tkstat 3)] = true := by decide

/-- Events, tasks, tournaments, faults. -/
theorem test_words_event : decodes [(0xBB105011, .chdecl 4 5 true 1), (0xBB000043, .chclose false 3), (0xBB240082, .hdlset 9 2),
    (0xBB1800C1, .send 6 1), (0xBB080100, .recv 2), (0xBB000140, .evdone), (0xBB1C0180, .promise 7 0), (0xBB0C01C0, .floor 3),
    (0xBB200200, .evstart 8), (0xBB000280, .taskend), (0xBB100380, .tscore 4), (0xBB0003C0, .tround), (0xBB140400, .tgrow 5),
    (0xBB187440, .trank 6 7), (0xBB0C4482, .frecrd 3 4 2), (0xBB1404C0, .qthaw 5), (0xBB180500, .ctxsave 6),
    (0xBB180540, .ctxload 6), (0xBB000580, .eret)] = true := by decide

/-- The integer groups (R38, R83, R89). -/
theorem test_words_integer : decodes [(0xC0104140, .add false .wrap 4 4 5), (0x40904006, .mov false 36 4),
    (0xC09420F0, .add false .sat 37 2 3), (0xC1104049, .sub true .usat 4 4 1), (0xC2188244, .divu false 6 8 9),
    (0xC6085194, .bfxSx false 2 5 6), (0xC90420C4, .cmp .ltu true 1 2 3), (0xC0F08006, .mov false 60 8),
    (0xC50420C7, .sra true 1 2 3), (0xC20420C6, .remu false 1 2 3)] = true := by decide

/-- Vectors and scalar floating point (R39, R40, chapter 14). -/
theorem test_words_vector : decodes [(0xB5042202, .vld 1 2 1 2), (0xB68C0400, .vst 35 0 2 0), (0xB7083222, .vlds 4 .h 2 3 1),
    (0xB810642C, .vgath 5 .w 4 6 2), (0xD00420C0, .vadd (.fl .f32 .rne) 1 2 3), (0xD39051A9, .vfma (.fl .bf16 .sr) 36 5 6),
    (0xDF1C8250, .vcmp (.fl .f32 (.ord .lt)) 7 8 9), (0xE71461F3, .vdot (.int .i8 .sat) 5 6 7),
    (0xE80C4000, .vred (.fl .f32 .rne) 3 4), (0xE6081001, .vcvt (.fl .bf16) (.fl .f32) .rne 2 1), (0xEA044000, .vbcast (.fl .f32) 1 4),
    (0xEB0C2145, .vext (.int .i16) 3 2 5), (0xEC0861C6, .vins (.int .i32) 2 6 7), (0xD410109A, .vdiv .f16 .rup 4 1 2)] = true := by decide
theorem test_words_scalar : decodes [(0xF324A2C8, .vfmaS .f32 .rtz 9 10 11), (0xF5083003, .vsqrtS .f64 .rne 2 3),
    (0xEE10500C, .vcvtS (.int .i32) (.fl .f32) .rtz 4 5), (0xFF0420D0, .vcmpS .f32 (.ord .lt) 1 2 3),
    (0xEE1010CF, .vcvtS (.int .u64) (.fl .f64) .rtz 4 1)] = true := by decide

/-- R29, R31, R32, R40, R44: unassigned codes, reserved fields and reserved rounding codes are refused by name. -/
theorem test_words_refused :
    (∀ w ∈ [0xBC000000, 0xCA000000, 0x80000480, 0x80000206, 0xAE1011C4, 0xB0101568, 0x91C00000, 0x85800000, 0xEF000000, 0xF0000004],
      decodeWord w = .illegalOpcode) ∧
    (∀ w ∈ [0xC0104178, 0xD0042138], decodeWord w = .reservedRm) := by decide

/-! ### Results that the specification works out -/

/-- What an instruction's bundle leaves to be written back. -/
def acts (i : Instr) (s : State) : List WbAct :=
  match exec i s with
  | .next t => t.wbs.map (·.act)
  | _ => []

/-- R88: the two fields of `BFX.SX` (chapter 4). -/
theorem test_bfx_sx : acts (.bfxSx false 2 5 6) (base [(5, 0xF0A0), (6, 0x804)]) = [.gpr 2 0xA] ∧
    acts (.bfxSx false 2 5 6) (base [(5, 0xF0A0), (6, 0x808)]) = [.gpr 2 0xFFFFFFFFFFFFFFF0] := by decide

/-- R87: division by zero (chapter 4), and the most negative number by −1. -/
theorem test_div_corners : acts (.divu false 6 8 9) (base [(8, 5)]) = [.gpr 6 0xFFFFFFFFFFFFFFFF] ∧
    acts (.rem false 6 8 9) (base [(8, 0x8000000000000000), (9, 0xFFFFFFFFFFFFFFFF)]) = [.gpr 6 0] := by decide

/-- R86: the saturating sum clamps, the `.W` difference clamps at zero, `MOV` may name a register of its own as source. -/
theorem test_add_sat : acts (.add false .sat 37 2 3) (base [(2, 0x7FFFFFFFFFFFFFFF), (3, 1)]) = [.gpr 37 0x7FFFFFFFFFFFFFFF] := by decide
theorem test_sub_w_usat : acts (.sub true .usat 4 4 1) (base [(4, 3), (1, 5)]) = [.gpr 4 0] := by decide

/-- R85: a 64-bit constant from `MOVI` and `MOVHI`: the old value shifted by 18 bits. -/
theorem test_movhi_shifts : acts (.movhi 7 0x34567) (base [(7, 0x48)]) = [.gpr 7 0x1234567] := by decide

/-- R86: a signed and an unsigned comparison of −1 and 1. -/
theorem test_cmp_signs : acts (.cmp .lt false 4 1 2) (base [(1, 0xFFFFFFFFFFFFFFFF), (2, 1)]) = [.gpr 4 1] ∧
    acts (.cmp .ltu false 4 1 2) (base [(1, 0xFFFFFFFFFFFFFFFF), (2, 1)]) = [.gpr 4 0] := by decide

/-- Vector register n of the thread holds v. -/
def withV (n : Nat) (v : SVec) (s : State) : State := s.modThread 0 1 (fun t => { t with vregs := Table.set t.vregs n v })

/-- The vector of 32-bit lanes, lane 0 first. -/
def lanes32 (l : List Nat) : SVec := BitVec.ofNat 256 (l.foldr (fun x acc => x + 2 ^ 32 * acc) 0)

/-- Chapter 14: the dot product rounds once: 1 + 2^−24 + 2^−24 is 0x3F80_0001. -/
theorem test_vdot_rounds_once : acts (.vdot (.fl .f32 .rne) 1 2 3)
    (withV 2 (lanes32 [0x3F800000, 0x33800000, 0x33800000]) (withV 3 (lanes32 (List.replicate 8 0x3F800000)) (base []))) =
    [.vreg 1 0x3F800001] := by decide +kernel

/-- Chapter 14: the tree of R68 over 2^24, 1, −2^24, 1 gives 1.0. -/
theorem test_vred_tree : acts (.vred (.fl .f32 .rne) 3 4)
    (withV 4 (lanes32 [0x4B800000, 0x3F800000, 0xCB800000, 0x3F800000]) (base [])) = [.vreg 3 0x3F800000] := by decide +kernel

/-- Chapter 14: `VCVT.I8.F32` of 2.5, −130.7, NaN, 127.5 and zeros keeps lanes 8 to 31. -/
theorem test_vcvt_narrows : acts (.vcvt (.int .i8) (.fl .f32) .rne 3 4)
    (withV 4 (lanes32 [0x40200000, 0xC302B333, 0x7FC00000, 0x42FF0000]) (withV 3 (BitVec.ofNat 256 (2 ^ 256 - 1)) (base []))) =
    [.vreg 3 (BitVec.ofNat 256 (2 ^ 256 - 2 ^ 64 + 0x7F008002))] := by decide +kernel

/-- Chapter 3: the addend's NaN is returned quieted. -/
theorem test_vfma_s_nan : acts (.vfmaS .f32 .rne 9 10 11) (base [(10, 0), (11, 0x7F800000), (9, 0xFF801234)]) = [.gpr 9 0xFFC01234] := by
  decide +kernel

/-- Chapter 3: the worked SRG, the worked stochastic rounding, and a generated payload. -/
theorem test_srg : srg 1 0 0 = 0x98030D52 := by decide +kernel
theorem test_sr_rounds_up : Fmt.bf16.fromFV .sr 0x98030D52 (Fmt.fp32.decode 0x3FAB6D00) = 0x3FAC := by decide +kernel
theorem test_nan_payload : Fmt.fp32.genNan (nanPayload 0x40A48 5) = 0x7FC0A405 := by decide

/-- Chapter 3: the worked MK8 block. -/
def mk8Block : List FV := [0x407E0000, 0xBF400000, 0x3E580000, 0x34000000].map Fmt.fp32.decode
theorem test_mk8_block : blockScale mk8Block = 0x80 ∧ mk8Block.map (blockCode 0x80 .rne 0) = [0x7F, 0xD8, 0x3E, 0] ∧
    (mk8Block.map (blockCode 0x80 .rtz 0)).getD 2 0 = 0x3D ∧ (mk8Block.map (blockCode 0x80 .rup 0)).getD 3 0 = 1 := by decide +kernel

/-- Chapter 10: the worked `AFADD` ties to even, and `ACAS` compares before it writes. -/
theorem test_atomics : atomicNew 10 false 0x3F800000 0x33800000 0 0 = some 0x3F800000 ∧
    atomicNew 9 true 3 7 3 0 = some 7 ∧ atomicNew 9 true 4 7 3 0 = none := by decide +kernel

/-- Chapter 22: PENDING_READ in slot 5 of tile `0.1.3.7.12`, whose coordinate word is 0x137C. -/
theorem test_record_word : recWord0 fPendingRead 0 5 ((144 + 12 * 3 + 7) * 32 + 12) 0 = 0x0705C2B400000000 ∧
    coordWord 0 ((144 + 12 * 3 + 7) * 32 + 12) = 0x137C := by decide

/-- Chapter 24: the answers of a launch register. Chapter 16: the record of a tick note. -/
theorem test_launch_answers : lresWord 0 0 7 = 0x8000000000000007 ∧ lresWord 1 0xFF 0 = 0x9000FF0000000000 ∧
    compRecord 2 0x31 false = 0x6000000000000031 := by decide

/-- Chapter 19: the worked ranking, with `lower` 0 and 1. -/
def bidders (lower : Word) : Region :=
  let e (score : Word) (scored : Bool) : Entrant := { Entrant.fresh with score := score, scored := scored }
  { wordRegion with fields := Table.set wordRegion.fields 28 lower, entrants := [(0, e 50 true), (1, e 0 false), (2, e 70 true), (3, e 50 true)] }
theorem test_ranking : (bidders 0).ranking = [2, 0, 3, 1] ∧ (bidders 1).ranking = [0, 3, 2, 1] := by decide

/-! ### The step fetches and runs the placed word -/

/-- The step after `withFetchWord`, of a lone word and of either half of a pair. -/
def firstActs (w : Nat) : List WbAct :=
  match step (State.reset.withFetchWord 32 w) with
  | .next t => t.wbs.map (·.act)
  | _ => []
theorem test_step_runs_the_placed_word : firstActs 0x811C0040 = [.gpr 7 0x40] ∧ firstActs 0x011C0040 = [.gpr 7 0x40] ∧
    firstActs 0x40904006 = [.gpr 36 0] := by decide +kernel

/-- Memory reads back what was written, and is canonical; an unlisted byte is zero. -/
theorem test_memory : (State.reset.write 0x40000000 8 0x1122334455667788).read 0x40000002 2 = 0x5566 ∧
    ((State.reset.write 0x40000000 1 5).write 0x40000000 1 0).mem = [] := by decide

/-! ### Witnesses of the statements' write-back, acceptance and layout clauses -/

theorem witness_YieldExitAndTrapEndTheirTurn_back :
    let s := base regs0
    let w := wbOf 104 1 7 .exit
    w.act = .exit ∧ (s.thread w.cid w.slot).runs = true ∧ 1 ≤ w.slot ∧ w.slot < 16 ∧ (s.thread w.cid w.slot).handler = false ∧
    (s.core w.cid).foremanGone = false ∧ s.reqs = [] ∧ (s.regionOf w.cid).map (·.pagers) = some [] := by decide

theorem witness_SpecialRegistersReadAndWrite_back :
    (∀ v sr, (wbOf 104 1 7 (.wrsr sr v)).act = .wrsr sr v) ∧
    (((sup regs0).modCluster 0 (fun k => { k with mxQ := [{ cmdOf [7] with stopped := true }] })).cluster (clOf 0)).waiting.isSome = true ∧
    2 ^ 63 ≤ (0x8000000200000005 : Word).toNat ∧ (0 : Word).toNat < 2 ^ 63 := by
  refine ⟨fun _ _ => rfl, by decide, by decide, by decide⟩

theorem witness_ForemanStartsReapsAndReadsSlots_back :
    (let s := foreman Thread.fresh
     (s.regionOf 0).map (fun r => r.field 43) = some 0 ∧ (s.thread 0 15).state = .empty ∧
       (wbOf 104 0 7 (.tstart 15 0x10000)).act = .tstart 15 0x10000) ∧
    (let s := foreman { Thread.fresh with state := .stopped, code := 0x1C, icnt := 5 }
     (s.regionOf 0).map (·.pagers) = some [] ∧ (s.thread 0 15).state ≠ .empty ∧ (s.thread 0 15).handler = false ∧
       (wbOf 104 0 7 (.treap 15)).act = .treap 15) ∧
    (let s := foreman { Thread.fresh with state := .exited, handler := true }
     (s.thread 0 15).state ≠ .empty ∧ (s.thread 0 15).handler = true ∧ (wbOf 104 15 7 (.treap 15)).slot = 15) := by decide

theorem witness_RendezvousPointsCountArrivalsAndBytes_back :
    let s := atPoint 256 { PointSt.fresh with expect := some 256 }
    (wbOf 104 1 7 (.rvbytes 23 9)).act = .rvbytes 23 9 ∧ (s.core 0).region = some 1 ∧ (s.team? 1 (s.core 0).team).isSome = true := by
  decide

theorem witness_SegmentsAreSetReadAndNarrowed_back :
    (wbOf 104 1 7 (.segset 7 0x100 0x200)).act = .segset 7 0x100 0x200 ∧
    Table.canon SegReg.zero ((base regsSeg).thread 0 1).segs = true := by decide

theorem witness_BankInstructionsActOnHeldBanks_back :
    (∀ a ∈ ([.bankfmt (bankKey 0 0) 1, .histclr (bankKey 0 0), .bankfree (bankKey 0 32), .poolset 2, .histsample (bankKey 0 0) 63 4] : List WbAct),
      (wbOf 104 1 7 a).act = a) ∧
    ((ownsBank 32).bank (bankKey 0 32)).role = .alloc 1 ∧ ((base regs0).core 0).region = some 1 := by decide

/-- A served store of stream 3 and a waiting SWAIT behind it. -/
def rstServed : Req := { (base []).newReq (.rst 3) ⟨.remote, 1, 64, 0⟩ 3 [] with cls := some .st, buffered := true, stage := .served, id := 8 }
def swaitSent : Req := { (base []).newReq (.swait 3) ⟨.none, 0, 0, 0⟩ 0 [] with dst := some 4, stage := .sent, id := 9 }

theorem witness_StreamReadsReportTheirPair_back :
    ({ base regs0 with reqs := [rstServed, swaitSent] } : State).reqs = [rstServed, swaitSent] ∧ rstServed.op = .rst 3 ∧
    rstServed.stage = .served ∧ rstServed.dropped = false ∧ rstServed.nulled = false ∧ rstServed.ord = .plain ∧
    swaitSent.op = .swait 3 ∧ swaitSent.cid = rstServed.cid ∧ swaitSent.slot = rstServed.slot ∧ rstServed.id < swaitSent.id ∧
    swaitSent.dest ≤ rstServed.id ∧ swaitSent.dropped = false ∧ swaitSent.stage = .sent := by decide

/-- A read of the arrays behind the commands 5 and 6, or behind 5 alone. -/
def arrayBehind (op : MemOp) (deps : List Nat) : Req :=
  { (base []).newReq op ⟨.none, 0, 0, 0⟩ 0 [] with dst := some 4, deps := deps, stage := .sent, id := 9 }

theorem witness_EngineInstructionsEnterAtWriteBack_back :
    (∀ l ∈ [[5], [5, 6]], (arrayBehind (.accrd 1 2 3) l).op = .accrd 1 2 3 ∧ (arrayBehind (.accrd 1 2 3) l).stage = .sent ∧
      (arrayBehind (.accrd 1 2 3) l).deps ≠ []) ∧
    ((arrays true regs0).cluster (arrays true regs0).myCl).mxIds = [] ∧ (mxFull.cluster mxFull.myCl).mxIds ≠ [] ∧
    (∀ a ∈ ([.cpstream 1 3, .mxarea false 0x2000 7, .mxarea true 0x2000 7] : List WbAct), (wbOf 104 1 7 a).act = a) ∧
    (let s := arrays true regs0
     s.reqs = [] ∧ (s.thread 0 1).acquired = [] ∧ s.holdsMx 0 (((s.core 0).region).getD 0) = true ∧ (s.cluster (clOf 0)).ready = [] ∧
       (s.cluster (clOf 0)).mxQ.length < 16) := by
  refine ⟨?_, ?_, ?_, ?_, ?_⟩ <;> decide

theorem witness_TickInstructionsEnterTheTickQueue_back :
    (arrayBehind (.tkfirst 8) [5]).op = .tkfirst 8 ∧ (arrayBehind (.tkfirst 8) [5]).stage = .sent ∧
    (arrayBehind (.tkfirst 8) [5]).deps = [5] ∧ clOf (arrayBehind (.tkfirst 8) [5]).cid = (arrays true regs0).myCl ∧
    (wbOf 104 1 7 (.tick .reset 7)).act = .tick .reset 7 ∧ (arrays true regs0).reqs = [] ∧ ((arrays true regs0).thread 0 1).acquired = [] ∧
    ((arrays true regs0).cluster (clOf 0)).tkBack = [] ∧ ((arrays true regs0).cluster (clOf 0)).tkQ.length < 16 := by
  refine ⟨?_, ?_, ?_, ?_, ?_, ?_, ?_, ?_, ?_⟩ <;> decide

theorem witness_EventInstructionsMoveMessagesAndTime_back :
    (let s := eventCore id [(1, 15), (2, 1 + 0x1000000 + 0x200000000000000), (3, 20)]
     let m := (s.operand 2).toNat
     s.me.handler = false ∧ (s.regionOf 0).map (fun r => r.field 13) = some 16 ∧ (s.myCore.outEnd? 15).isNone = true ∧
       (s.myCore.inEnd? 0).isNone = true ∧ (s.operand 1).toNat < 2 ^ 32 ∧ m / 2 ^ 50 % 2 ^ 6 = 0 ∧
       coordOk (m / 2 ^ 24 % 2 ^ 26) = true ∧ m % 2 ^ 24 ≠ 0 ∧ (s.operand 1).toNat ≠ 0 ∧
       Issues (.chdecl 1 2 true 15) s ∧ Issues (.chdecl 1 2 false 0) s) ∧
    (let s := eventCore (fun c => { c with
       inEnds := [(4, { inEnd0 with queue := [⟨12, false, 0, [1, 2, 3, 4, 5, 6, 7, 8], 1, 2, false⟩] })] }) regs0
     (s.core 0).attached = true ∧ (s.thread 0 1).handler = false ∧ (s.core 0).outEnd? 3 = some outEnd0 ∧ outEnd0.closed = false ∧
       outEnd0.joined = true ∧ outEnd0.look ≠ 0 ∧ ((s.core 0).inEnd? 4).map (·.closed) = some false ∧
       ∀ a ∈ ([.recv 4 ⟨12, false, 0, [], 1, 2, false⟩, .hdlset 4 0x20000, .evdone, .chclose true 3, .chclose false 4] : List WbAct),
         (wbOf 104 1 7 a).act = a) := by
  refine ⟨?_, ?_⟩ <;> decide

/-- The core of `forkjoin` with a frame of this many open children. -/
def inFrame (pending : Nat) : State := forkjoin (fun t => { t with frame := some 9 }) [(9, ⟨0, pending, 0, none⟩)] [] regs0

theorem witness_ForkJoinTasksSpawnSyncAndEnd_back :
    (∀ r, (forkjoin id [] (List.replicate 63 ⟨0, [], none, none⟩) regs0).regionOf 0 = some r →
      let s := forkjoin id [] (List.replicate 63 ⟨0, [], none, none⟩) regs0
      s.spillCut r (dieOf 0) s.myCore (s.overflows 0) [] = none) ∧
    (∀ r, (forkjoin id [] [] regs0).regionOf 0 = some r →
      let s := forkjoin id [] [] regs0
      s.spillCut r (dieOf 0) s.myCore [] (s.recordAt s.me.frame) = none ∧ s.spillCut r (dieOf 0) s.myCore (s.myCore.spillGone 0) [] = none) ∧
    (∀ n ∈ [0, 1],
      let s := inFrame n
      ((s.thread 0 1).runs = true ∧ s.reqs = [] ∧ (s.core 0).region = some 1 ∧ (s.thread 0 1).frame = some 9 ∧
        (s.region? 1).map (fun g => (Table.find g.frames 9).map (·.pending)) = some (some n) ∧
        (s.region? 1).map (·.pagers) = some [] ∧ (s.core 0).foremanGone = false ∧ (wbOf 104 1 7 (.sync 0x10004)).slot ≠ 0) ∧
      ∀ r, s.regionOf 0 = some r → s.spillCut r (dieOf 0) s.myCore [] [0] = none) ∧
    (∀ a ∈ ([.spawn 0x10004 9 none, .sync 0x10004, .qcfg 3 0x110, .qcfg 3 0] : List WbAct), (wbOf 104 1 7 a).act = a) ∧
    (0x110 : Word).toNat % 32 ≠ 0 ∧ (0 : Word).toNat % 32 = 0 ∧ Table.sorted ((base regs0).core 0).queues = true := by
  refine ⟨?_, ?_, ?_, ?_, ?_, ?_, ?_⟩
  · intro r hr
    obtain rfl := Option.some.inj hr
    decide
  · intro r hr
    obtain rfl := Option.some.inj hr
    decide
  · intro n hn
    fin_cases hn <;> refine ⟨by decide, ?_⟩ <;> intro r hr <;> obtain rfl := Option.some.inj hr <;> decide
  all_goals decide

/-- Round 0 of 2 of a tournament whose two entrants have a core each: slot 1 of core 0 runs for entrant 0, and core 1 is held or not. -/
def rounds (held : Bool) : State :=
  let s := (withField (inKind .tournament regs0) 29 2).modRegion 1 (fun r => { r with
    entrants := [(0, Entrant.fresh), (1, Entrant.fresh)] })
  s.modCore 1 (fun c => { c with held := held })

theorem witness_LaunchesAndTournamentInstructions_back :
    (∃ c ds recs, launching.launchAns launchReq ⟨0x200, 0, 8, 0, 0, false⟩ = .go c ds recs ∧ c.field 25 = 0) ∧
    (launching.region? launchReq.rid).isSome = true ∧ launching.host.mig = none ∧ launching.homeQ = [] ∧
    (∀ e ∈ launching.clusters, e.2.copies = []) ∧ (∀ e ∈ launching.cores, e.2.pins = []) ∧ launching.wfMem ∧
    (∀ b ∈ [false, true],
      let s := rounds b
      (s.regionOf 0).map (·.kind) = some .tournament ∧ (s.regionOf 0).map (fun g => (g.round, g.field 29, g.field 43)) = some (0, 2, 0) ∧
      (s.thread 0 1).runs = true ∧ (s.thread 0 1).state = .ready ∧
      (s.regionOf 0).map (fun g => (Table.find g.entrants (s.core 0).entrant).isSome) = some true ∧ s.region? 1 = s.regionOf 0 ∧
      (s.entrantCores 1 (s.core 0).entrant).filter (fun c => (s.core c).held) = if b then [1] else []) ∧
    (∀ a ∈ ([.tscore 5, .tround, .tgrow 4, .trank 4 1] : List WbAct), (wbOf 104 1 7 a).act = a) := by
  refine ⟨⟨_, _, _, rfl, by decide⟩, by decide, by decide, by decide, by decide, by decide, by decide, ?_, by decide⟩
  intro b hb
  fin_cases hb <;> exact ⟨by decide, by decide, by decide, by decide, by decide, rfl, by decide⟩

/-- A state whose bytes below the mapped pages are those of one in which the tables stand has them too. -/
theorem tablesStand_bytes (s u : State) (pa : Nat) (hp : 0x40000000 ≤ pa) (hb : ∀ k, k < pa → u.byte k = s.byte k) (h : tablesStand s) :
    tablesStand u := by
  have hr (k n : Nat) (hk : k + n ≤ pa) : u.read k n = s.read k n :=
    memRead_congr _ _ k n (fun i _ hi => hb i (by omega))
  unfold tablesStand
  rw [hr _ _ (by omega), hr _ _ (by omega), hr _ _ (by omega)]
  exact h

theorem witness_RecordThawPagerAndContextInstructions_load :
    loading.rangeClear loadingRegion 0 (ctxVa (loading.operand 1)) imageBytes = true ∧
    (base []).clustersLinked (base []).myCl (clOf 0) = true :=
  ⟨(rangeClear_mapped loading loadingRegion _ _ ⟨rfl, rfl, rfl, fun l => rfl, by decide, rfl⟩ rfl ⟨by decide, by decide, by decide⟩
    (by decide)).2, by decide⟩

theorem witness_RecordThawPagerAndContextInstructions_save :
    let s := saving
    let y := ctxVa (s.operand 1)
    s.regionOf 0 = some savingRegion ∧ s.bun.slot < 16 ∧ (s.operand 1).toNat / 16 % 2 ^ 8 = 0 ∧ ctxCore s.myCl (s.operand 1) = 0 ∧
    (s.core 0).away = true ∧ s.drained 0 = true ∧ s.settled savingRegion.id s.myCl [0] = true ∧
    s.rangeClear savingRegion 0 y imageBytes = true ∧ s.host.mig = none ∧ s.homeQ = [] ∧ s.wfMem ∧
    (∀ e ∈ s.clusters, e.2.copies = []) ∧ (∀ l, s.pinOf l = none) ∧
    (∀ u : State, u.host = s.host → (∀ k, (k < 0x40003000 ∨ 0x40003000 + imageBytes ≤ k) → u.byte k = s.byte k) →
      ∀ o, o < imageBytes → ∃ l b, u.translate savingRegion (dieOf 0) (y + o) true false = .pa (0x40003000 + o) l b) ∧
    Issues (.ctxsave 1) s := by
  have ht : tablesStand saving := ⟨by decide, by decide, by decide⟩
  have hb : imageBytes = 53248 := by decide
  have hy : ctxVa (saving.operand 1) = 0x3000 := by decide
  refine ⟨rfl, by decide, by decide, by decide, by decide, by decide, by decide, ?_, rfl, rfl, by decide, by decide, fun l => rfl, ?_,
    by decide⟩
  · exact (rangeClear_mapped saving savingRegion _ _ ⟨rfl, rfl, rfl, fun l => rfl, by decide, rfl⟩ rfl ht (by decide)).2
  · intro u hu hk o ho
    rw [hy]
    have := translate_mapped u savingRegion (dieOf 0) (0x3000 + o) true rfl
      (tablesStand_bytes saving u 0x40003000 (by decide) (fun k h => hk k (.inl h)) ht) (by rw [hu]; rfl) (by omega)
    rw [show 0x40000000 + (0x3000 + o) = 0x40003000 + o from by omega] at this
    exact ⟨_, _, this⟩

/-- A child with its mailbox slot 15 occupied, and a FRECRD of that slot, or of a carter command's record, waiting for its word. -/
def frecrd (sel : Word) : Req := { (base []).newReq (.frecrd sel 4) ⟨.none, 0, 0, 0⟩ 0 [] with
  dst := some 4
  cls := some .ld
  ord := .acq .sys
  stage := .sent
  id := 9 }
def mailFull (sel : Word) : State :=
  { withField ((mapped leafW (base regs0)).modRegion 1 (fun r => { r with root := false, mail := [15] })) 24 0x2000 with
    reqs := [frecrd sel] }

theorem witness_RecordThawPagerAndContextInstructions_back :
    (∀ sel ∈ [(15 : Word), 0x200000000000000F, 14, 0x4000000000000007],
      let s := mailFull sel
      s.req? 9 = some (frecrd sel) ∧ canLateResult s 9 = true ∧ s.mailMeet (frecrd sel) = .go ∧ (frecrd sel).dropped = false ∧
        (frecrd sel).vdst = none ∧ (s.region? (frecrd sel).rid).isSome = true) ∧
    ((base regs0).core 1).region = some ((((base regs0).core 0).region).getD 0) ∧
    (∀ b, (wbOf 104 1 7 (.qthaw 1 b 3)).act = .qthaw 1 b 3) := by
  refine ⟨?_, by decide, fun _ => rfl⟩
  intro sel hs
  refine ⟨rfl, ?_, ?_, rfl, rfl, rfl⟩ <;> fin_cases hs <;> decide

theorem witness_SaveAreasAndTickEntriesArePerformed_save :
    let s := areaQueued false 0x3000
    (areaCmd false 0x3000).area = some (false, 0x3000) ∧ 0x3000 % 4096 = 0 ∧ s.host.mig = none ∧ s.wfMem ∧
    areaFree s mappedRegion (areaCmd false 0x3000) 0x3000 true = true ∧
    ∀ u : State, u.host = s.host → (∀ i, (i < 0x40003000 ∨ 0x40003000 + areaBytes ≤ i) → u.byte i = s.byte i) →
      ∀ j, 128 * j < areaBytes → ∃ l b, u.translate mappedRegion (dieOf 0) (0x3000 + 128 * j) true false = .pa (0x40003000 + 128 * j) l b := by
  have ht : tablesStand (areaQueued false 0x3000) := ⟨by decide, by decide, by decide⟩
  have hb : areaBytes = 397312 := by decide
  refine ⟨rfl, rfl, rfl, by decide, ?_, fun u hu hk j hj => ?_⟩
  · exact areaFree_mapped _ mappedRegion _ _ _ ⟨rfl, rfl, rfl, fun l => rfl, by decide, rfl⟩ rfl ht rfl (by decide)
  · have := translate_mapped u mappedRegion (dieOf 0) (0x3000 + 128 * j) true rfl
      (tablesStand_bytes (areaQueued false 0x3000) u 0x40003000 (by decide) (fun k h => hk k (.inl h)) ht) (by rw [hu]; rfl) (by omega)
    rw [show 0x40000000 + (0x3000 + 128 * j) = 0x40003000 + 128 * j from by omega] at this
    exact ⟨_, _, this⟩

theorem witness_SaveAreasAndTickEntriesArePerformed_load :
    let s := (areaQueued true 0x3000).modCluster 0 (fun k => { k with mxHolder := some 1 })
    (s.cluster 0).mxHolder ≠ none ∧ s.areaRegion (areaCmd true 0x3000) = some mappedRegion ∧
    areaFree s mappedRegion (areaCmd true 0x3000) 0x3000 false = true ∧ s.dw 0x40003000 < 2 ^ 48 ∧
    (∀ i, 8 ≤ i → i < 4096 → s.byte (0x40003000 + i) = 0) ∧
    ∀ j, 128 * j < areaBytes → s.poisoned (0x40003000 + 128 * j) 128 = none ∧
      ∃ l b, s.translate mappedRegion (dieOf 0) (0x3000 + 128 * j) false false = .pa (0x40003000 + 128 * j) l b := by
  intro s
  have ht : tablesStand s := ⟨by decide, by decide, by decide⟩
  have hz : ∀ e ∈ s.mem, e.1 < 0x40000000 := areaQueued_below
  have hb : areaBytes = 397312 := by decide
  have hr (k n : Nat) (h : 0x40000000 ≤ k) (h' : k + n ≤ 2 ^ 56) : s.read k n = 0 :=
    memRead_zero _ _ _ h' (fun e he => by have := hz e he; omega)
  refine ⟨by decide, rfl, ?_, ?_, fun i h1 h2 => ?_, fun j hj => ⟨rfl, ?_⟩⟩
  · exact areaFree_mapped _ mappedRegion _ _ _ ⟨rfl, rfl, rfl, fun l => rfl, by decide, rfl⟩ rfl ht rfl (by decide)
  · have : s.dw 0x40003000 = 0 := hr _ 8 (by decide) (by decide)
    rw [this]
    decide
  · have h := hr (0x40003000 + i) 1 (by omega) (by omega)
    have e : s.read (0x40003000 + i) 1 = (s.byte (0x40003000 + i)).toNat + 256 * 0 := rfl
    exact BitVec.eq_of_toNat_eq (by rw [show (0 : Byte).toNat = 0 from rfl]; omega)
  · have := translate_mapped s mappedRegion (dieOf 0) (0x3000 + 128 * j) false rfl ht rfl (by omega)
    rw [show 0x40000000 + (0x3000 + 128 * j) = 0x40003000 + 128 * j from by omega] at this
    exact ⟨_, _, this⟩

/-- The scratch of a `TKCAPT` belongs to a displaced team whose log is full. -/
def captAway : State := (tkRunning (.capt 0)).modRegion 1 (fun r => { r with
  teams := [(1, { Team.fresh with st := .displaced, cores := [1], saved := [⟨1, Core.fresh, [], [(bankKey 0 0, Bank.fresh .home)], [], []⟩] })] })

theorem witness_SaveAreasAndTickEntriesArePerformed_capt :
    (let s := tkRunning (.capt 0)
     (s.cluster 0).tkRun = some (tkEntry (.capt 0), 50) ∧ tickFault s (tkEntry (.capt 0)) = none ∧
       s.displacedFor (tkEntry (.capt 0)).cmd 0 (bankOfSa 0) = none ∧ s.wfMem) ∧
    (captAway.cluster 0).tkRun = some (tkEntry (.capt 0), 50) ∧ tickFault captAway (tkEntry (.capt 0)) = none ∧
    captAway.captRefused (tkEntry (.capt 0)) = true := by decide

/-- A synchronising access of core 0 at the bank of the word, its full bit as given: at its home bank, or at one of core 1's. -/
def pieceB (b : Nat) : Piece := ⟨0x20000 * b + 64, scratchKey 0 (0x20000 * b + 64), 8, 5, 0, false⟩
def syncPort (op : MemOp) (b : Nat) (full : Bool) : State :=
  port (req1 op .scratch 0 (pieceB b)) ((base regs0).setFull (scratchKey 0 (0x20000 * b + 64)) full)

theorem witness_AccessesArePerformedOnExactlyTheirBytes_sync :
    ∀ l ∈ [(MemOp.lds, true), (.ldf, true), (.sts, false), (.stf, true), (.stf, false), (.feset, false), (.feclr, true), (.feq, true),
        (.feq, false), (.lds, false), (.ldf, false), (.sts, true)], ∀ b ∈ [0, 2],
      let s := syncPort l.1 b l.2
      let r := req1 l.1 .scratch 0 (pieceB b)
      let bank := bankKey 0 b
      s.wfMem ∧ s.req? 9 = some r ∧ (s.bank bank).park = [] ∧ s.bankTakes r bank = true ∧ r.ord = .plain ∧
        s.bankHeld r.rid r.cl (bankOfSa (pieceB b).addr) = true ∧ bank = bankKey r.cl (bankOfSa (pieceB b).addr) ∧
        s.clustersLinked (clOf r.cid) r.cl = true ∧ s.coverOf r (pieceB b) = .none ∧ s.poisoned (pieceB b).key 8 = none ∧
        (pieceB b).size = 8 ∧ (pieceB b).addr % 8 = 0 ∧ s.isFull (pieceB b).key = l.2 ∧ s.ownHome r = decide (b = 0) := by decide

theorem witness_StreamStoresHeldAtomicsAndRecalls_line :
    let s1 := (recallPort.returnGrant (lineOf 0x40000040)).setReq { recalled with stage := .sent }
    recallPort.wfMem ∧ recallPort.req? 9 = some recalled ∧ pieceG.done = false ∧ recalled.ord = .plain ∧ recalled.dropped = false ∧
    s1.coverOf { recalled with stage := .sent } pieceG = .none ∧ s1.pathUp recalled.cid (s1.fwd pieceG.key) = true ∧
    s1.pinOf (lineOf 0x40000040) = none ∧ s1.grantOf (lineOf 0x40000040) = none := by decide

/-- A `PGFILL` of page 2 from the page at 0x200000, or one that declines it; the pool has this many pages. -/
def fills (b : Nat) : Req := req1 (.pgfill b) .none 0 ⟨2 * 65536, 0, 0, 0, 0, false⟩
def fillPort (b pool : Nat) (asleep : List Nat) : State :=
  let s := (((((base regs0).write 0x100000 8 (2 ^ 63 + 0x101000)).write 0x101000 8 (2 ^ 63 + 0x102000)).write 0x102000 8
    (2 ^ 63 + 0x103000)).write 0x103000 8 (2 ^ 63 + 0x104000)).write 0x103008 8 leafW
  let s := s.modRegion 1 (fun r => { r with
    pagers := [⟨0, 1, 2, 1, true, false, 0⟩]
    upcalls := [⟨2, 4, true⟩]
    fields := [(11, 0x100000), (21, pool), (27, 0x4100)].foldl (fun l e => Table.set l e.1 (wrap64 e.2)) r.fields })
  port (fills b) (asleep.foldl (fun s k => s.setThread 1 k { Thread.fresh with state := .dropped, dropVa := 0x20008 }) s)

theorem witness_StreamStoresHeldAtomicsAndRecalls_fill :
    (∀ l ∈ [[], [3], [3, 4]],
      let s := fillPort 0x200000 10 l
      s.req? 9 = some (fills 0x200000) ∧ s.orderOk (fills 0x200000) ⟨2 * 65536, 0, 0, 0, 0, false⟩ = true ∧
        s.wfMem ∧ s.host.mig = none ∧ s.homeQ = [] ∧ (∀ e ∈ s.clusters, e.2.copies = []) ∧
        (s.region? 1).map (fun g => (missAt s 0x20000 walkLevels (g.field 11), g.poolNext, g.field 21, g.field 27)) =
          some (some (4, 0x104010), 0, 10, 0x4100) ∧ (∀ n ∈ lineSpan 0x104010 8, s.pinOf n = none) ∧ s.droppedIn 1 0x20000 0x30000 = l.map (fun k => (1, k))) ∧
    (∃ g, (fillPort 0x200000 10 [3]).region? 1 = some g ∧
      (fillPort 0x200000 10 [3]).translate g (dieOf 0) 0x200000 false false = .pa 0x40000000 leafW 21) ∧
    (∀ e ∈ [(0, 1), (0x200000, 2)], ∀ l ∈ [[], [3]],
      let s := fillPort e.1 0 l
      s.req? 9 = some (fills e.1) ∧ (s.region? 1).map (fun g => (missAt s 0x20000 walkLevels (g.field 11), decide (g.field 21 < g.poolNext + 1))) =
        some (some (4, 0x104010), true) ∧ s.droppedIn 1 0x20000 0x30000 = l.map (fun k => (1, k))) := by
  refine ⟨?_, ⟨_, rfl, ?_⟩, ?_⟩ <;> decide

/-- Where these tables stand, the page at 0x200000 is mapped from 0x4000_0000 on and in reach. -/
theorem fillPort_page (s : State) (r : Region) (va : Nat) (hr : r.field 11 = 0x100000) (hl : s.linksDown = []) (hm : s.host.mig = none)
    (hk : s.host.pkgId = 0) (h0 : s.read 0x100000 8 = 2 ^ 63 + 0x101000) (h1 : s.read 0x101000 8 = 2 ^ 63 + 0x102000)
    (h2 : s.read 0x102000 8 = 2 ^ 63 + 0x103000) (h3 : s.read 0x103008 8 = leafW) (hv : 0x200000 ≤ va) (hv' : va < 0x210000) :
    s.vaPath r 0 va = true ∧ s.translate r 0 va false false = .pa (0x40000000 + va % 2 ^ 21) leafW 21 := by
  have e1 : va / 2 ^ 48 % 2 ^ 9 = 0 := by omega
  have e2 : va / 2 ^ 39 % 2 ^ 9 = 0 := by omega
  have e3 : va / 2 ^ 30 % 2 ^ 9 = 0 := by omega
  have e4 : va / 2 ^ 21 % 2 ^ 9 = 1 := by omega
  have hf : ∀ k, s.fwd k = k := fwd_still s hm
  have hp : ∀ k, k < 2 ^ 43 → s.diePath 0 k = true := by
    intro k hk'
    refine diePath_still s k hl ?_
    rw [hk]
    unfold paPkg
    rw [if_neg (by omega)]
    omega
  have ht : s.translate r 0 va false false = .pa (0x40000000 + va % 2 ^ 21) leafW 21 := by
    have hw : s.walk r va = .leaf leafW 21 := by
      unfold State.walk
      rw [hr]
      simp only [walkLevels, walkFrom, State.dw, e1, e2, e3, e4, Nat.mul_zero, Nat.add_zero, hf, h0]
      rw [if_neg (by decide), if_neg (by decide), if_neg (by decide), show ptePa (2 ^ 63 + 0x101000) = 0x101000 from by decide, h1,
        if_neg (by decide), if_neg (by decide), if_neg (by decide), show ptePa (2 ^ 63 + 0x102000) = 0x102000 from by decide, h2,
        if_neg (by decide), if_neg (by decide), if_neg (by decide), show ptePa (2 ^ 63 + 0x103000) + 8 * 1 = 0x103008 from by decide, h3,
        if_neg (by decide), if_neg (by decide), if_pos (by decide)]
    unfold State.translate
    rw [hw]
    rfl
  refine ⟨?_, ht⟩
  unfold State.vaPath State.walkPath
  rw [ht, hr]
  simp only [walkLevels, walkReads, State.dw, e1, e2, e3, e4, Nat.mul_zero, Nat.add_zero, hf, h0]
  rw [if_neg (by decide), show ptePa (2 ^ 63 + 0x101000) = 0x101000 from by decide, h1, if_neg (by decide),
    show ptePa (2 ^ 63 + 0x102000) = 0x102000 from by decide, h2, if_neg (by decide),
    show ptePa (2 ^ 63 + 0x103000) + 8 * 1 = 0x103008 from by decide, h3, if_pos (by decide)]
  simp only [List.all_cons, List.all_nil, hp 0x100000 (by omega), hp 0x101000 (by omega), hp 0x102000 (by omega), hp 0x103008 (by omega),
    hp (0x40000000 + va % 2 ^ 21) (by omega), Bool.and_true]

theorem witness_StreamStoresHeldAtomicsAndRecalls_clear :
    ∀ l ∈ [[], [3], [3, 4]], (fillPort 0x200000 10 l).fillClear 1 0 2 0x200000 = true ∧ (fillPort 0 0 l).fillClear 1 0 2 0 = true := by
  intro l hl
  refine ⟨?_, by fin_cases hl <;> decide⟩
  obtain ⟨r, hr, hf⟩ : ∃ r, (fillPort 0x200000 10 l).region? 1 = some r ∧ r.field 11 = 0x100000 ∧ r.field 27 = 0x4100 ∧ r.poolNext = 0 := by
    fin_cases hl <;> exact ⟨_, rfl, by decide, by decide, by decide⟩
  have hs : (fillPort 0x200000 10 l).linksDown = [] ∧ (fillPort 0x200000 10 l).host.mig = none ∧ (fillPort 0x200000 10 l).host.pkgId = 0 ∧
      (fillPort 0x200000 10 l).read 0x100000 8 = 2 ^ 63 + 0x101000 ∧ (fillPort 0x200000 10 l).read 0x101000 8 = 2 ^ 63 + 0x102000 ∧
      (fillPort 0x200000 10 l).read 0x102000 8 = 2 ^ 63 + 0x103000 ∧ (fillPort 0x200000 10 l).read 0x103008 8 = leafW := by
    fin_cases hl <;> decide
  have hm : (fillPort 0x200000 10 l).walkPath r 0 0x20000 = true ∧
      missAt (fillPort 0x200000 10 l) 0x20000 walkLevels (r.field 11) = some (4, 0x104010) ∧
      (fillPort 0x200000 10 l).tinkerClear ((fillPort 0x200000 10 l).fwd 0x104010) = true := by
    obtain ⟨hf, -⟩ := hf
    unfold State.walkPath
    rw [hf]
    clear hr hf hs
    fin_cases hl <;> decide
  have hq : ∀ k, k < 2 ^ 43 → (fillPort 0x200000 10 l).tinkerClear k = true := by
    intro k hk
    fin_cases hl <;> rfl
  generalize fillPort 0x200000 10 l = s at *
  obtain ⟨a1, a2, a3, a4, a5, a6, a7⟩ := hs
  have hpage (va : Nat) (h : 0x200000 ≤ va) (h' : va < 0x210000) := fillPort_page s r va hf.1 a1 a2 a3 a4 a5 a6 a7 h h'
  have hd (k : Nat) (hk' : k < 2 ^ 43) : s.diePath 0 k = true := by
    refine diePath_still s k a1 ?_
    rw [a3]
    unfold paPkg
    rw [if_neg (by omega)]
    omega
  have hfw : ∀ k, s.fwd k = k := fwd_still s a2
  have hlo (a : Nat) (ha : a ∈ vaLines 0x200000 65536) : 0x200000 ≤ a ∧ a < 0x210000 := by
    refine ⟨?_, vaLines_lt _ _ a ha⟩
    unfold vaLines at ha
    rw [if_neg (by decide)] at ha
    obtain ⟨i, -, rfl⟩ := List.mem_map.mp ha
    exact Nat.le_max_left _ _
  have hc : s.rangeClear r 0 0x200000 65536 = true := by
    unfold State.rangeClear
    rw [Bool.and_eq_true, List.all_eq_true, Option.isNone_iff_eq_none]
    refine ⟨?_, fun a ha => ?_⟩
    · unfold State.pathCut
      rw [List.find?_eq_none]
      intro a ha
      rw [(hpage a (hlo a ha).1 (hlo a ha).2).1]
      decide
    · rw [(hpage a (hlo a ha).1 (hlo a ha).2).2]
      dsimp only
      rw [hfw]
      exact hq _ (by omega)
  have hpool : s.poolPath r 0 = true := by
    unfold State.poolPath
    rw [List.all_eq_true]
    intro i hi
    have := List.mem_range.mp hi
    rw [hfw, hf.2.1, hf.2.2]
    exact hd _ (by omega)
  unfold State.fillClear
  rw [hr]
  dsimp only
  rw [show 2 * 65536 = 0x20000 from rfl, hm.1, hm.2.1]
  dsimp only
  rw [hm.2.2, hc, hpool]
  rfl

/-- Slot 1 of core 0 has pushed these words, all but the last of them, to an engine queue; its region holds the arrays of cluster 0, or not. -/
def pushed (h : Bool) (q : Nat) (words : List Word) : State :=
  (arrays h regs0).modThread 0 1 (fun t => if q = 28 then { t with cart := words.dropLast } else { t with matx := words.dropLast })

/-- A copy's words with the follow flag, and the matrix command that follows. -/
def pairWords (code : Nat) : List Word :=
  [wrap64 (1 * 2 ^ 56 + 63 * 2 ^ 42 + 2 ^ 55), wrap64 (2 ^ 62 + 0x100), wrap64 (2 ^ 62 + 0x20000), 4] ++ rowWords code

theorem witness_CopiesBeginLandAndReport_push :
    (∀ v q, (wbOf 104 1 7 (.epush q v)).act = .epush q v) ∧
    (∀ e ∈ [(28, copyWords 1 4 0x100 0x20000), (28, copyWords 6 4 0x100 0x20000), (28, pairWords 0x11), (28, pairWords 0x15),
        (29, rowWords 0x11), (29, rowWords 0x15), (30, [wrap64 (0x20 * 2 ^ 56 + 7)]), (30, [wrap64 (0x21 * 2 ^ 56 + 7)])],
      let s := pushed true e.1 e.2
      s.reqs = [] ∧ (s.thread 0 1).acquired = [] ∧ (s.core 0).region.isSome = true ∧ (s.core 0).comp.length < 64 ∧ (s.core 0).compWait = [] ∧
        (s.cluster 0).copyBack = [] ∧ (s.cluster 0).ready = [] ∧ (s.cluster 0).tkBack = [] ∧ (s.cluster 0).copyQ.length < 32 ∧
        (s.cluster 0).mxQ.length < 16 ∧ (s.cluster 0).tkQ.length < 16) ∧
    (∀ e ∈ [(1, none), (6, some 1)],
      let ws := copyWords e.1 4 0x100 0x20000
      let s := pushed true 28 ws
      let c := s.mkCmd 0 1 0x10000 0 (ws.take 4) (ws.drop 4)
      (s.thread 0 1).cart ++ [ws.getLastD 0] = ws ∧ ws.length = cartLen ws ∧ (s.core 0).armed 1 c.token = none ∧ c.follow = [] ∧
        cpReject c = e.2) ∧
    (∀ e ∈ [(0x11, none), (0x15, some 1)],
      let ws := pairWords e.1
      let s := pushed true 28 ws
      let c : Cmd := { s.mkCmd 0 1 0x10000 0 (ws.take 4) (ws.drop 4) with followBundle := 0x10000, followIcnt := 0 }
      (s.thread 0 1).cart ++ [ws.getLastD 0] = ws ∧ ws.length = cartLen ws ∧ (ws.take 4).length ≠ cartLen (ws.take 4) ∧
        (s.core 0).armed 1 c.token = none ∧ c.follow ≠ [] ∧ cpReject c = none ∧ s.mxReject (s.followCmd c) true = e.2) ∧
    (∀ e ∈ [(true, 0x11, none), (true, 0x15, some 1), (false, 0x11, some 10)],
      let ws := rowWords e.2.1
      let s := pushed e.1 29 ws
      (s.thread 0 1).matx ++ [ws.getLastD 0] = ws ∧ ws.length = 3 ∧ (ws.take 2).length ≠ 3 ∧
        s.mxReject (s.mkCmd 0 1 0x10000 0 ws []) false = e.2.2) ∧
    (∀ e ∈ [(true, 0x20, none), (true, 0x21, some 1), (false, 0x20, some 10)],
      (pushed e.1 30 []).tkReject ((pushed e.1 30 []).mkCmd 0 1 0x10000 0 [wrap64 (e.2.1 * 2 ^ 56 + 7)] []) = e.2.2) := by
  refine ⟨fun _ _ => rfl, ?_, ?_, ?_, ?_, ?_⟩ <;> decide

theorem witness_CopiesBeginLandAndReport_reject :
    (∀ n ∈ [0, 6], (cmdOf (copyWords n 4 0x100 0x20000)).code = n) ∧
    (∀ n ∈ [0x10, 0x11, 0x14, 0x15], (cmdOf (rowWords n)).code = n ∧ hdrBad ((cmdOf (rowWords n)).word 0) = false ∧
      hdrFollow ((cmdOf (rowWords n)).word 0) = false ∧ hdrSetFull ((cmdOf (rowWords n)).word 0) = false) ∧
    (∀ n ∈ [0x1F, 0x20, 0x21], (cmdOf [wrap64 (n * 2 ^ 56 + 7)]).code = n ∧ hdrBad ((cmdOf [wrap64 (n * 2 ^ 56 + 7)]).word 0) = false ∧
      hdrFollow ((cmdOf [wrap64 (n * 2 ^ 56 + 7)]).word 0) = false ∧ hdrSetFull ((cmdOf [wrap64 (n * 2 ^ 56 + 7)]).word 0) = false) ∧
    ((arrays false regs0).cluster 0).mxHolder ≠ some 1 ∧ ((arrays false regs0).cluster 0).tkHolder ≠ some 1 := by
  refine ⟨?_, ?_, ?_, ?_, ?_⟩ <;> decide

/-- Core 0, whose candidate on end 4 is blocked by end 5, which has been asked or not. -/
def blockedBy (asked : Bool) : State := blockedTile.modCore 0 (fun c => { c with
  outEnds := []
  inEnds := [(4, { inEnd0 with handler := 0x20000, promise := 12, queue := [⟨12, false, 0, [7], 1, 2, false⟩] }), (5, { inEnd0 with asked := asked })] })

/-- Core 0 without an arrival, its outbound end hungry with this quantum, its inbound end at 10, its task attached or not. -/
def hungry (quantum : Nat) (attached asked : Bool) : State := eventCore (fun c => { c with
  attached := attached
  outEnds := [(3, { outEnd0 with hunger := true, quantum := quantum })]
  inEnds := [(4, { inEnd0 with promise := 10, asked := asked })] }) regs0

theorem witness_FlitsReachTheirEnds_hunger :
    (∀ b ∈ [false, true],
      let c := (blockedBy b).core 0
      Table.sorted c.inEnds = true ∧ c.outEnds = [] ∧ c.candidate = some (4, ⟨12, false, 0, [7], 1, 2, false⟩) ∧
        c.deliverable (4, ⟨12, false, 0, [7], 1, 2, false⟩) = false ∧ c.blockers 4 12 = [(5, { inEnd0 with asked := b })] ∧
        inEnd0.joined = true) ∧
    (∀ q ∈ [1, 100], ∀ att ∈ [false, true], ∀ b ∈ [false, true],
      let s := hungry q att b
      let c := s.core 0
      let e := { outEnd0 with hunger := true, quantum := q }
      Table.sorted c.inEnds = true ∧ c.candidate = none ∧ c.outEnds = [(3, e)] ∧ e.hunger = true ∧ e.joined = true ∧ e.closed = false ∧
        e.look ≠ 0 ∧ s.horizon 0 = 10 ∧ e.promise 10 = 15 ∧ (q = 1 → e.told + e.quantum ≤ 15) ∧
        (q = 100 → 15 < min (2 ^ 64 - 1) (e.told + e.quantum)) ∧ c.inEnds = [(4, { inEnd0 with promise := 10, asked := b })] ∧
        inEnd0.closed = false ∧ inEnd0.zero = false ∧ c.tileNow = 10 ∧ c.attached = att ∧
        ∀ k, k < 16 → (s.thread 0 k).handler = false) := by
  refine ⟨?_, ?_⟩ <;> decide

theorem witness_DispatchSweepsAndSteals_rules :
    (∀ e ∈ [((0 : Word), true), (0x20000, false)],
      let s := arrived e.1 e.2
      ∃ q x r, (s.core 0).candidate = some q ∧ (s.core 0).inEnd? q.1 = some x ∧ s.regionOf 0 = some r ∧ r.kind = .event ∧ r.det = false ∧
        q.2.payload[0]? = some 7) ∧
    (∃ q x r, (blockedTile.core 0).candidate = some q ∧ (blockedTile.core 0).inEnd? q.1 = some x ∧ blockedTile.regionOf 0 = some r ∧
      r.kind = .event ∧ blockedTile.tiles r.id = [0, 1]) := by
  refine ⟨?_, ⟨_, _, _, rfl, rfl, rfl, rfl, by decide⟩⟩
  intro e he
  fin_cases he <;> exact ⟨_, _, _, rfl, rfl, rfl, rfl, by decide, rfl⟩

/-- Both entrants of a tournament of this many rounds have ended their round: that of core 0, whose slot 1 is parked at the barrier with
its entrant segment, and that of core 1. -/
def bothOver (rounds : Word) : State :=
  let s := withTeam (team0 .placed [0, 1]) (fun r => { r with
    roundOn := true
    fields := Table.set r.fields 29 rounds
    entrants := [(0, { Entrant.fresh with roundOver := true }), (1, { Entrant.fresh with roundOver := true })] }) (inKind .tournament [])
  (s.modThread 0 1 (fun t => { t with
    state := .parked
    reason := 3
    barrier := true
    entSeg := true
    segs := [(7, ⟨0x2000, 0xD000000000001000⟩)] })).modCore 1 (fun c => { c with entrant := 1, tileDone := true })

theorem witness_TeamsArePlacedRetiredAndEnded_barrier :
    ∀ n ∈ [(1 : Word), 2],
      let s := bothOver n
      canBarrier s 1 = true ∧ (s.region? 1).map (fun r => (r.id, Table.sorted r.entrants, r.pagers, r.ranking, r.round)) =
        some (1, true, [], [0, 1], 0) ∧ (s.region? 1).map (fun r => (r.field 29, decide (r.field 29 ≤ r.round + 1))) =
        some (n.toNat, decide (n = 1)) ∧
      (s.core 0).region = some 1 ∧ (s.core 0).entrant = 0 ∧ (s.core 1).region = some 1 ∧ (s.core 1).entrant = 1 ∧
      (s.thread 0 1).state ≠ .empty ∧ (s.thread 0 1).entSeg = true ∧ Table.canon SegReg.zero (s.thread 0 1).segs = true := by
  intro n hn
  fin_cases hn <;> refine ⟨?_, ?_, ?_, ?_, ?_, ?_, ?_, ?_, ?_, ?_⟩ <;> decide

theorem witness_HostLinkActsOnRegionsAndMemory_registers :
    (∀ v ∈ [(2 ^ 56 + 0x40000000 : Nat), 0x40000001, 2 ^ 42], (wrap64 v).toNat / 2 ^ 56 ≠ 0 ∨ (wrap64 v).toNat % 2 ^ 8 ≠ 0 ∨
      backing (wrap64 v).toNat = .nothing) ∧
    (∀ op ∈ [1, 2, 3], (wrap64 (op * 2 ^ 62 + 2 ^ 16)).toNat / 2 ^ 62 = op ∧ ¬ (wrap64 (op * 2 ^ 62 + 2 ^ 16)).toNat / 2 ^ 16 % 2 ^ 46 = 0) ∧
    (let s := (base []).modHost (fun h => { h with nqTail := 2, masked := [] })
     s.up = true ∧ (1 : Word).toNat % 2 ^ 32 ≠ s.host.nqTail ∧ s.host.masked.contains 0 = false) ∧
    (let s := (base []).modHost (fun h => { h with nqTail := 2, masked := [0] })
     s.up = true ∧ (1 : Word).toNat % 2 ^ 32 ≠ s.host.nqTail ∧ s.host.masked.contains 0 = true) := by
  refine ⟨?_, ?_, ?_, ?_⟩ <;> decide

/-- Thirty-one rows stand in the buffer of destination 0, or the ring is drained with a row of it uncounted. -/
def lastRow : State := droving.write 0x51000000 8 31
def drainedRing : State := { (droving.write 0x50020000 8 0) with drovers := [(0, ⟨[(0, 1)], 0, false⟩)] }

theorem witness_DroversAndModuleManagement_counts :
    (let s := lastRow
     let buf := (s.destAt 0 0).buf
     let last := buf + 64 + 31 * (64 + (s.destAt 0 0).row) + 64 + 8 * 8
     s.wfMem ∧ s.host.mig = none ∧ s.ringClear 0 = true ∧ s.droverReg 0 2 = 1 ∧ s.droverRegion 0 = some mappedRegion ∧
       s.ringAhead 0 ≤ 4096 ∧ Table.sorted (s.drover 0).pending = true ∧
       (s.droverReg 0 0 + 0x20008 + 8 ≤ buf ∨ last ≤ s.droverReg 0 0 + 0x20008) ∧
       (s.droverReg 0 1 + 32 ≤ buf ∨ last ≤ s.droverReg 0 1) ∧ 0 < s.ringWaits 0 ∧ s.destRows 0 0 = 31) ∧
    (∃ row, lastRow.droverAct 0 mappedRegion = .send 0 row ∧ row.length = 8) ∧
    (let s := drainedRing
     s.wfMem ∧ s.host.mig = none ∧ s.ringClear 0 = true ∧ s.droverReg 0 2 = 1 ∧ s.droverRegion 0 = some mappedRegion ∧
       s.ringAhead 0 ≤ 4096 ∧ s.ringWaits 0 = 0 ∧ (s.drover 0).pending = [(0, 1)] ∧ s.countsClear 0 [0] = true) ∧
    (∀ n ∈ [0, 1, 2], (State.reset.modAlavis (fun a => { a with failedBoots := n })).alavis.failedBoots = n) := by
  refine ⟨?_, ⟨_, rfl, rfl⟩, ?_, ?_⟩ <;> decide

end Sys2Proof.Tests
end

/-! SUPPORT. How a lone bundle ends that fails its check of mode (R42, R46 step 6), and from it the obligation on the
supervisor forms. -/

namespace Sys2Proof.Machine

/-! ### A fault of R46 at the gate -/

/-- Once the features are accepted, a failed check of mode decides the fault (R46, steps 5 and 6). -/
theorem issueFault_privilege {i : Instr} {s : State} (hfeat : featOk s i = true) (hpriv : privOk s i = false) (w5 : Word) :
    issueFault s [(i, w5)] = some (flt5 fPrivilege w5) := by
  simp [issueFault, firstBad, hfeat, hpriv]

/-- A bundle that keeps the pairing rule meets its issue-time fault at the gate. -/
theorem gate_of_issueFault {i : Instr} {s : State} {w5 : Word} {f : Flt} (hpair : bundleOk s [i] = true)
    (hfault : issueFault s [(i, w5)] = some f) : gate s [(i, w5)] = some (.fault f) := by
  simp [gate, pairingFault, hpair, hfault]

/-- A fault at the gate stops the thread at its bundle, whatever the effect of the instruction (R24, R44). -/
theorem run_gate_fault {i : Instr} {s : State} {eff : State → Res} {f : Flt} (hlone : s.bun.active = false)
    (hgate : gate s [(i, issueW5 s.bun.word i.shape.arith)] = some (.fault f)) :
    run i s eff = .next (stopThread { s with bun := Bun.none } s.bun.cid s.bun.slot f s.bun.addr) := by
  simp [run, hlone, hgate, gateEnd]

/-- Word 5 of an issue-time fault of a control word is the word alone (R44). -/
@[simp] theorem issueW5_control (word : Nat) : issueW5 word false = wrap64 (word % 2 ^ 32) := by simp [issueW5]

/-! ### The checks of feature and mode -/

/-- An instruction that names no feature and no destination register meets no check of R41. -/
theorem featOk_of_no_feature {i : Instr} (s : State) (hfeat : i.shape.feat = none) (hdest : i.shape.gd = none) :
    featOk s i = true := by
  simp [featOk, hfeat, hdest]

/-- In user mode a supervisor instruction fails the check of mode (R42). -/
theorem privOk_user_of_sup {i : Instr} {s : State} (huser : isSup s.bun.cid = false) (hsup : i.shape.sup = true) :
    privOk s i = false := by
  simp [privOk, huser, hsup]

/-- In user mode a write to a special register of the supervisor fails the check of mode (R42, R82). -/
theorem privOk_user_of_wrsr {b : Reg} {sr : SrNum} {s : State} (huser : isSup s.bun.cid = false)
    (hsr : srSup sr.val = true) : privOk s (.wrsr b sr) = false := by
  simp [privOk, huser, hsr]

/-- The special registers that only a supervisor writes: `allow`, `seed` and `mxprog` (R81, R82). -/
theorem srSup_iff (n : Nat) : srSup n = true ↔ n = 7 ∨ n = 9 ∨ n = 13 := by simp [srSup, or_assoc]

/-! ### The obligation -/

/-- A control word without feature and destination that fails the check of mode stops with PRIVILEGE and itself in word 5
(R42, R44). -/
theorem exec_privilege {i : Instr} {s : State} {eff : State → Res} (hrun : exec i s = run i s eff)
    (hlone : s.bun.active = false) (hpair : bundleOk s [i] = true) (harith : i.shape.arith = false)
    (hfeat : i.shape.feat = none) (hdest : i.shape.gd = none) (hpriv : privOk s i = false) :
    exec i s = .next (stopThread { s with bun := Bun.none } s.bun.cid s.bun.slot
      (flt5 fPrivilege (wrap64 (s.bun.word % 2 ^ 32))) s.bun.addr) := by
  have hfault := issueFault_privilege (featOk_of_no_feature s hfeat hdest) hpriv (issueW5 s.bun.word i.shape.arith)
  have hstop := run_gate_fault (eff := eff) hlone (gate_of_issueFault hpair hfault)
  rw [hrun, hstop, harith, issueW5_control]

/-- Settles O51: the check of mode fails for each form, by its shape or by the special register it writes, before any later
check, and its meaning is a `run` that ends there. -/
theorem supervisorFormsRaisePrivilegeInUserMode : Obligations.SupervisorFormsRaisePrivilegeInUserMode := by
  unfold Obligations.SupervisorFormsRaisePrivilegeInUserMode
  intro a b g sr s hlone _ huser i hi hpair
  rcases List.mem_append.mp hi with hform | hwrite
  · simp only [List.mem_cons, List.not_mem_nil, or_false] at hform
    obtain rfl | rfl | rfl | rfl := hform
    · exact exec_privilege (execSegset.eq_1 a b g s) hlone hpair rfl rfl rfl (privOk_user_of_sup huser rfl)
    · exact exec_privilege (execCtxsave.eq_1 a s) hlone hpair rfl rfl rfl (privOk_user_of_sup huser rfl)
    · exact exec_privilege (execCtxload.eq_1 a s) hlone hpair rfl rfl rfl (privOk_user_of_sup huser rfl)
    · exact exec_privilege (execEret.eq_1 s) hlone hpair rfl rfl rfl (privOk_user_of_sup huser rfl)
  · obtain ⟨hsr, hmem⟩ := List.mem_ite_nil_right.mp hwrite
    obtain rfl := List.mem_singleton.mp hmem
    exact exec_privilege (execWrsr.eq_1 b sr s) hlone hpair rfl rfl rfl
      (privOk_user_of_wrsr huser ((srSup_iff _).mpr hsr))

end Sys2Proof.Machine

/-! SUPPORT. The integer instructions of class 1 (R86, R87): what R85 makes of an exact result, the end of a lone instruction
of two operands or one, and from them the obligations on the add, logic, compare and multiply groups. -/

namespace Sys2Proof.Machine

/-! ### Results at width n (R85) -/

@[simp] theorem uView_false (v : Word) : uView false v = v.toNat := Nat.mod_eq_of_lt v.isLt
@[simp] theorem atWidth_false (v : Word) : atWidth false v = v := rfl
@[simp] theorem atWidth_true (v : Word) : atWidth true v = (v.setWidth 32).signExtend 64 := rfl

@[simp] theorem uView_wrap64 (w : Bool) (k : Nat) : uView w (wrap64 k) = k % 2 ^ wBits w := by
  cases w <;> simp only [uView, wrap64, wBits, BitVec.toNat_ofNat] <;> simp

/-- A result at width n depends on its low n bits alone. -/
theorem atWidth_congr {w : Bool} {u v : Word} (h : uView w u = uView w v) : atWidth w u = atWidth w v := by
  cases w with
  | false => exact BitVec.eq_of_toNat_eq (by simpa using h)
  | true =>
    have hlow : u.setWidth 32 = v.setWidth 32 := BitVec.eq_of_toNat_eq (by simpa [uView, wBits] using h)
    rw [atWidth_true, atWidth_true, hlow]

@[simp] theorem uView_atWidth (w : Bool) (v : Word) : uView w (atWidth w v) = uView w v := by
  cases w with
  | false => rfl
  | true =>
    have hlow : ((v.setWidth 32).signExtend 64).setWidth 32 = v.setWidth 32 := by
      refine BitVec.eq_of_getLsbD_eq fun j hj => ?_
      rw [BitVec.getLsbD_setWidth, BitVec.getLsbD_signExtend, if_pos hj]
      simp only [hj, show j < 64 by omega, decide_true, Bool.true_and]
    simpa [uView, wBits, atWidth] using congrArg BitVec.toNat hlow

/-- The signed view is the value of the sign-extended low bits. -/
theorem toInt_atWidth (w : Bool) (v : Word) : (atWidth w v).toInt = sView w v := by
  cases w with
  | false => rfl
  | true => exact BitVec.toInt_signExtend_of_le (by decide)

/-- The low bits of an integer are those of its word. -/
theorem setWidth_wrapI (x : Int) : (wrapI x).setWidth 32 = BitVec.ofInt 32 x := by
  apply BitVec.eq_of_toNat_eq
  have hmod := Int.emod_emod_of_dvd x (Int.natCast_dvd_natCast.mpr (Nat.pow_dvd_pow 2 (show 32 ≤ 64 by decide)))
  rw [wrapI, BitVec.toNat_setWidth, BitVec.toNat_ofInt, BitVec.toNat_ofInt, ← hmod,
    Int.toNat_emod (Int.emod_nonneg _ (by decide)) (by decide)]
  rfl

/-- Without saturation `fin` keeps the low n bits of the exact result, sign-extended. -/
theorem fin_wrap (w : Bool) (x : Int) : fin .wrap w x = atWidth w (wrapI x) := by
  cases w with
  | false => simp [fin, clampMod, wrapI]
  | true =>
    rw [atWidth_true, setWidth_wrapI]
    simp [fin, clampMod]

/-- The result of a number whose n low bits are those of a word. -/
theorem fin_wrap_nat {w : Bool} {k : Nat} {v : Word} (h : k % 2 ^ wBits w = uView w v) :
    fin .wrap w (k : Int) = atWidth w v := by
  rw [fin_wrap, wrapI, BitVec.ofInt_natCast]
  exact atWidth_congr ((uView_wrap64 w k).trans h)

theorem fin_wrap_uView (w : Bool) (v : Word) : fin .wrap w (uView w v : Int) = atWidth w v :=
  fin_wrap_nat (Nat.mod_mod _ _)

theorem fin_wrap_of_uView_eq {w : Bool} {k : Nat} {v : Word} (h : uView w v = k) : fin .wrap w (k : Int) = atWidth w v :=
  h ▸ fin_wrap_uView w v

theorem fin_wrap_toInt (w : Bool) (v : Word) : fin .wrap w v.toInt = atWidth w v := by
  rw [fin_wrap, wrapI, BitVec.ofInt_toInt]

theorem fin_wrap_sView (w : Bool) (v : Word) : fin .wrap w (sView w v) = atWidth w v := by
  rw [← toInt_atWidth, fin_wrap_toInt]
  exact atWidth_congr (uView_atWidth w v)

/-! ### The n-bit views of words (R85, R86) -/

theorem wBits_le (w : Bool) : wBits w ≤ 64 := by cases w <;> decide

theorem uView_and (w : Bool) (x y : Word) : uView w (x &&& y) = uView w x &&& uView w y := by
  simp only [uView, BitVec.toNat_and, Nat.and_mod_two_pow]
theorem uView_or (w : Bool) (x y : Word) : uView w (x ||| y) = uView w x ||| uView w y := by
  simp only [uView, BitVec.toNat_or, Nat.or_mod_two_pow]
theorem uView_xor (w : Bool) (x y : Word) : uView w (x ^^^ y) = uView w x ^^^ uView w y := by
  simp only [uView, BitVec.toNat_xor, Nat.xor_mod_two_pow]
theorem uView_not (w : Bool) (y : Word) : uView w (~~~y) = notView w y := by
  have hy := y.isLt
  cases w <;> simp only [uView, notView, wBits, BitVec.toNat_not, if_true, if_false, Bool.false_eq_true] <;> omega

theorem uView_shiftLeft (w : Bool) (x : Word) (k : Nat) : uView w (x <<< k) = uView w x * 2 ^ k % 2 ^ wBits w := by
  have hdvd : 2 ^ wBits w ∣ 2 ^ 64 := Nat.pow_dvd_pow 2 (wBits_le w)
  simp only [uView, BitVec.toNat_shiftLeft, Nat.shiftLeft_eq, Nat.mod_mod_of_dvd _ hdvd, Nat.mod_mul_mod]

theorem toNat_zeroWidth (w : Bool) (x : Word) : (zeroWidth w x).toNat = uView w x := by
  cases w with
  | false => exact (Nat.mod_eq_of_lt x.isLt).symm
  | true =>
    simp only [zeroWidth, uView, wBits, if_true, BitVec.toNat_setWidth]
    omega

theorem toInt_sshiftRight_atWidth (w : Bool) (x : Word) (k : Nat) :
    ((atWidth w x).sshiftRight k).toInt = sView w x / 2 ^ k := by
  rw [BitVec.toInt_sshiftRight, Int.shiftRight_eq_div_pow, toInt_atWidth]
  norm_cast

/-! ### The end of a register instruction -/

/-- An instruction of two source fields writes its function of the operands to d. -/
theorem gives_eff2 {i : Instr} {s : State} {d a b : Reg} {f : Word → Word → Word} {v : Word}
    (hrun : exec i s = run i s (eff2 d a b f)) (hgs : i.shape.gs = [a, b])
    (hval : f (s.operand a) (s.operand b) = v) : Gives i s d v := by
  intro h
  rw [hrun, run_dest h]
  simp only [eff2, putD, enter_src h a (by simp [hgs]), enter_src h b (by simp [hgs]), hval]

/-- An instruction of one source field writes its function of the operand to d. -/
theorem gives_eff1 {i : Instr} {s : State} {d a : Reg} {f : Word → Word} {v : Word}
    (hrun : exec i s = run i s (eff1 d a f)) (hgs : i.shape.gs = [a]) (hval : f (s.operand a) = v) : Gives i s d v := by
  intro h
  rw [hrun, run_dest h]
  simp only [eff1, putD, enter_src h a (by simp [hgs]), hval]

theorem exact2_eq (m : IntMod) (w : Bool) (f : Int → Int → Int) (x y : Word) :
    exact2 m w f x y = if m = .sat then fin m w (f (sView w x) (sView w y)) else fin m w (f (uView w x) (uView w y)) := by
  cases m <;> rfl

/-! ### Selection (R86) -/

theorem sel_writes {w : Bool} {d a b : Reg} {s : State} (hA : uView w (s.operand a) ≠ 0) :
    Gives (.sel w d a b) s d (atWidth w (s.operand b)) := by
  intro h
  refine (execSel.eq_1 w d a b s).trans (run_dest h ?_)
  rw [enter_src h a (by simp [Instr.shape]), if_pos hA, enter_src h b (by simp [Instr.shape]), fin_wrap_uView]
  rfl

theorem sel_writes_nothing {w : Bool} {d a b : Reg} {s : State} (hA : uView w (s.operand a) = 0)
    (h : Issues (.sel w d a b) s) : exec (.sel w d a b) s = .next (s.issued (.sel w d a b) []) := by
  refine (execSel.eq_1 w d a b s).trans (run_acts h ?_)
  rw [enter_src h a (by simp [Instr.shape]), if_neg (not_not_intro hA), withActs_nil]

/-- Settles O1: each form is an `eff2` or `eff1` whose value agrees with R86 at the width of R85. -/
theorem addLogicAndCompareGroupsHaveTheirEffects : Obligations.AddLogicAndCompareGroupsHaveTheirEffects := by
  unfold Obligations.AddLogicAndCompareGroupsHaveTheirEffects
  intro w m d a b s
  refine ⟨gives_eff2 rfl rfl (exact2_eq m w _ _ _), gives_eff2 rfl rfl (exact2_eq m w _ _ _), gives_eff2 rfl rfl ?min,
    gives_eff2 rfl rfl ?max, gives_eff2 rfl rfl ?minu, gives_eff2 rfl rfl ?maxu, gives_eff1 rfl rfl (fin_wrap_uView w _),
    sel_writes, sel_writes_nothing, gives_eff2 rfl rfl ?and, gives_eff2 rfl rfl ?or, gives_eff2 rfl rfl ?xor,
    gives_eff2 rfl rfl ?andn, gives_eff2 rfl rfl ?orn, gives_eff2 rfl rfl ?shl, gives_eff2 rfl rfl ?shr,
    gives_eff2 rfl rfl ?sra, gives_eff2 rfl rfl ?eq, gives_eff2 rfl rfl ?ne, gives_eff2 rfl rfl ?lt, gives_eff2 rfl rfl ?ge,
    gives_eff2 rfl rfl ?ltu, gives_eff2 rfl rfl ?geu⟩
  all_goals generalize s.operand a = x, s.operand b = y
  case min => rw [min_def, apply_ite (fin .wrap w), fin_wrap_sView, fin_wrap_sView, apply_ite (atWidth w)]
  case max => rw [max_def, apply_ite (fin .wrap w), fin_wrap_sView, fin_wrap_sView, apply_ite (atWidth w)]
  case minu =>
    rw [min_def, apply_ite Nat.cast, apply_ite (fin .wrap w), fin_wrap_uView, fin_wrap_uView, apply_ite (atWidth w)]
  case maxu =>
    rw [max_def, apply_ite Nat.cast, apply_ite (fin .wrap w), fin_wrap_uView, fin_wrap_uView, apply_ite (atWidth w)]
  case and => exact fin_wrap_of_uView_eq (uView_and w x y)
  case or => exact fin_wrap_of_uView_eq (uView_or w x y)
  case xor => exact fin_wrap_of_uView_eq (uView_xor w x y)
  case andn => exact fin_wrap_of_uView_eq ((uView_and w x _).trans (congrArg _ (uView_not w y)))
  case orn => exact fin_wrap_of_uView_eq ((uView_or w x _).trans (congrArg _ (uView_not w y)))
  case shl => exact fin_wrap_nat (uView_shiftLeft w x _).symm
  case shr =>
    refine fin_wrap_nat (congrArg (· % 2 ^ wBits w) ?_)
    rw [BitVec.toNat_ushiftRight, Nat.shiftRight_eq_div_pow, toNat_zeroWidth]
    rfl
  case sra => exact toInt_sshiftRight_atWidth w x _ ▸ fin_wrap_toInt w _
  case eq => simp only [Cond.holds, decide_eq_true_eq]
  case ne => simp only [Cond.holds, decide_eq_true_eq, ne_eq, ite_not]
  case lt => simp only [Cond.holds, decide_eq_true_eq]
  case ge => simp only [Cond.holds, decide_eq_true_eq, ← not_lt, ite_not]
  case ltu => simp only [Cond.holds, decide_eq_true_eq]
  case geu => simp only [Cond.holds, decide_eq_true_eq, ← not_lt, ite_not]

end Sys2Proof.Machine

/-! SUPPORT. The multiply group (R87): division by zero, overflow, and the unassigned last sub-opcode. -/

namespace Sys2Proof.Machine

/-! ### Division (R87) -/

/-- −1 is all ones at either width. -/
theorem fin_wrap_neg_one (w : Bool) : fin .wrap w (-1) = -1 := by cases w <;> decide

/-- The number of n ones is written as all ones. -/
theorem fin_wrap_all_ones (w : Bool) : fin .wrap w ((2 ^ wBits w - 1 : Nat) : Int) = -1 := by cases w <;> decide

theorem fin_wrap_divS (w : Bool) (x y : Word) :
    fin .wrap w (divS w x y) = if sView w y = 0 then -1 else fin .wrap w ((sView w x).tdiv (sView w y)) := by
  rw [divS, apply_ite (fin .wrap w), fin_wrap_neg_one]

theorem fin_wrap_divU (w : Bool) (x y : Word) :
    fin .wrap w (divU w x y : Int) = if uView w y = 0 then -1 else fin .wrap w ((uView w x / uView w y : Nat) : Int) := by
  rw [divU, apply_ite Nat.cast, apply_ite (fin .wrap w), fin_wrap_all_ones]

theorem fin_wrap_remS (w : Bool) (x y : Word) :
    fin .wrap w (remS w x y) = if sView w y = 0 then atWidth w x
      else fin .wrap w (sView w x - sView w y * (sView w x).tdiv (sView w y)) := by
  rw [remS, apply_ite (fin .wrap w), fin_wrap_sView, Int.tmod_def]

theorem fin_wrap_remU (w : Bool) (x y : Word) :
    fin .wrap w (remU w x y : Int) = if uView w y = 0 then atWidth w x
      else fin .wrap w ((uView w x - uView w y * (uView w x / uView w y) : Nat) : Int) := by
  rw [remU, apply_ite Nat.cast, apply_ite (fin .wrap w), fin_wrap_uView, Nat.mod_eq_sub]

/-- The quotient of an overflow is the dividend, and its remainder 0. -/
theorem fin_wrap_overflow {w : Bool} {x y : Word} (hx : sView w x = -(2 ^ (wBits w - 1))) (hy : sView w y = -1) :
    fin .wrap w (divS w x y) = wrapI (-(2 ^ (wBits w - 1))) ∧ fin .wrap w (remS w x y) = 0 := by
  rw [divS, remS, hx, hy]
  cases w <;> decide

/-! ### Unassigned sub-opcodes (R37, R44) -/

/-- The word of an arithmetic instruction of the groups of R37, written out from its fields. -/
def intWord (lone w : Bool) (grp sub : Nat) (d a b : Reg) : Nat :=
  (if lone then 2 ^ 31 else 0) + 2 ^ 30 + (if w then 2 * grp + 1 else 2 * grp) * 2 ^ 24 + d.val * 2 ^ 18 + a.val * 2 ^ 12 +
    b.val * 2 ^ 6 + sub

theorem decodeWord_intWord (lone w : Bool) (grp : Fin 5) (sub : Fin 8) (d a b : Reg) :
    decodeWord (intWord lone w grp sub d a b) = decInt grp w d a b 0 sub := by
  have hword : intWord lone w grp sub d a b =
      wordOf lone ⟨true, ⟨2 * grp.val + w.toNat, by have := w.toNat_le; omega⟩, d, a, b, hilo 0 sub⟩ := by
    cases lone <;> cases w <;> simp [intWord, wordOf, hilo]
  rw [hword, decodeWord, Laws.chunksOf_wordOf, decodeChunks, Laws.hi3_hilo, Laws.lo3_hilo, if_pos rfl]
  fin_cases grp <;> cases w <;> rfl

/-- Settles O2: each form is an `eff2` whose value agrees with R87, the corners of division by the lemmas on `divS` to `remU`,
and the word with sub 111 reaches no row of the decoder's table. -/
theorem divisionTruncatesAndDefinesDivisorZero : Obligations.DivisionTruncatesAndDefinesDivisorZero := by
  unfold Obligations.DivisionTruncatesAndDefinesDivisorZero
  intro w d a b s
  refine ⟨fun m => gives_eff2 rfl rfl ?mul, gives_eff2 rfl rfl ?mulh, gives_eff2 rfl rfl rfl,
    gives_eff2 rfl rfl (fin_wrap_divS w _ _), gives_eff2 rfl rfl (fin_wrap_divU w _ _), gives_eff2 rfl rfl (fin_wrap_remS w _ _),
    gives_eff2 rfl rfl (fin_wrap_remU w _ _), fun hx hy => ⟨gives_eff2 rfl rfl (fin_wrap_overflow hx hy).1,
      gives_eff2 rfl rfl (fin_wrap_overflow hx hy).2⟩, fun lone => decodeWord_intWord lone w 1 7 d a b⟩
  case mul => rw [exact2_eq, Nat.cast_mul]
  case mulh => exact congrArg (fin .wrap w) (Int.fdiv_eq_ediv_of_nonneg _ (Int.pow_nonneg (by decide))).symm

end Sys2Proof.Machine

/-! SUPPORT. The bit group (R88): counts, fields and rotations of an n-bit view, bit by bit. -/

namespace Sys2Proof.Machine

/-! ### Counts of bits (R88) -/

theorem uView_lt (w : Bool) (v : Word) : uView w v < 2 ^ wBits w := Nat.mod_lt _ (by positivity)

/-- A count fits every width, and its sign bit is clear. -/
theorem fin_wrap_count {w : Bool} {k : Nat} (h : k ≤ wBits w) : fin .wrap w (k : Int) = wrap64 k := by
  have hk : k ≤ 64 := h.trans (wBits_le w)
  rw [fin_wrap, wrapI, BitVec.ofInt_natCast]
  cases w with
  | false => rfl
  | true =>
    rw [atWidth_true, BitVec.signExtend_eq_setWidth_of_msb_false]
    · apply BitVec.eq_of_toNat_eq
      simp only [wrap64, BitVec.toNat_setWidth, BitVec.toNat_ofNat]
      omega
    · simp only [BitVec.msb_eq_false_iff_two_mul_lt, BitVec.toNat_setWidth, BitVec.toNat_ofNat]
      omega

theorem clzView_le (w : Bool) (x : Word) : clzView w x ≤ wBits w := by
  unfold clzView
  split <;> omega

/-- Bits from n − CLZ on are clear. -/
theorem testBit_of_clzView_le {w : Bool} {x : Word} {j : Nat} (hj : wBits w - clzView w x ≤ j) :
    (uView w x).testBit j = false := by
  unfold clzView at hj
  split at hj
  next hzero => simp [hzero]
  next hne =>
    have hlog := (Nat.log2_lt hne).mpr (uView_lt w x)
    exact Nat.testBit_lt_two_pow (Nat.lt_log2_self.trans_le (Nat.pow_le_pow_right (by decide) (by omega)))

/-- The bit below the leading zeros is set. -/
theorem testBit_clzView {w : Bool} {x : Word} (h : clzView w x < wBits w) :
    (uView w x).testBit (wBits w - 1 - clzView w x) = true := by
  unfold clzView at h ⊢
  split at h
  next => exact absurd h (Nat.lt_irrefl _)
  next hne =>
    have hlog := (Nat.log2_lt hne).mpr (uView_lt w x)
    rw [if_neg hne, show wBits w - 1 - (wBits w - 1 - (uView w x).log2) = (uView w x).log2 by omega]
    exact Nat.testBit_log2 hne

theorem lowZeros_le (k n : Nat) : lowZeros k n ≤ k := by
  induction k generalizing n with
  | zero => exact Nat.le_refl 0
  | succ k ih =>
    have := ih (n / 2)
    unfold lowZeros
    split <;> omega

theorem testBit_of_lt_lowZeros {k n j : Nat} (hj : j < lowZeros k n) : n.testBit j = false := by
  induction k generalizing n j with
  | zero => exact absurd hj (Nat.not_lt_zero j)
  | succ k ih =>
    unfold lowZeros at hj
    split at hj
    next => exact absurd hj (Nat.not_lt_zero j)
    next heven =>
      cases j with
      | zero => simpa using heven
      | succ j => rw [Nat.testBit_succ, ih (by omega)]

theorem testBit_lowZeros {k n : Nat} (h : lowZeros k n < k) : n.testBit (lowZeros k n) = true := by
  induction k generalizing n with
  | zero => exact absurd h (Nat.not_lt_zero _)
  | succ k ih =>
    unfold lowZeros at h ⊢
    split at h
    next hodd => simp [hodd]
    next heven => rw [if_neg heven, Nat.add_comm, Nat.testBit_succ, ih (by omega)]

@[simp] theorem lowZeros_zero (k : Nat) : lowZeros k 0 = k := by
  induction k with
  | zero => rfl
  | succ k ih => simp [lowZeros, ih, Nat.add_comm]

theorem ctzView_eq (w : Bool) (x : Word) : ctzView w x = lowZeros (wBits w) (uView w x) := by
  unfold ctzView
  split
  next hzero => rw [hzero, lowZeros_zero]
  next => rfl

theorem popcAux_eq (k n : Nat) : popcAux k n = (List.range k).countP (fun j => n.testBit j) := by
  induction k generalizing n with
  | zero => rfl
  | succ k ih =>
    have htail : (fun j => n.testBit j) ∘ Nat.succ = fun j => (n / 2).testBit j := funext (Nat.testBit_succ n)
    rw [popcAux, ih, List.range_succ_eq_map, List.countP_cons, List.countP_map, htail, Nat.testBit_zero, Nat.add_comm]
    rcases Nat.mod_two_eq_zero_or_one n with h | h <;> simp [h]

theorem popcView_le (w : Bool) (x : Word) : popcView w x ≤ wBits w := by
  rw [popcView, popcAux_eq]
  exact List.countP_le_length.trans_eq List.length_range

/-! ### Fields (R88, (4.3) and (4.4)) -/

theorem fieldWidth_le (w : Bool) (y : Word) : fieldWidth w y ≤ wBits w := Nat.min_le_right _ _

/-- The field that `BFX` extracts, before its sign is extended. -/
def bfxField (w : Bool) (x y : Word) : Nat := uView w x / 2 ^ fieldPos y % 2 ^ fieldWidth w y

theorem bfxField_lt (w : Bool) (x y : Word) : bfxField w x y < 2 ^ fieldWidth w y := Nat.mod_lt _ (by positivity)

theorem bfxField_lt_width (w : Bool) (x y : Word) : bfxField w x y < 2 ^ wBits w :=
  (bfxField_lt w x y).trans_le (Nat.pow_le_pow_right (by decide) (fieldWidth_le w y))

theorem testBit_bfxField (w : Bool) (x y : Word) (j : Nat) :
    (bfxField w x y).testBit j = (decide (j < fieldWidth w y) && (uView w x).testBit (fieldPos y + j)) := by
  rw [bfxField, Nat.testBit_mod_two_pow, Nat.testBit_div_two_pow, Nat.add_comm]

/-- The top bit of a number of k + 1 bits. -/
theorem testBit_top_iff {k f : Nat} (hf : f < 2 ^ (k + 1)) : f.testBit k = true ↔ 2 ^ k ≤ f :=
  ⟨Nat.ge_two_pow_of_testBit, fun hle => Nat.testBit_of_two_pow_le_and_two_pow_add_one_gt hle hf⟩

theorem bfxVal_unsigned (w : Bool) (x y : Word) : bfxVal false w x y = (bfxField w x y : Int) := by
  simp [bfxVal, bfxField]

theorem bfxVal_signed (w : Bool) (x y : Word) :
    bfxVal true w x y = if 0 < fieldWidth w y ∧ (bfxField w x y).testBit (fieldWidth w y - 1) = true
      then (bfxField w x y : Int) - 2 ^ fieldWidth w y else (bfxField w x y : Int) := by
  have htop : 0 < fieldWidth w y → ((bfxField w x y).testBit (fieldWidth w y - 1) = true ↔
      2 ^ (fieldWidth w y - 1) ≤ bfxField w x y) := fun hpos =>
    testBit_top_iff (by rw [Nat.sub_add_cancel hpos]; exact bfxField_lt w x y)
  refine if_congr ?_ rfl rfl
  rw [and_congr_right htop, Bool.true_and, Bool.and_eq_true, decide_eq_true_eq, decide_eq_true_eq]
  rfl

/-- The mask of the bits that `BFI` writes. -/
def bfiMask (w : Bool) (y : Word) : Nat := (2 ^ fieldWidth w y - 1) * 2 ^ fieldPos y % 2 ^ wBits w

theorem testBit_bfiMask {w : Bool} {j : Nat} (y : Word) (hj : j < wBits w) :
    (bfiMask w y).testBit j = decide (fieldPos y ≤ j ∧ j < fieldPos y + fieldWidth w y) := by
  rw [bfiMask, Nat.testBit_mod_two_pow, Nat.testBit_mul_two_pow, Nat.testBit_two_pow_sub_one]
  grind

theorem bfiVal_eq (w : Bool) (v x y : Word) : bfiVal w v x y =
    uView w v &&& (2 ^ wBits w - (bfiMask w y + 1)) ||| uView w x * 2 ^ fieldPos y &&& bfiMask w y := by
  rw [Nat.sub_add_eq, Nat.sub_right_comm]
  rfl

theorem bfiMask_lt (w : Bool) (y : Word) : bfiMask w y < 2 ^ wBits w := Nat.mod_lt _ (by positivity)

theorem bfiVal_lt (w : Bool) (v x y : Word) : bfiVal w v x y < 2 ^ wBits w := by
  rw [bfiVal_eq]
  exact Nat.or_lt_two_pow (Nat.and_lt_two_pow _ (by have := bfiMask_lt w y; omega)) (Nat.and_lt_two_pow _ (bfiMask_lt w y))

theorem testBit_bfiVal {w : Bool} {j : Nat} (v x y : Word) (hj : j < wBits w) :
    (bfiVal w v x y).testBit j = if fieldPos y ≤ j ∧ j < fieldPos y + fieldWidth w y
      then (uView w x).testBit (j - fieldPos y) else (uView w v).testBit j := by
  rw [bfiVal_eq, Nat.testBit_or, Nat.testBit_and, Nat.testBit_and, Nat.testBit_two_pow_sub_succ (bfiMask_lt w y),
    testBit_bfiMask y hj, Nat.testBit_mul_two_pow]
  by_cases hfield : fieldPos y ≤ j ∧ j < fieldPos y + fieldWidth w y
  · rw [if_pos hfield, decide_eq_true hfield]
    simp [hfield.1]
  · rw [if_neg hfield, decide_eq_false hfield]
    simp [hj]

/-! ### Rotation (R88) -/

/-- A rotation by less than the width, as the sum of its two parts. -/
theorem toNat_rotateLeft_eq {n k : Nat} (x : BitVec n) (hk : k < n) :
    (x.rotateLeft k).toNat = (x.toNat * 2 ^ k + x.toNat / 2 ^ (n - k)) % 2 ^ n := by
  have hlow : x.toNat / 2 ^ (n - k) < 2 ^ k := by
    rw [Nat.div_lt_iff_lt_mul (by positivity), ← Nat.pow_add, Nat.add_sub_cancel' hk.le]
    exact x.isLt
  have hhigh : x.toNat * 2 ^ k % 2 ^ n = x.toNat % 2 ^ (n - k) * 2 ^ k := by
    rw [← Nat.mul_mod_mul_right, ← Nat.pow_add, Nat.sub_add_cancel hk.le]
  have hsum : x.toNat % 2 ^ (n - k) * 2 ^ k + x.toNat / 2 ^ (n - k) < 2 ^ n := by
    have := Nat.mul_add_lt_mul_of_lt_of_lt (Nat.mod_lt x.toNat (Nat.two_pow_pos (n - k))) hlow
    rwa [← Nat.pow_add, Nat.sub_add_cancel hk.le, Nat.mul_comm] at this
  rw [BitVec.toNat_rotateLeft, Nat.mod_eq_of_lt hk, Nat.shiftLeft_eq, Nat.shiftRight_eq_div_pow, hhigh, ← Nat.shiftLeft_eq,
    ← Nat.shiftLeft_add_eq_or_of_lt hlow, Nat.shiftLeft_eq, ← Nat.mod_add_mod, hhigh, Nat.mod_eq_of_lt hsum]

theorem fin_wrap_rolVal (w : Bool) (x y : Word) : fin .wrap w (rolVal w x y : Int) =
    if w then ((x.setWidth 32).rotateLeft (y.toNat % 32)).signExtend 64 else x.rotateLeft (y.toNat % 64) := by
  rw [fin_wrap, wrapI, BitVec.ofInt_natCast]
  cases w with
  | false =>
    have hrot : rolVal false x y = (x.rotateLeft (y.toNat % 64)).toNat := by
      rw [toNat_rotateLeft_eq x (Nat.mod_lt _ (by decide)), rolVal, uView_false]
      rfl
    rw [hrot, atWidth_false, BitVec.ofNat_toNat, BitVec.setWidth_eq]
    rfl
  | true =>
    have hrot : rolVal true x y = ((x.setWidth 32).rotateLeft (y.toNat % 32)).toNat := by
      rw [toNat_rotateLeft_eq _ (Nat.mod_lt _ (by decide)), rolVal, uView, BitVec.toNat_setWidth]
      rfl
    rw [hrot, atWidth_true, BitVec.ofNat_toNat, BitVec.setWidth_setWidth_of_le _ (by decide), BitVec.setWidth_eq]
    rfl

/-! ### A third source (R90) -/

theorem Table.find_none_of_ne {α : Type} {t : List (Nat × α)} {a : Nat} (h : ∀ e ∈ t, e.1 ≠ a) :
    Table.find t a = none := by
  induction t with
  | nil => rfl
  | cons e t ih => rw [Table.find, if_neg (h e List.mem_cons_self), ih fun e he => h e (List.mem_cons_of_mem _ he)]

/-- A register that pops nothing has no value of its own in a bundle. -/
theorem find_peekVals_of_plain {s : State} {r : Nat} (is : List Instr) (h : (s.core s.bun.cid).srcKind r = .plain) :
    Table.find (peekVals s is) r = none := by
  refine Table.find_none_of_ne fun e he heq => ?_
  obtain ⟨q, hq, hv⟩ := List.mem_filterMap.mp he
  obtain ⟨v, -, rfl⟩ := Option.map_eq_some_iff.mp hv
  obtain rfl : q = r := heq
  have hpops := (List.mem_filter.mp hq).2
  rw [h] at hpops
  exact Bool.false_ne_true hpops

/-- A third source passes step 7 of R46 only while it is plain. -/
theorem srcKind_of_third {i : Instr} {s : State} {r : Reg} (h : operandOk s i = true) (hr : r ∈ i.shape.third) :
    (s.core s.bun.cid).srcKind r.val = .plain := by
  simp only [operandOk, Bool.and_eq_true, List.all_eq_true] at h
  obtain ⟨⟨⟨-, hthird⟩, -⟩, -⟩ := h
  have hplain := hthird r hr
  simp only [decide_eq_true_eq] at hplain
  exact hplain.1

/-- The value an entered bundle reads for a third source is the register itself. -/
theorem enter_third {i : Instr} {s : State} (h : Issues i s) {r : Reg} (hr : r ∈ i.shape.third) :
    (s.enter [i]).src r = s.own r := by
  obtain ⟨-, hagain, -, -, -, hoperand, -⟩ := h
  have hvals : (s.enter [i]).bun.vals = peekVals s [i] := by simp [State.enter, hagain]
  have hnew : (s.enter [i]).bun.again = false := hagain
  rw [State.src, State.srcN, hvals, find_peekVals_of_plain [i] (srcKind_of_third hoperand hr), if_neg (by simp [hnew])]
  rfl

/-- `BFI` reads d as its third source. -/
theorem bfi_gives (w : Bool) (d a b : Reg) (s : State) :
    Gives (.bfi w d a b) s d (fin .wrap w (bfiVal w (s.own d) (s.operand a) (s.operand b))) := by
  intro h
  refine (execBfi.eq_1 w d a b s).trans (run_dest h ?_)
  rw [enter_third h (r := d) (by simp [Instr.shape]), enter_src h a (by simp [Instr.shape]),
    enter_src h b (by simp [Instr.shape])]
  rfl

/-- Settles O3: counts and fields are described bit by bit by the lemmas on `clzView` to `bfiVal`, the rotation by its two
parts, and the words with sub 110 and 111 reach no row of the decoder's table. -/
theorem bitCountsAndFieldsAreTheirBits : Obligations.BitCountsAndFieldsAreTheirBits := by
  unfold Obligations.BitCountsAndFieldsAreTheirBits
  intro w d a b s
  refine ⟨⟨_, clzView_le w _, fun _ => testBit_of_clzView_le, testBit_clzView,
      gives_eff1 rfl rfl (fin_wrap_count (clzView_le w _))⟩,
    ⟨_, lowZeros_le _ _, fun _ => testBit_of_lt_lowZeros, testBit_lowZeros, gives_eff1 rfl rfl ?ctz⟩,
    gives_eff1 rfl rfl ?popc,
    ⟨_, bfxField_lt_width w _ _, fun j _ => testBit_bfxField w _ _ j, gives_eff2 rfl rfl ?bfx, gives_eff2 rfl rfl ?bfxSx⟩,
    ⟨_, bfiVal_lt w _ _ _, fun _ => testBit_bfiVal _ _ _, bfi_gives w d a b s⟩,
    gives_eff2 rfl rfl (fin_wrap_rolVal w _ _), ?unassigned⟩
  case ctz => rw [ctzView_eq]; exact fin_wrap_count (lowZeros_le _ _)
  case popc => rw [fin_wrap_count (popcView_le w _), popcView, popcAux_eq]; rfl
  case bfx => rw [bfxVal_unsigned]
  case bfxSx => rw [bfxVal_signed]; rfl
  case unassigned =>
    rintro lone sub (rfl | rfl)
    · exact decodeWord_intWord lone w 3 6 d a b
    · exact decodeWord_intWord lone w 3 7 d a b

end Sys2Proof.Machine

/-! SUPPORT. Register writes and pushes in their write-back cycle (R73, R75, R78): their order, what each of them changes, and
from both the obligation on colliding writes. -/

namespace Sys2Proof.Machine

/-! ### The order of acts -/

theorem insertWb_perm (lt : Wb → Wb → Bool) (w : Wb) (l : List Wb) : (insertWb lt w l).Perm (w :: l) := by
  induction l with
  | nil => exact .refl _
  | cons x l ih =>
    unfold insertWb
    split
    · exact .refl _
    · exact (ih.cons x).trans (.swap w x l)

theorem sortWb_perm (lt : Wb → Wb → Bool) (l : List Wb) : (sortWb lt l).Perm l := by
  have key : ∀ acc : List Wb, (l.foldl (fun acc w => insertWb lt w acc) acc).Perm (l ++ acc) := by
    induction l with
    | nil => exact fun acc => .refl acc
    | cons w l ih =>
      exact fun acc => (ih _).trans (((insertWb_perm lt w acc).append_left l).trans List.perm_middle)
  exact (key []).trans (List.Perm.of_eq l.append_nil)

/-- Insertion keeps the order: no act stands behind one that it is to precede. -/
theorem insertWb_pairwise {lt : Wb → Wb → Bool} (htrans : ∀ a b c, lt a b = true → lt b c = true → lt a c = true)
    (hirrefl : ∀ a, lt a a = false) (w : Wb) {l : List Wb} (h : l.Pairwise (fun a b => lt b a = false)) :
    (insertWb lt w l).Pairwise (fun a b => lt b a = false) := by
  induction l with
  | nil => exact List.pairwise_singleton _ _
  | cons x l ih =>
    obtain ⟨hx, hl⟩ := List.pairwise_cons.mp h
    unfold insertWb
    split
    next hwx =>
      refine List.pairwise_cons.mpr ⟨fun y hy => Bool.eq_false_iff.mpr fun hyw => ?_, h⟩
      have hyx := htrans y w x hyw hwx
      obtain rfl | hy := List.mem_cons.mp hy
      · exact Bool.false_ne_true ((hirrefl y).symm.trans hyx)
      · exact Bool.false_ne_true ((hx y hy).symm.trans hyx)
    next hwx =>
      refine List.pairwise_cons.mpr ⟨fun y hy => ?_, ih hl⟩
      obtain rfl | hy := List.mem_cons.mp ((insertWb_perm lt w l).mem_iff.mp hy)
      · exact Bool.eq_false_iff.mpr hwx
      · exact hx y hy

theorem sortWb_pairwise {lt : Wb → Wb → Bool} (htrans : ∀ a b c, lt a b = true → lt b c = true → lt a c = true)
    (hirrefl : ∀ a, lt a a = false) (l : List Wb) : (sortWb lt l).Pairwise (fun a b => lt b a = false) :=
  List.foldlRecOn l _ List.Pairwise.nil fun _ h w _ => insertWb_pairwise htrans hirrefl w h

theorem losesTo_iff (a b : Wb) : a.losesTo b = true ↔
    b.cid < a.cid ∨ a.cid = b.cid ∧ (b.slot < a.slot ∨ a.slot = b.slot ∧ a.seq < b.seq) := by
  simp [Wb.losesTo]

/-- Among the register writes of a cycle, none stands behind one that it loses to. -/
theorem sortWb_losesTo_pairwise (l : List Wb) : (sortWb Wb.losesTo l).Pairwise (fun a b => b.losesTo a = false) := by
  refine sortWb_pairwise (fun a b c hab hbc => ?_) (fun a => Bool.eq_false_iff.mpr fun h => ?_) l
  · rw [losesTo_iff] at *
    omega
  · rw [losesTo_iff] at h
    omega

/-! ### Registers by name -/

/-- A register that an act may write: general, short vector or long vector (R71, R247). -/
inductive RegName where
  | gpr (r : Nat)
  | short (r : Nat)
  | long (r : Nat)

def RegName.width : RegName → Nat
  | .gpr _ => 64
  | .short _ => 256
  | .long _ => 4096

/-- The register is the core's, not the thread's (R71, R247). -/
def RegName.shared : RegName → Prop
  | .gpr r => 32 ≤ r
  | .short r => 32 ≤ r
  | .long _ => True

/-- The number of a register in `WbAct.target`. -/
def RegName.number : RegName → Nat
  | .gpr r => r
  | .short r => 64 + r
  | .long r => 128 + r

def State.named (s : State) (c k : Nat) : (n : RegName) → BitVec n.width
  | .gpr r => s.reg c k r
  | .short r => s.vreg c k r
  | .long r => s.wreg c r

def State.setNamed (s : State) (c k : Nat) : (n : RegName) → BitVec n.width → State
  | .gpr r, v => s.setReg c k r v
  | .short r, v => s.setVreg c k r v
  | .long r, v => s.setWreg c r v

/-- The register that an act writes, with its value. -/
def WbAct.write : WbAct → Option ((n : RegName) × BitVec n.width)
  | .gpr r v => some ⟨.gpr r, v⟩
  | .load r v _ => some ⟨.gpr r, v⟩
  | .vload r v true _ => some ⟨.long r, v⟩
  | .vload r v false _ => some ⟨.short r, v.setWidth 256⟩
  | .vreg r v => some ⟨.short r, v⟩
  | .wreg r v => some ⟨.long r, v⟩
  | _ => none

/-- The operation that an act completes (R75, R104). -/
def WbAct.completes : WbAct → Option Nat
  | .load _ _ id => some id
  | .vload _ _ _ id => some id
  | _ => none

/-- The pending bit of an image that an act clears (R338). -/
def WbAct.unpends : WbAct → Option Nat
  | .load r _ _ => some r
  | .vload r _ false _ => some (32 + r)
  | _ => none

theorem target_of_write {a : WbAct} {n : RegName} {v : BitVec n.width} (h : a.write = some ⟨n, v⟩) :
    a.target = some n.number := by
  unfold WbAct.write at h
  split at h <;> cases h <;> rfl

theorem write_of_target {a : WbAct} (h : a.target.isSome = true) : ∃ n v, a.write = some ⟨n, v⟩ := by
  unfold WbAct.target at h
  split at h
  case h_4 r x long id => cases long <;> exact ⟨_, _, rfl⟩
  case h_6 => exact absurd h (by decide)
  all_goals exact ⟨_, _, rfl⟩

theorem write_of_puts {a : WbAct} {r : Nat} {v : Word} (h : a.puts r v) : a.write = some ⟨.gpr r, v⟩ := by
  obtain rfl | ⟨id, rfl⟩ := h <;> rfl
theorem write_of_putsY {a : WbAct} {r : Nat} {v : SVec} (h : a.putsY r v) : a.write = some ⟨.short r, v⟩ := by
  obtain rfl | ⟨x, id, rfl, rfl⟩ := h <;> rfl
theorem write_of_putsW {a : WbAct} {r : Nat} {v : LVec} (h : a.putsW r v) : a.write = some ⟨.long r, v⟩ := by
  obtain rfl | ⟨id, rfl⟩ := h <;> rfl

/-! ### Records after an update -/

theorem State.thread_modThread_eq (s : State) (c k c' k' : Nat) (f : Thread → Thread) :
    (s.modThread c k f).thread c' k' = if 16 * c' + k' = 16 * c + k then f (s.thread c' k') else s.thread c' k' := by
  split
  next h => simp only [State.modThread, State.setThread, State.thread, h, Table.get_set_self]
  next h => exact State.thread_modThread_ne s f h

theorem State.core_modCore_eq (s : State) (c c' : Nat) (f : Core → Core) :
    (s.modCore c f).core c' = if c' = c then f (s.core c') else s.core c' := by
  split
  next h => rw [h, State.core_modCore]
  next h => exact State.core_modCore_ne s f h

/-- What an update of a thread keeps of every thread it keeps in the state. -/
theorem State.read_modThread (s : State) (c k c' k' : Nat) {f : Thread → Thread} {β : Type} (g : Thread → β)
    (h : ∀ t, g (f t) = g t) : g ((s.modThread c k f).thread c' k') = g (s.thread c' k') := by
  rw [State.thread_modThread_eq]
  split
  · exact h _
  · rfl

theorem State.read_modCore (s : State) (c c' : Nat) {f : Core → Core} {β : Type} (g : Core → β) (h : ∀ t, g (f t) = g t) :
    g ((s.modCore c f).core c') = g (s.core c') := by
  rw [State.core_modCore_eq]
  split
  · exact h _
  · rfl

/-! ### Registers after a register write -/

/-- The register tables are in canonical form. -/
structure State.CanonRegs (s : State) : Prop where
  threads : ∀ c k, k < 16 → Table.canon 0 (s.thread c k).regs = true ∧ Table.canon 0 (s.thread c k).vregs = true
  cores : ∀ c, Table.canon 0 (s.core c).regs = true ∧ Table.canon 0 (s.core c).yregs = true ∧
    Table.canon 0 (s.core c).wregs = true

theorem State.CanonRegs.modThread {s : State} (h : s.CanonRegs) (c k : Nat) {f : Thread → Thread}
    (hregs : ∀ t, Table.canon 0 t.regs = true → Table.canon 0 (f t).regs = true)
    (hvregs : ∀ t, Table.canon 0 t.vregs = true → Table.canon 0 (f t).vregs = true) : (s.modThread c k f).CanonRegs := by
  refine ⟨fun c' k' hk' => ?_, h.cores⟩
  obtain ⟨hr, hv⟩ := h.threads c' k' hk'
  rw [State.thread_modThread_eq]
  split
  · exact ⟨hregs _ hr, hvregs _ hv⟩
  · exact ⟨hr, hv⟩

theorem State.CanonRegs.modCore {s : State} (h : s.CanonRegs) (c : Nat) {f : Core → Core}
    (hregs : ∀ x, Table.canon 0 x.regs = true → Table.canon 0 (f x).regs = true)
    (hyregs : ∀ x, Table.canon 0 x.yregs = true → Table.canon 0 (f x).yregs = true)
    (hwregs : ∀ x, Table.canon 0 x.wregs = true → Table.canon 0 (f x).wregs = true) : (s.modCore c f).CanonRegs := by
  refine ⟨h.threads, fun c' => ?_⟩
  obtain ⟨hr, hy, hw⟩ := h.cores c'
  rw [State.core_modCore_eq]
  split
  · exact ⟨hregs _ hr, hyregs _ hy, hwregs _ hw⟩
  · exact ⟨hr, hy, hw⟩

theorem State.CanonRegs.setReg {s : State} (h : s.CanonRegs) (c k r : Nat) (v : Word) : (s.setReg c k r v).CanonRegs := by
  unfold State.setReg
  split
  · exact h
  · split
    · exact h.modThread c k (fun _ ht => Table.canon_put _ _ _ _ ht) (fun _ ht => ht)
    · exact h.modCore c (fun _ hx => Table.canon_put _ _ _ _ hx) (fun _ hx => hx) (fun _ hx => hx)

theorem State.CanonRegs.setVreg {s : State} (h : s.CanonRegs) (c k r : Nat) (v : SVec) : (s.setVreg c k r v).CanonRegs := by
  unfold State.setVreg
  split
  · exact h.modThread c k (fun _ ht => ht) (fun _ ht => Table.canon_put _ _ _ _ ht)
  · exact h.modCore c (fun _ hx => hx) (fun _ hx => Table.canon_put _ _ _ _ hx) (fun _ hx => hx)

theorem State.CanonRegs.setWreg {s : State} (h : s.CanonRegs) (c r : Nat) (v : LVec) : (s.setWreg c r v).CanonRegs :=
  h.modCore c (fun _ hx => hx) (fun _ hx => hx) (fun _ hx => Table.canon_put _ _ _ _ hx)

theorem State.CanonRegs.setNamed {s : State} (h : s.CanonRegs) (c k : Nat) (n : RegName) (v : BitVec n.width) :
    (s.setNamed c k n v).CanonRegs := by
  cases n with
  | gpr r => exact h.setReg c k r v
  | short r => exact h.setVreg c k r v
  | long r => exact h.setWreg c r v

theorem State.reg_setReg_self {s : State} {c k r : Nat} (hp : Table.canon 0 (s.thread c k).regs = true)
    (hs : Table.canon 0 (s.core c).regs = true) (hr : r ≠ 0) (v : Word) : (s.setReg c k r v).reg c k r = v := by
  by_cases h32 : r < 32
  · simp only [State.setReg, State.reg, if_neg hr, if_pos h32, State.thread_modThread, Table.get_put_self _ _ _ _ hp]
  · simp only [State.setReg, State.reg, if_neg hr, if_neg h32, State.core_modCore, Table.get_put_self _ _ _ _ hs]

theorem State.vreg_setVreg_self {s : State} {c k : Nat} (hp : Table.canon 0 (s.thread c k).vregs = true)
    (hs : Table.canon 0 (s.core c).yregs = true) (r : Nat) (v : SVec) : (s.setVreg c k r v).vreg c k r = v := by
  by_cases h32 : r < 32
  · simp only [State.setVreg, State.vreg, if_pos h32, State.thread_modThread, Table.get_put_self _ _ _ _ hp]
  · simp only [State.setVreg, State.vreg, if_neg h32, State.core_modCore, Table.get_put_self _ _ _ _ hs]

theorem State.wreg_setWreg_self {s : State} {c : Nat} (hs : Table.canon 0 (s.core c).wregs = true) (r : Nat) (v : LVec) :
    (s.setWreg c r v).wreg c r = v := by
  simp only [State.setWreg, State.wreg, State.core_modCore, Table.get_put_self _ _ _ _ hs]

theorem State.named_setNamed_self {s : State} (h : s.CanonRegs) {c k : Nat} (hk : k < 16) {n : RegName} (hn : n ≠ .gpr 0)
    (v : BitVec n.width) : (s.setNamed c k n v).named c k n = v := by
  obtain ⟨hregs, hvregs⟩ := h.threads c k hk
  obtain ⟨hs, hy, hw⟩ := h.cores c
  cases n with
  | gpr r => exact State.reg_setReg_self hregs hs (fun e => hn (congrArg _ e)) v
  | short r => exact State.vreg_setVreg_self hvregs hy r v
  | long r => exact State.wreg_setWreg_self hw r v

/-- Another place of a table of the threads: another number, or another thread. -/
theorem State.get_modThread_put_ne {α : Type} [DecidableEq α] {d : α} (s : State) {c k c' k' r q : Nat} {f : Thread → Thread}
    {g : Thread → List (Nat × α)} {v : α} (hf : ∀ t, g (f t) = Table.put d (g t) r v)
    (h : q ≠ r ∨ 16 * c' + k' ≠ 16 * c + k) :
    Table.get d (g ((s.modThread c k f).thread c' k')) q = Table.get d (g (s.thread c' k')) q := by
  rw [State.thread_modThread_eq]
  split
  next e => rw [hf, Table.get_put_ne _ _ (h.resolve_right (not_not_intro e))]
  next => rfl

/-- Another place of a table of the cores: another number, or another core. -/
theorem State.get_modCore_put_ne {α : Type} [DecidableEq α] {d : α} (s : State) {c c' r q : Nat} {f : Core → Core}
    {g : Core → List (Nat × α)} {v : α} (hf : ∀ x, g (f x) = Table.put d (g x) r v) (h : q ≠ r ∨ c' ≠ c) :
    Table.get d (g ((s.modCore c f).core c')) q = Table.get d (g (s.core c')) q := by
  rw [State.core_modCore_eq]
  split
  next e => rw [hf, Table.get_put_ne _ _ (h.resolve_right (not_not_intro e))]
  next => rfl

/-- A write of a register of its own thread is seen by no other thread, that of a shared one by no other core. -/
theorem State.reg_setReg_ne {s : State} {c k c' k' r q : Nat} (hk : k < 16) (hk' : k' < 16) (v : Word)
    (h : q ≠ r ∨ c' ≠ c ∨ k' ≠ k ∧ r < 32) : (s.setReg c k r v).reg c' k' q = s.reg c' k' q := by
  unfold State.setReg
  split
  · rfl
  · split
    · unfold State.reg
      split
      · rfl
      · split
        · exact s.get_modThread_put_ne (g := Thread.regs) (fun _ => rfl) (by omega)
        · rfl
    · unfold State.reg
      split
      · rfl
      · split
        · rfl
        · exact s.get_modCore_put_ne (g := Core.regs) (fun _ => rfl) (by omega)

theorem State.vreg_setVreg_ne {s : State} {c k c' k' r q : Nat} (hk : k < 16) (hk' : k' < 16) (v : SVec)
    (h : q ≠ r ∨ c' ≠ c ∨ k' ≠ k ∧ r < 32) : (s.setVreg c k r v).vreg c' k' q = s.vreg c' k' q := by
  unfold State.setVreg
  split
  · unfold State.vreg
    split
    · exact s.get_modThread_put_ne (g := Thread.vregs) (fun _ => rfl) (by omega)
    · rfl
  · unfold State.vreg
    split
    · rfl
    · exact s.get_modCore_put_ne (g := Core.yregs) (fun _ => rfl) (by omega)

theorem State.wreg_setWreg_ne {s : State} {c c' r q : Nat} (v : LVec) (h : q ≠ r ∨ c' ≠ c) :
    (s.setWreg c r v).wreg c' q = s.wreg c' q :=
  s.get_modCore_put_ne (g := Core.wregs) (fun _ => rfl) h

/-! ### Updates that leave registers alone -/

theorem State.reg_modThread (s : State) (c k c' k' q : Nat) {f : Thread → Thread} (h : ∀ t, (f t).regs = t.regs) :
    (s.modThread c k f).reg c' k' q = s.reg c' k' q :=
  congrArg (fun t => if q = 0 then 0 else if q < 32 then Table.get 0 t q else _) (s.read_modThread c k c' k' Thread.regs h)

theorem State.reg_modCore (s : State) (c c' k' q : Nat) {f : Core → Core} (h : ∀ x, (f x).regs = x.regs) :
    (s.modCore c f).reg c' k' q = s.reg c' k' q :=
  congrArg (fun t => if q = 0 then 0 else if q < 32 then _ else Table.get 0 t (q - 32)) (s.read_modCore c c' Core.regs h)

theorem State.vreg_modThread (s : State) (c k c' k' q : Nat) {f : Thread → Thread} (h : ∀ t, (f t).vregs = t.vregs) :
    (s.modThread c k f).vreg c' k' q = s.vreg c' k' q :=
  congrArg (fun t => if q < 32 then Table.get 0 t q else _) (s.read_modThread c k c' k' Thread.vregs h)

theorem State.vreg_modCore (s : State) (c c' k' q : Nat) {f : Core → Core} (h : ∀ x, (f x).yregs = x.yregs) :
    (s.modCore c f).vreg c' k' q = s.vreg c' k' q :=
  congrArg (fun t => if q < 32 then _ else Table.get 0 t (q - 32)) (s.read_modCore c c' Core.yregs h)

theorem State.wreg_modCore (s : State) (c c' q : Nat) {f : Core → Core} (h : ∀ x, (f x).wregs = x.wregs) :
    (s.modCore c f).wreg c' q = s.wreg c' q :=
  congrArg (fun t => Table.get 0 t q) (s.read_modCore c c' Core.wregs h)

@[simp] theorem State.vreg_setReg (s : State) (c k r c' k' q : Nat) (v : Word) :
    (s.setReg c k r v).vreg c' k' q = s.vreg c' k' q := by
  unfold State.setReg
  split
  · rfl
  · split
    · exact s.vreg_modThread _ _ _ _ _ fun _ => rfl
    · exact s.vreg_modCore _ _ _ _ fun _ => rfl

@[simp] theorem State.wreg_setReg (s : State) (c k r c' q : Nat) (v : Word) :
    (s.setReg c k r v).wreg c' q = s.wreg c' q := by
  unfold State.setReg
  split
  · rfl
  · split
    · rfl
    · exact s.wreg_modCore _ _ _ fun _ => rfl

@[simp] theorem State.reg_setVreg (s : State) (c k r c' k' q : Nat) (v : SVec) :
    (s.setVreg c k r v).reg c' k' q = s.reg c' k' q := by
  unfold State.setVreg
  split
  · exact s.reg_modThread _ _ _ _ _ fun _ => rfl
  · exact s.reg_modCore _ _ _ _ fun _ => rfl

@[simp] theorem State.wreg_setVreg (s : State) (c k r c' q : Nat) (v : SVec) :
    (s.setVreg c k r v).wreg c' q = s.wreg c' q := by
  unfold State.setVreg
  split
  · rfl
  · exact s.wreg_modCore _ _ _ fun _ => rfl

@[simp] theorem State.reg_setWreg (s : State) (c r c' k' q : Nat) (v : LVec) :
    (s.setWreg c r v).reg c' k' q = s.reg c' k' q := s.reg_modCore _ _ _ _ fun _ => rfl

@[simp] theorem State.vreg_setWreg (s : State) (c r c' k' q : Nat) (v : LVec) :
    (s.setWreg c r v).vreg c' k' q = s.vreg c' k' q := s.vreg_modCore _ _ _ _ fun _ => rfl

/-- A write leaves every other register alone: of another name, in another core, or of another thread where the register is the
thread's own. -/
theorem State.named_setNamed_ne {s : State} {c k c' k' : Nat} (hk : k < 16) (hk' : k' < 16) {n n' : RegName}
    (v : BitVec n.width) (h : n' ≠ n ∨ c' ≠ c ∨ k' ≠ k ∧ ¬ n.shared) :
    (s.setNamed c k n v).named c' k' n' = s.named c' k' n' := by
  cases n with
  | gpr r => cases n' with
    | gpr q =>
      refine s.reg_setReg_ne hk hk' v ?_
      simp only [ne_eq, RegName.gpr.injEq, RegName.shared, Nat.not_le] at h
      exact h
    | short q => exact s.vreg_setReg c k r c' k' q v
    | long q => exact s.wreg_setReg c k r c' q v
  | short r => cases n' with
    | gpr q => exact s.reg_setVreg c k r c' k' q v
    | short q =>
      refine s.vreg_setVreg_ne hk hk' v ?_
      simp only [ne_eq, RegName.short.injEq, RegName.shared, Nat.not_le] at h
      exact h
    | long q => exact s.wreg_setVreg c k r c' q v
  | long r => cases n' with
    | gpr q => exact s.reg_setWreg c r c' k' q v
    | short q => exact s.vreg_setWreg c r c' k' q v
    | long q =>
      refine s.wreg_setWreg_ne v ?_
      simp only [ne_eq, RegName.long.injEq, RegName.shared, not_true, and_false, or_false] at h
      exact h

theorem State.named_modThread (s : State) (c k c' k' : Nat) (n : RegName) {f : Thread → Thread}
    (hregs : ∀ t, (f t).regs = t.regs) (hvregs : ∀ t, (f t).vregs = t.vregs) :
    (s.modThread c k f).named c' k' n = s.named c' k' n := by
  cases n with
  | gpr r => exact s.reg_modThread c k c' k' r hregs
  | short r => exact s.vreg_modThread c k c' k' r hvregs
  | long r => rfl

theorem State.named_modCore (s : State) (c c' k' : Nat) (n : RegName) {f : Core → Core} (hregs : ∀ x, (f x).regs = x.regs)
    (hyregs : ∀ x, (f x).yregs = x.yregs) (hwregs : ∀ x, (f x).wregs = x.wregs) :
    (s.modCore c f).named c' k' n = s.named c' k' n := by
  cases n with
  | gpr r => exact s.reg_modCore c c' k' r hregs
  | short r => exact s.vreg_modCore c c' k' r hyregs
  | long r => exact s.wreg_modCore c c' r hwregs

theorem State.thread_congr {s t : State} (h : t.threads = s.threads) (c k : Nat) : t.thread c k = s.thread c k := by
  simp only [State.thread, h]

theorem State.core_congr {s t : State} (h : t.cores = s.cores) (c : Nat) : t.core c = s.core c := by
  simp only [State.core, h]

/-- The registers are in the records of threads and cores. -/
theorem State.named_congr {s t : State} (hthreads : t.threads = s.threads) (hcores : t.cores = s.cores) (c k : Nat)
    (n : RegName) : t.named c k n = s.named c k n := by
  have hthread := State.thread_congr hthreads c k
  have hcore := State.core_congr hcores c
  cases n with
  | gpr r =>
    have : t.reg c k r = s.reg c k r := by simp only [State.reg, hthread, hcore]
    exact this
  | short r =>
    have : t.vreg c k r = s.vreg c k r := by simp only [State.vreg, hthread, hcore]
    exact this
  | long r =>
    have : t.wreg c r = s.wreg c r := by simp only [State.wreg, hcore]
    exact this

theorem State.CanonRegs.congr {s t : State} (h : s.CanonRegs) (hthreads : t.threads = s.threads) (hcores : t.cores = s.cores) :
    t.CanonRegs := by
  refine ⟨fun c k => ?_, fun c => ?_⟩
  · rw [State.thread_congr hthreads c k]
    exact h.threads c k
  · rw [State.core_congr hcores c]
    exact h.cores c

end Sys2Proof.Machine

/-! SUPPORT. What a register write or a push does in its write-back cycle, and what the cycle does with all of them (R73, R75,
R78). -/

namespace Sys2Proof.Machine

/-! ### One act -/

/-- An act that writes a register or pushes into a queue register. -/
def Wb.plain (x : Wb) : Prop := x.act.target.isSome = true ∨ ∃ k v, x.act = .qpush k v

theorem Wb.plain_cases {x : Wb} (h : x.plain) : (∃ n v, x.act.write = some ⟨n, v⟩) ∨ ∃ k v, x.act = .qpush k v :=
  h.imp_left write_of_target

/-- An image's pending bit for the destination of a load ends (R338). -/
def State.clearPend (s : State) (x : Wb) : State :=
  match x.act.unpends with
  | some i => s.unpend x.cid x.slot i
  | none => s

/-- The operation of a load ends (R75, R104). -/
def State.complete (s : State) (x : Wb) : State :=
  match x.act.completes with
  | some id => s.loadBack x.cid x.slot id
  | none => s

/-- What a register write does: its register is written, and where it is a load's, the load is done with. -/
theorem wbAct_of_write {s : State} {x : Wb} {n : RegName} {v : BitVec n.width} (h : x.act.write = some ⟨n, v⟩) :
    s.wbAct x = ((s.clearPend x).setNamed x.cid x.slot n v).complete x := by
  unfold WbAct.write at h
  split at h <;> cases h <;> (next hact => simp only [State.wbAct, State.clearPend, State.complete, hact]; rfl)

theorem wbAct_of_push {s : State} {x : Wb} {k : Nat} {v : Word} (h : x.act = .qpush k v) :
    s.wbAct x = s.modCore x.cid (fun c => c.push k v) := by
  simp only [State.wbAct, h]

/-! ### Acts and the clock -/

/-- The state at another cycle, with other acts to come. -/
def State.retime (s : State) (cyc : Nat) (wbs : List Wb) : State := { s with cyc := cyc, wbs := wbs }

theorem State.retime_setNamed (s : State) (t : Nat) (l : List Wb) (c k : Nat) (n : RegName) (v : BitVec n.width) :
    (s.retime t l).setNamed c k n v = (s.setNamed c k n v).retime t l := by
  cases n with
  | gpr r =>
    show (s.retime t l).setReg c k r v = (s.setReg c k r v).retime t l
    unfold State.setReg
    split
    · rfl
    · split <;> rfl
  | short r =>
    show (s.retime t l).setVreg c k r v = (s.setVreg c k r v).retime t l
    unfold State.setVreg
    split <;> rfl
  | long r => rfl

theorem State.retime_unpend (s : State) (t : Nat) (l : List Wb) (c k i : Nat) :
    (s.retime t l).unpend c k i = (s.unpend c k i).retime t l := by
  have hthread : (s.retime t l).thread c k = s.thread c k := rfl
  simp only [State.unpend, hthread]
  split <;> rfl

theorem State.retime_clearPend (s : State) (t : Nat) (l : List Wb) (x : Wb) :
    (s.retime t l).clearPend x = (s.clearPend x).retime t l := by
  unfold State.clearPend
  cases x.act.unpends with
  | none => rfl
  | some i => exact s.retime_unpend t l x.cid x.slot i

theorem State.retime_freePort (s : State) (t : Nat) (l : List Wb) (r : Req) :
    (s.retime t l).freePort r = (s.freePort r).retime t l := by
  unfold State.freePort
  split <;> rfl

theorem State.retime_complete (s : State) (t : Nat) (l : List Wb) (x : Wb) :
    (s.retime t l).complete x = (s.complete x).retime t l := by
  unfold State.complete
  cases x.act.completes with
  | none => rfl
  | some id =>
    have hreq : (s.retime t l).req? id = s.req? id := rfl
    simp only [State.loadBack, hreq]
    cases s.req? id with
    | none => rfl
    | some r => exact State.retime_freePort ((s.doneFor x.cid x.slot id).dropReq id) t l r

/-- A plain act neither looks at the clock and the acts to come nor changes them. -/
theorem State.retime_wbAct (s : State) (t : Nat) (l : List Wb) {x : Wb} (h : x.plain) :
    (s.retime t l).wbAct x = (s.wbAct x).retime t l := by
  obtain ⟨n, v, hw⟩ | ⟨k, v, hp⟩ := x.plain_cases h
  · rw [wbAct_of_write hw, wbAct_of_write hw, State.retime_clearPend, State.retime_setNamed, State.retime_complete]
  · rw [wbAct_of_push hp, wbAct_of_push hp]
    rfl

theorem State.retime_foldl (s : State) (t : Nat) (l : List Wb) {acts : List Wb} (h : ∀ x ∈ acts, x.plain) :
    acts.foldl State.wbAct (s.retime t l) = (acts.foldl State.wbAct s).retime t l := by
  induction acts generalizing s with
  | nil => rfl
  | cons x acts ih =>
    rw [List.foldl_cons, State.retime_wbAct s t l (h x List.mem_cons_self), ih _ fun y hy => h y (List.mem_cons_of_mem _ hy)]
    rfl

/-! ### The write-back cycle -/

theorem State.applyDue_eq (s : State) (p : Wb → Bool) (lt : Wb → Wb → Bool) : s.applyDue p lt =
    (sortWb lt (s.wbs.filter fun w => decide (w.due ≤ s.cyc) && p w)).foldl State.wbAct
      (s.retime s.cyc (s.wbs.filter fun w => !(decide (w.due ≤ s.cyc) && p w))) := rfl

/-- A pass in which nothing is due. -/
theorem State.applyDue_of_none {s : State} {p : Wb → Bool} {lt : Wb → Wb → Bool}
    (h : ∀ x ∈ s.wbs, x.due ≤ s.cyc → p x = false) : s.applyDue p lt = s := by
  have hnow : ∀ x ∈ s.wbs, (decide (x.due ≤ s.cyc) && p x) = false := by
    intro x hx
    by_cases hdue : x.due ≤ s.cyc
    · simp [h x hx hdue]
    · simp [hdue]
  have hdue : s.wbs.filter (fun w => decide (w.due ≤ s.cyc) && p w) = [] :=
    List.filter_eq_nil_iff.mpr fun x hx => by simp only [hnow x hx, Bool.false_eq_true, not_false_eq_true]
  have hrest : s.wbs.filter (fun w => !(decide (w.due ≤ s.cyc) && p w)) = s.wbs :=
    List.filter_eq_self.mpr fun x hx => by rw [hnow x hx, Bool.not_false]
  rw [State.applyDue_eq, hdue, hrest]
  rfl

theorem State.plain_of_mem_sortWb {s : State} (h : ∀ x ∈ s.wbs, x.due ≤ s.cyc → x.plain) {lt : Wb → Wb → Bool}
    {p : Wb → Bool} {x : Wb} (hx : x ∈ sortWb lt (s.wbs.filter fun w => decide (w.due ≤ s.cyc) && p w)) : x.plain := by
  obtain ⟨hmem, hnow⟩ := List.mem_filter.mp ((sortWb_perm lt _).mem_iff.mp hx)
  simp only [Bool.and_eq_true, decide_eq_true_eq] at hnow
  exact h x hmem hnow.1

/-- A pass over plain acts. -/
theorem State.applyDue_of_plain {s : State} {p : Wb → Bool} {lt : Wb → Wb → Bool}
    (h : ∀ x ∈ s.wbs, x.due ≤ s.cyc → x.plain) :
    s.applyDue p lt = ((sortWb lt (s.wbs.filter fun w => decide (w.due ≤ s.cyc) && p w)).foldl State.wbAct s).retime s.cyc
      (s.wbs.filter fun w => !(decide (w.due ≤ s.cyc) && p w)) := by
  exact State.retime_foldl s _ _ fun x hx => State.plain_of_mem_sortWb h hx

/-- The register writes of this cycle, the one that takes effect under R75 last. -/
def State.dueWrites (s : State) : List Wb :=
  sortWb Wb.losesTo (s.wbs.filter fun w => decide (w.due ≤ s.cyc) && w.regWrite)

/-- The other acts of this cycle, in the order of R297. -/
def State.dueOthers (s : State) : List Wb :=
  sortWb Wb.before (s.wbs.filter fun w => decide (w.due ≤ s.cyc) && !w.regWrite)

/-- What the passes of the cycle ask of an act: a plain act has one place among them. -/
theorem Wb.passes_of_plain {x : Wb} (h : x.plain) :
    x.takesFirst = false ∧ x.closes = false ∧ x.samples = false ∧ x.ends = false := by
  obtain ⟨n, v, hw⟩ | ⟨k, v, hp⟩ := x.plain_cases h
  · unfold WbAct.write at hw
    split at hw <;> cases hw <;> (next hact => simp only [Wb.takesFirst, Wb.closes, Wb.samples, Wb.ends, hact, and_self])
  · simp only [Wb.takesFirst, Wb.closes, Wb.samples, Wb.ends, hp, and_self]

theorem Wb.regWrite_of_write {x : Wb} {w : (n : RegName) × BitVec n.width} (h : x.act.write = some w) : x.regWrite = true := by
  unfold WbAct.write at h
  split at h <;> cases h <;> (next hact => simp only [Wb.regWrite, hact])

theorem Wb.others_of_plain {x : Wb} (h : x.plain) : (!x.samples && !x.ends) = true := by
  obtain ⟨-, -, hsamples, hends⟩ := Wb.passes_of_plain h
  rw [hsamples, hends]
  rfl

/-- What the pass of register writes leaves for the later passes. -/
def State.unwritten (s : State) : List Wb := s.wbs.filter fun w => !(decide (w.due ≤ s.cyc) && w.regWrite)

theorem State.filter_unwritten {s : State} (h : ∀ x ∈ s.wbs, x.due ≤ s.cyc → x.plain) :
    s.unwritten.filter (fun w => decide (w.due ≤ s.cyc) && (!w.samples && !w.ends)) =
      s.wbs.filter fun w => decide (w.due ≤ s.cyc) && !w.regWrite := by
  rw [State.unwritten, List.filter_filter]
  refine List.filter_congr fun x hx => ?_
  by_cases hd : x.due ≤ s.cyc
  · simp only [hd, Wb.others_of_plain (h x hx hd), decide_true, Bool.true_and]
  · simp only [hd, decide_false, Bool.false_and]

/-- A cycle in which only plain acts are due makes the register writes, then the pushes. -/
theorem State.writeBack_of_plain {s : State} (h : ∀ x ∈ s.wbs, x.due ≤ s.cyc → x.plain) :
    ∃ l, s.writeBack = ((s.dueWrites ++ s.dueOthers).foldl State.wbAct s).retime s.cyc l := by
  have htaken : s.applyDue (·.takesFirst) Wb.before = s :=
    State.applyDue_of_none fun x hx hd => (Wb.passes_of_plain (h x hx hd)).1
  have hclosed : s.applyDue (·.closes) Wb.before = s :=
    State.applyDue_of_none fun x hx hd => (Wb.passes_of_plain (h x hx hd)).2.1
  let written := (s.dueWrites.foldl State.wbAct s).retime s.cyc s.unwritten
  have hwritten : s.applyDue (·.regWrite) Wb.losesTo = written := State.applyDue_of_plain h
  let last := s.unwritten.filter fun w => !(decide (w.due ≤ s.cyc) && (!w.samples && !w.ends))
  let ended := ((s.dueWrites ++ s.dueOthers).foldl State.wbAct s).retime s.cyc last
  have hended : written.applyDue (fun w => !w.samples && !w.ends) Wb.before = ended := by
    refine (State.applyDue_of_plain (s := written) fun x hx hd => h x (List.mem_of_mem_filter hx) hd).trans ?_
    show ((sortWb Wb.before (s.unwritten.filter fun w => decide (w.due ≤ s.cyc) && (!w.samples && !w.ends))).foldl
      State.wbAct written).retime s.cyc last = ended
    rw [State.filter_unwritten h, State.retime_foldl _ _ _ fun x hx => State.plain_of_mem_sortWb h hx]
    simp only [ended, List.foldl_append]
    rfl
  have hnone : ∀ x ∈ ended.wbs, ¬ x.due ≤ ended.cyc := by
    intro x hx (hd : x.due ≤ s.cyc)
    obtain ⟨hmem, hlate⟩ := (List.mem_filter (as := s.unwritten)).mp hx
    rw [decide_eq_true hd, Wb.others_of_plain (h x (List.mem_of_mem_filter hmem) hd)] at hlate
    exact Bool.false_ne_true hlate
  refine ⟨last, ?_⟩
  rw [State.writeBack, htaken, hclosed, hwritten, hended, State.applyDue_of_none fun x hx hd => absurd hd (hnone x hx),
    State.applyDue_of_none fun x hx hd => absurd hd (hnone x hx)]

/-- Every due act is made once. -/
theorem State.due_perm (s : State) : (s.dueWrites ++ s.dueOthers).Perm (s.wbs.filter fun w => decide (w.due ≤ s.cyc)) := by
  refine ((sortWb_perm _ _).append (sortWb_perm _ _)).trans ?_
  simpa only [List.filter_filter, Bool.and_comm] using
    List.filter_append_perm (·.regWrite) (s.wbs.filter fun w => decide (w.due ≤ s.cyc))

end Sys2Proof.Machine

/-! SUPPORT. What plain acts leave behind, one and all: the registers, the operations that they complete, and the queue
registers; and from it the obligation on colliding writes (R75). -/

namespace Sys2Proof.Machine

/-! ### Registers after an act -/

theorem State.freePort_threads (s : State) (r : Req) : (s.freePort r).threads = s.threads := by
  unfold State.freePort
  split <;> rfl

theorem State.freePort_cores (s : State) (r : Req) : (s.freePort r).cores = s.cores := by
  unfold State.freePort
  split <;> rfl

theorem State.loadBack_threads (s : State) (c k id : Nat) : (s.loadBack c k id).threads = (s.doneFor c k id).threads := by
  unfold State.loadBack
  cases s.req? id with
  | none => rfl
  | some r => exact State.freePort_threads _ r

theorem State.loadBack_cores (s : State) (c k id : Nat) : (s.loadBack c k id).cores = s.cores := by
  unfold State.loadBack
  cases s.req? id with
  | none => rfl
  | some r => exact State.freePort_cores _ r

theorem State.named_clearPend (s : State) (x : Wb) (c k : Nat) (n : RegName) : (s.clearPend x).named c k n = s.named c k n := by
  unfold State.clearPend
  split
  · unfold State.unpend
    split
    · exact s.named_modThread _ _ _ _ _ (fun _ => rfl) (fun _ => rfl)
    · rfl
  · rfl

theorem State.CanonRegs.clearPend {s : State} (h : s.CanonRegs) (x : Wb) : (s.clearPend x).CanonRegs := by
  unfold State.clearPend
  split
  · unfold State.unpend
    split
    · exact h.modThread _ _ (fun _ ht => ht) (fun _ ht => ht)
    · exact h
  · exact h

theorem State.named_complete (s : State) (x : Wb) (c k : Nat) (n : RegName) : (s.complete x).named c k n = s.named c k n := by
  unfold State.complete
  split
  next id _ =>
    exact (State.named_congr (s.loadBack_threads x.cid x.slot id) (s.loadBack_cores x.cid x.slot id) c k n).trans
      (s.named_modThread _ _ _ _ _ (fun _ => rfl) (fun _ => rfl))
  next => rfl

theorem State.CanonRegs.complete {s : State} (h : s.CanonRegs) (x : Wb) : (s.complete x).CanonRegs := by
  unfold State.complete
  split
  next id _ =>
    have hdone : (s.doneFor x.cid x.slot id).CanonRegs := h.modThread _ _ (fun _ ht => ht) (fun _ ht => ht)
    exact hdone.congr (s.loadBack_threads x.cid x.slot id) (s.loadBack_cores x.cid x.slot id)
  next => exact h

theorem State.CanonRegs.wbAct {s : State} (h : s.CanonRegs) {x : Wb} (hx : x.plain) : (s.wbAct x).CanonRegs := by
  obtain ⟨n, v, hw⟩ | ⟨k, v, hp⟩ := x.plain_cases hx
  · rw [wbAct_of_write hw]
    exact ((h.clearPend x).setNamed x.cid x.slot n v).complete x
  · rw [wbAct_of_push hp]
    exact h.modCore _ (fun _ hc => hc) (fun _ hc => hc) (fun _ hc => hc)

theorem State.CanonRegs.foldl {s : State} (h : s.CanonRegs) {acts : List Wb} (hplain : ∀ x ∈ acts, x.plain) :
    (acts.foldl State.wbAct s).CanonRegs :=
  List.foldlRecOn acts _ h fun _ hs x hx => State.CanonRegs.wbAct hs (hplain x hx)

/-- The act writes the register that thread k of core c knows by the name n. -/
def Wb.hits (x : Wb) (c k : Nat) (n : RegName) : Prop :=
  (∃ v, x.act.write = some ⟨n, v⟩) ∧ x.cid = c ∧ (x.slot = k ∨ n.shared)

theorem State.named_wbAct_self {s : State} (h : s.CanonRegs) {x : Wb} (hk : x.slot < 16) {n : RegName} {v : BitVec n.width}
    (hw : x.act.write = some ⟨n, v⟩) (hn : n ≠ .gpr 0) : (s.wbAct x).named x.cid x.slot n = v := by
  rw [wbAct_of_write hw, State.named_complete, State.named_setNamed_self (h.clearPend x) hk hn]

theorem State.named_wbAct_of_not_hits {s : State} {x : Wb} (hx : x.plain) (hxk : x.slot < 16) {c k : Nat} (hk : k < 16)
    {n : RegName} (hmiss : ¬ x.hits c k n) : (s.wbAct x).named c k n = s.named c k n := by
  obtain ⟨n', v, hw⟩ | ⟨j, v, hp⟩ := x.plain_cases hx
  · have hne : n ≠ n' ∨ c ≠ x.cid ∨ k ≠ x.slot ∧ ¬ n'.shared := by
      by_contra hsame
      simp only [not_or, not_not, not_and_or] at hsame
      obtain ⟨rfl, rfl, hslot⟩ := hsame
      exact hmiss ⟨⟨v, hw⟩, rfl, hslot.imp_left Eq.symm⟩
    rw [wbAct_of_write hw, State.named_complete, State.named_setNamed_ne hxk hk v hne, State.named_clearPend]
  · rw [wbAct_of_push hp]
    exact s.named_modCore _ _ _ _ (fun _ => rfl) (fun _ => rfl) (fun _ => rfl)

/-- The last write of a register stands: after it, every act misses the register or is that write itself. -/
theorem State.named_foldl_of_last {s : State} (h : s.CanonRegs) {w : Wb} (hwk : w.slot < 16) {n : RegName} {v : BitVec n.width}
    (hw : w.act.write = some ⟨n, v⟩) (hn : n ≠ .gpr 0) {before after : List Wb} (hplain : ∀ x ∈ before, x.plain)
    (hafter : ∀ x ∈ after, x.plain ∧ x.slot < 16 ∧ (x = w ∨ ¬ x.hits w.cid w.slot n)) :
    ((before ++ w :: after).foldl State.wbAct s).named w.cid w.slot n = v := by
  have hwplain : w.plain := .inl (by rw [target_of_write hw]; rfl)
  have hbefore := h.foldl hplain
  rw [List.foldl_append, List.foldl_cons]
  suffices hkeep : (after.foldl State.wbAct ((before.foldl State.wbAct s).wbAct w)).CanonRegs ∧
      (after.foldl State.wbAct ((before.foldl State.wbAct s).wbAct w)).named w.cid w.slot n = v from hkeep.2
  refine List.foldlRecOn (motive := fun t : State => t.CanonRegs ∧ t.named w.cid w.slot n = v) after _
    ⟨hbefore.wbAct hwplain, State.named_wbAct_self hbefore hwk hw hn⟩ fun t ht x hx => ?_
  obtain ⟨hcanon, hval⟩ := ht
  obtain ⟨hxplain, hxk, rfl | hmiss⟩ := hafter x hx
  · exact ⟨hcanon.wbAct hxplain, State.named_wbAct_self hcanon hxk hw hn⟩
  · exact ⟨hcanon.wbAct hxplain, (State.named_wbAct_of_not_hits hxplain hxk hwk hmiss).trans hval⟩

/-! ### Operations after an act -/

/-- No request and no outstanding operation is new, and what is done stays done. -/
structure State.Retires (s t : State) : Prop where
  reqs : ∀ r ∈ t.reqs, ∃ r' ∈ s.reqs, r'.id = r.id
  outs : ∀ c k, ∀ o ∈ (t.thread c k).outs, ∃ o' ∈ (s.thread c k).outs,
    o'.id = o.id ∧ (o'.done = true → o.done = true)

theorem State.Retires.refl (s : State) : s.Retires s := ⟨fun r hr => ⟨r, hr, rfl⟩, fun _ _ o ho => ⟨o, ho, rfl, id⟩⟩

theorem State.Retires.trans {s t u : State} (h : s.Retires t) (h' : t.Retires u) : s.Retires u := by
  refine ⟨fun r hr => ?_, fun c k o ho => ?_⟩
  · obtain ⟨r', hr', e'⟩ := h'.reqs r hr
    obtain ⟨r'', hr'', e''⟩ := h.reqs r' hr'
    exact ⟨r'', hr'', e''.trans e'⟩
  · obtain ⟨o', ho', e', d'⟩ := h'.outs c k o ho
    obtain ⟨o'', ho'', e'', d''⟩ := h.outs c k o' ho'
    exact ⟨o'', ho'', e''.trans e', d' ∘ d''⟩

theorem State.retires_modThread (s : State) (c k : Nat) {f : Thread → Thread}
    (h : ∀ t, ∀ o ∈ (f t).outs, ∃ o' ∈ t.outs, o'.id = o.id ∧ (o'.done = true → o.done = true)) :
    s.Retires (s.modThread c k f) := by
  refine ⟨fun r hr => ⟨r, hr, rfl⟩, fun c' k' o ho => ?_⟩
  rw [State.thread_modThread_eq] at ho
  split at ho
  · exact h _ o ho
  · exact ⟨o, ho, rfl, id⟩

theorem State.retires_modThread_of_outs (s : State) (c k : Nat) {f : Thread → Thread} (h : ∀ t, (f t).outs = t.outs) :
    s.Retires (s.modThread c k f) :=
  s.retires_modThread c k fun t o ho => ⟨o, h t ▸ ho, rfl, id⟩

theorem State.retires_modCore (s : State) (c : Nat) (f : Core → Core) : s.Retires (s.modCore c f) :=
  ⟨fun r hr => ⟨r, hr, rfl⟩, fun _ _ o ho => ⟨o, ho, rfl, id⟩⟩

theorem State.retires_setNamed (s : State) (c k : Nat) (n : RegName) (v : BitVec n.width) : s.Retires (s.setNamed c k n v) := by
  cases n with
  | gpr r =>
    show s.Retires (s.setReg c k r v)
    unfold State.setReg
    split
    · exact .refl s
    · split
      · exact s.retires_modThread_of_outs c k fun _ => rfl
      · exact s.retires_modCore c _
  | short r =>
    show s.Retires (s.setVreg c k r v)
    unfold State.setVreg
    split
    · exact s.retires_modThread_of_outs c k fun _ => rfl
    · exact s.retires_modCore c _
  | long r => exact s.retires_modCore c fun x => { x with wregs := Table.put 0 x.wregs r v }

theorem State.retires_clearPend (s : State) (x : Wb) : s.Retires (s.clearPend x) := by
  unfold State.clearPend
  split
  · unfold State.unpend
    split
    · exact s.retires_modThread_of_outs _ _ fun _ => rfl
    · exact .refl s
  · exact .refl s

theorem settleOuts_sublist (c : Cls) (l : List Out) : (settleOuts c l).Sublist l := by
  induction l with
  | nil => exact .slnil
  | cons o l ih =>
    unfold settleOuts
    split
    · exact ih.cons_cons o
    · split
      · exact ih.cons o
      · exact .refl _

/-- What is outstanding after a completion was so before, and with the completed number it is done. -/
theorem mem_outs_doneOut {t : Thread} {id : Nat} {o : Out} (h : o ∈ (t.doneOut id).outs) :
    (o.id = id → o.done = true) ∧ ∃ o' ∈ t.outs, o'.id = o.id ∧ (o'.done = true → o.done = true) := by
  have hsub := (((settleOuts_sublist .ld _).trans (settleOuts_sublist .st _)).trans (settleOuts_sublist .cp _)).trans
    (settleOuts_sublist .mx (t.outs.map fun o => if o.id = id then { o with done := true } else o))
  obtain ⟨o', ho', rfl⟩ := List.mem_map.mp (hsub.subset h)
  split
  next => exact ⟨fun _ => rfl, o', ho', rfl, fun _ => rfl⟩
  next hne => exact ⟨fun e => absurd e hne, o', ho', rfl, fun hd => hd⟩

theorem State.retires_freePort (s : State) (r : Req) : s.Retires (s.freePort r) := by
  unfold State.freePort
  split
  · refine ⟨fun q hq => ?_, fun _ _ o ho => ⟨o, ho, rfl, id⟩⟩
    obtain ⟨q', hq', rfl⟩ := List.mem_map.mp hq
    refine ⟨q', hq', ?_⟩
    split <;> rfl
  · exact .refl s

theorem State.retires_loadBack (s : State) (c k id : Nat) :
    s.Retires (s.loadBack c k id) ∧ ((s.doneFor c k id).dropReq id).Retires (s.loadBack c k id) := by
  have hdone : s.Retires ((s.doneFor c k id).dropReq id) := by
    obtain ⟨-, houts⟩ := s.retires_modThread c k (f := (·.doneOut id)) fun _ _ ho => (mem_outs_doneOut ho).2
    exact ⟨fun r hr => ⟨r, List.mem_of_mem_filter hr, rfl⟩, houts⟩
  have hfree : ((s.doneFor c k id).dropReq id).Retires (s.loadBack c k id) := by
    unfold State.loadBack
    cases s.req? id with
    | none => exact .refl _
    | some r => exact State.retires_freePort _ r
  exact ⟨hdone.trans hfree, hfree⟩

/-- The operation is over: it has no request, and among what is outstanding of the thread it counts as done. -/
structure State.Finished (s : State) (c k id : Nat) : Prop where
  req : s.req? id = none
  outs : ∀ o ∈ (s.thread c k).outs, o.id = id → o.done = true

theorem State.req?_eq_none_iff {s : State} {id : Nat} : s.req? id = none ↔ ∀ r ∈ s.reqs, r.id ≠ id := by
  simp [State.req?, List.find?_eq_none]

theorem State.Finished.retires {s t : State} {c k id : Nat} (h : s.Finished c k id) (hst : s.Retires t) : t.Finished c k id := by
  refine ⟨State.req?_eq_none_iff.mpr fun r hr heq => ?_, fun o ho heq => ?_⟩
  · obtain ⟨r', hr', e⟩ := hst.reqs r hr
    exact State.req?_eq_none_iff.mp h.req r' hr' (e.trans heq)
  · obtain ⟨o', ho', e, hdone⟩ := hst.outs c k o ho
    exact hdone (h.outs o' ho' (e.trans heq))

theorem State.finished_loadBack (s : State) (c k id : Nat) : (s.loadBack c k id).Finished c k id := by
  refine State.Finished.retires ⟨State.req?_eq_none_iff.mpr fun r hr => ?_, fun o ho => ?_⟩ (s.retires_loadBack c k id).2
  · simpa using (List.mem_filter.mp hr).2
  · have hthread : ((s.doneFor c k id).dropReq id).thread c k = (s.thread c k).doneOut id  :=
      s.thread_modThread c k (·.doneOut id)
    rw [hthread] at ho
    exact (mem_outs_doneOut ho).1

theorem State.retires_wbAct (s : State) {x : Wb} (hx : x.plain) : s.Retires (s.wbAct x) := by
  obtain ⟨n, v, hw⟩ | ⟨k, v, hp⟩ := x.plain_cases hx
  · rw [wbAct_of_write hw]
    refine ((s.retires_clearPend x).trans ((s.clearPend x).retires_setNamed x.cid x.slot n v)).trans ?_
    unfold State.complete
    split
    · exact (State.retires_loadBack _ _ _ _).1
    · exact .refl _
  · rw [wbAct_of_push hp]
    exact s.retires_modCore _ _

/-- Every completion of a row of acts is final. -/
theorem State.finished_foldl (s : State) {acts : List Wb} (hplain : ∀ x ∈ acts, x.plain) {w : Wb} (hw : w ∈ acts) {id : Nat}
    {n : RegName} {v : BitVec n.width} (hwrite : w.act.write = some ⟨n, v⟩) (hid : w.act.completes = some id) :
    (acts.foldl State.wbAct s).Finished w.cid w.slot id := by
  obtain ⟨before, after, rfl⟩ := List.append_of_mem hw
  rw [List.foldl_append, List.foldl_cons]
  refine List.foldlRecOn (motive := fun t : State => t.Finished w.cid w.slot id) after _ ?_ fun t ht x hx =>
    ht.retires (t.retires_wbAct (hplain x (by simp [hx])))
  rw [wbAct_of_write hwrite, State.complete, hid]
  exact State.finished_loadBack _ _ _ _

/-! ### Queue registers after an act (R78) -/

/-- The queue with more elements behind its own. -/
def QReg.extend (q : QReg) (l : List Word) : QReg := { q with elems := q.elems ++ l }

theorem QReg.extend_nil (q : QReg) : q.extend [] = q := by
  rw [QReg.extend, List.append_nil]

theorem QReg.extend_extend (q : QReg) (l l' : List Word) : (q.extend l).extend l' = q.extend (l ++ l') := by
  simp only [QReg.extend, List.append_assoc]

theorem Core.queue?_push (c : Core) (j k : Nat) (v : Word) :
    (c.push j v).queue? k = (c.queue? k).map (·.extend (if j = k then [v] else [])) := by
  unfold Core.queue? Core.push
  induction c.queues with
  | nil => rfl
  | cons e l ih =>
    obtain ⟨i, q⟩ := e
    by_cases hik : i = k
    · by_cases hij : i = j
      · simp [Table.find, hik, ← hij, QReg.extend]
      · have hkj : ¬ k = j := hik ▸ hij
        simp [Table.find, hik, hkj, Ne.symm hkj, QReg.extend_nil]
    · simpa only [List.map_cons, Table.find, if_neg hik] using ih

theorem State.queues_setNamed (s : State) (c k : Nat) (n : RegName) (v : BitVec n.width) (c' : Nat) :
    ((s.setNamed c k n v).core c').queues = (s.core c').queues := by
  cases n with
  | gpr r =>
    show ((s.setReg c k r v).core c').queues = _
    unfold State.setReg
    split
    · rfl
    · split
      · rfl
      · exact s.read_modCore c c' Core.queues fun _ => rfl
  | short r =>
    show ((s.setVreg c k r v).core c').queues = _
    unfold State.setVreg
    split
    · rfl
    · exact s.read_modCore c c' Core.queues fun _ => rfl
  | long r => exact s.read_modCore c c' Core.queues fun _ => rfl

theorem State.clearPend_cores (s : State) (x : Wb) : (s.clearPend x).cores = s.cores := by
  unfold State.clearPend
  split
  · unfold State.unpend
    split <;> rfl
  · rfl

theorem State.complete_cores (s : State) (x : Wb) : (s.complete x).cores = s.cores := by
  unfold State.complete
  split
  · exact State.loadBack_cores _ _ _ _
  · rfl

/-- What an act pushes into queue register k of core c. -/
def Wb.pushes (c k : Nat) (x : Wb) : Option Word := if x.cid = c then x.act.pushed k else none

theorem Wb.pushes_of_write {x : Wb} {w : (n : RegName) × BitVec n.width} (h : x.act.write = some w) (c k : Nat) :
    x.pushes c k = none := by
  unfold WbAct.write at h
  split at h <;> cases h <;> (next hact => simp only [Wb.pushes, WbAct.pushed, hact, ite_self])

theorem State.queue?_wbAct (s : State) {x : Wb} (hx : x.plain) (c k : Nat) :
    ((s.wbAct x).core c).queue? k = ((s.core c).queue? k).map (·.extend (x.pushes c k).toList) := by
  obtain ⟨n, v, hw⟩ | ⟨j, v, hp⟩ := x.plain_cases hx
  · have hqueues : ((s.wbAct x).core c).queues = (s.core c).queues := by
      rw [wbAct_of_write hw, State.core_congr (State.complete_cores _ x), State.queues_setNamed,
        State.core_congr (s.clearPend_cores x)]
    rw [Wb.pushes_of_write hw, Core.queue?, hqueues]
    simp only [Option.toList_none, QReg.extend_nil, Option.map_id']
    rfl
  · rw [wbAct_of_push hp, State.core_modCore_eq]
    by_cases hc : c = x.cid
    · rw [if_pos hc, Core.queue?_push, Wb.pushes, if_pos hc.symm, hp, WbAct.pushed]
      split <;> rfl
    · rw [if_neg hc, Wb.pushes, if_neg (Ne.symm hc)]
      simp only [Option.toList_none, QReg.extend_nil, Option.map_id']

theorem State.queue?_foldl (s : State) {acts : List Wb} (hplain : ∀ x ∈ acts, x.plain) (c k : Nat) :
    ((acts.foldl State.wbAct s).core c).queue? k = ((s.core c).queue? k).map (·.extend (acts.filterMap (Wb.pushes c k))) := by
  induction acts generalizing s with
  | nil => simp only [List.foldl_nil, List.filterMap_nil, QReg.extend_nil, Option.map_id']
  | cons x acts ih =>
    have happend : (x :: acts).filterMap (Wb.pushes c k) = (x.pushes c k).toList ++ acts.filterMap (Wb.pushes c k) := by
      rw [List.filterMap_cons]
      cases x.pushes c k <;> rfl
    rw [List.foldl_cons, ih _ fun y hy => hplain y (List.mem_cons_of_mem _ hy),
      s.queue?_wbAct (hplain x List.mem_cons_self), Option.map_map, happend]
    simp only [Function.comp_def, QReg.extend_extend]

/-! ### The obligation -/

/-- Two writes of one register, seen from the thread of the second. -/
theorem Wb.sameReg_of_hits {x w : Wb} {n : RegName} {v : BitVec n.width} (hw : w.act.write = some ⟨n, v⟩)
    (hbound : ∀ r, n = .gpr r → r < 64) (hx : x.hits w.cid w.slot n) : x.sameReg w := by
  obtain ⟨⟨v', hx⟩, hcid, hplace⟩ := hx
  refine ⟨hcid, n.number, target_of_write hx, target_of_write hw, hplace.imp_right fun hshared => ?_⟩
  cases n with
  | gpr r =>
    have := hbound r rfl
    exact ⟨hshared, .inl this⟩
  | short r =>
    have : 32 ≤ r := hshared
    exact ⟨by simp only [RegName.number]; omega, .inr (by simp only [RegName.number]; omega)⟩
  | long r => exact ⟨by simp only [RegName.number]; omega, .inr (by simp only [RegName.number]; omega)⟩

/-- The write w stands under R75: every other write of its register in this cycle is of a higher slot, or of an earlier bundle of
the same thread. -/
def State.wins (s : State) (w : Wb) : Prop :=
  ∀ x ∈ s.wbs, x.due ≤ s.cyc → x.sameReg w → x = w ∨ w.slot < x.slot ∨ w.slot = x.slot ∧ x.seq < w.seq

theorem State.mem_due {s : State} {x : Wb} (h : x ∈ s.dueWrites ++ s.dueOthers) : x ∈ s.wbs ∧ x.due ≤ s.cyc := by
  simpa using s.due_perm.mem_iff.mp h

theorem State.not_regWrite_of_mem_dueOthers {s : State} {x : Wb} (h : x ∈ s.dueOthers) : x.regWrite = false := by
  have hx := (List.mem_filter.mp ((sortWb_perm _ _).mem_iff.mp h)).2
  simp only [Bool.and_eq_true, Bool.not_eq_true'] at hx
  exact hx.2

/-- Behind a write that stands under R75 no other write of its register is made. -/
theorem State.eq_of_hits_after {s : State} {w : Wb} (hwins : s.wins w) {n : RegName} {v : BitVec n.width}
    (hw : w.act.write = some ⟨n, v⟩) (hbound : ∀ r, n = .gpr r → r < 64) {before after : List Wb}
    (hsplit : s.dueWrites = before ++ w :: after) {x : Wb} (hx : x ∈ after ++ s.dueOthers) (hhits : x.hits w.cid w.slot n) :
    x = w := by
  have hdue := State.mem_due (s := s) (x := x) (by rw [hsplit, List.append_assoc]; simp [List.mem_append.mp hx])
  refine (hwins x hdue.1 hdue.2 (Wb.sameReg_of_hits hw hbound hhits)).resolve_right fun hlater => ?_
  obtain ⟨⟨v', hwrite⟩, hcid, -⟩ := hhits
  have hloses : x.losesTo w = true := (losesTo_iff x w).mpr (by omega)
  rcases List.mem_append.mp hx with hafter | hother
  · have hsorted : (before ++ w :: after).Pairwise (fun a b => b.losesTo a = false) := hsplit ▸ sortWb_losesTo_pairwise _
    obtain ⟨-, htail, -⟩ := List.pairwise_append.mp hsorted
    exact Bool.false_ne_true (((List.pairwise_cons.mp htail).1 x hafter).symm.trans hloses)
  · exact Bool.false_ne_true ((State.not_regWrite_of_mem_dueOthers hother).symm.trans (Wb.regWrite_of_write hwrite))

/-- A write that stands under R75 gives its register its value. -/
theorem State.named_writeBack_of_wins {s : State} (hplain : ∀ x ∈ s.wbs, x.due ≤ s.cyc → x.slot < 16 ∧ x.plain)
    (hcanon : s.CanonRegs) {w : Wb} (hmem : w ∈ s.wbs) (hdue : w.due ≤ s.cyc) (hwins : s.wins w) {n : RegName}
    {v : BitVec n.width} (hw : w.act.write = some ⟨n, v⟩) (hn : n ≠ .gpr 0) (hbound : ∀ r, n = .gpr r → r < 64) :
    s.writeBack.named w.cid w.slot n = v := by
  have hwrites : w ∈ s.dueWrites := by
    refine (sortWb_perm _ _).mem_iff.mpr (List.mem_filter.mpr ⟨hmem, ?_⟩)
    rw [decide_eq_true hdue, Wb.regWrite_of_write hw, Bool.and_self]
  obtain ⟨before, after, hsplit⟩ := List.append_of_mem hwrites
  obtain ⟨l, hback⟩ := State.writeBack_of_plain fun x hx hd => (hplain x hx hd).2
  have hacts : s.dueWrites ++ s.dueOthers = before ++ w :: (after ++ s.dueOthers) := by rw [hsplit, List.append_assoc]; rfl
  have hall : ∀ x ∈ before ++ w :: (after ++ s.dueOthers), x.slot < 16 ∧ x.plain := fun x hx =>
    have hx := State.mem_due (hacts ▸ hx)
    hplain x hx.1 hx.2
  rw [hback, hacts]
  refine State.named_foldl_of_last hcanon (hplain w hmem hdue).1 hw hn
    (fun x hx => (hall x (List.mem_append_left _ hx)).2) fun x hx => ?_
  obtain ⟨hslot, hx'⟩ := hall x (List.mem_append_right _ (List.mem_cons_of_mem _ hx))
  exact ⟨hx', hslot, or_iff_not_imp_right.mpr fun hhits =>
    State.eq_of_hits_after hwins hw hbound hsplit hx (not_not.mp hhits)⟩

theorem write_of_load {a : WbAct} {id : Nat} (h : (∃ r v, a = .load r v id) ∨ ∃ r v l, a = .vload r v l id) :
    (∃ n v, a.write = some ⟨n, v⟩) ∧ a.completes = some id := by
  obtain ⟨r, v, rfl⟩ | ⟨r, v, l, rfl⟩ := h
  · exact ⟨⟨_, _, rfl⟩, rfl⟩
  · exact ⟨write_of_target rfl, rfl⟩

theorem State.finished_writeBack {s : State} (hplain : ∀ x ∈ s.wbs, x.due ≤ s.cyc → x.plain) {w : Wb} (hmem : w ∈ s.wbs)
    (hdue : w.due ≤ s.cyc) {id : Nat} (hload : (∃ r v, w.act = .load r v id) ∨ ∃ r v l, w.act = .vload r v l id) :
    s.writeBack.Finished w.cid w.slot id := by
  obtain ⟨⟨n, v, hwrite⟩, hid⟩ := write_of_load hload
  obtain ⟨l, hback⟩ := State.writeBack_of_plain hplain
  have hw : w ∈ s.dueWrites ++ s.dueOthers :=
    s.due_perm.mem_iff.mpr (List.mem_filter.mpr ⟨hmem, decide_eq_true hdue⟩)
  have hfin := s.finished_foldl (fun x hx => hplain x (State.mem_due hx).1 (State.mem_due hx).2) hw hwrite hid
  rw [hback]
  exact ⟨hfin.req, hfin.outs⟩

/-- All pushes of the cycle enter their queue register. -/
theorem State.queue?_writeBack {s : State} (hplain : ∀ x ∈ s.wbs, x.due ≤ s.cyc → x.plain) (c k : Nat) :
    ∃ l, (s.writeBack.core c).queue? k = ((s.core c).queue? k).map (·.extend l) ∧
      l.Perm ((s.wbs.filter fun x => decide (x.due ≤ s.cyc) && decide (x.cid = c)).filterMap fun x => x.act.pushed k) := by
  obtain ⟨rest, hback⟩ := State.writeBack_of_plain hplain
  refine ⟨_, (congrArg (fun t => (t.core c).queue? k) hback).trans
    (s.queue?_foldl (fun x hx => hplain x (State.mem_due hx).1 (State.mem_due hx).2) c k), ?_⟩
  refine (s.due_perm.filterMap _).trans (List.Perm.of_eq ?_)
  rw [List.filterMap_filter, List.filterMap_filter]
  refine List.filterMap_congr fun x _ => ?_
  by_cases hd : x.due ≤ s.cyc <;> by_cases hc : x.cid = c <;> simp [Wb.pushes, hd, hc]

/-- Settles O55: the register writes of a cycle are made in an order in which the write that stands under R75 is the last of its
register; every load completes, lost or not, and nothing that follows undoes it; and each push adds its element. -/
theorem collidingWritesKeepExactlyOne : Obligations.CollidingWritesKeepExactlyOne := by
  unfold Obligations.CollidingWritesKeepExactlyOne
  intro s hdue hthreads hcores
  have hplain : ∀ x ∈ s.wbs, x.due ≤ s.cyc → x.plain := fun x hx hd => (hdue x hx hd).2
  have hstands := fun w hw hd hwins n v =>
    State.named_writeBack_of_wins (s := s) (w := w) (n := n) (v := v) hdue ⟨hthreads, hcores⟩ hw hd hwins
  refine ⟨fun w hw hd hwins => ⟨fun r v hpos h64 hputs => ?_, fun r v hputs => ?_, fun r v hputs => ?_⟩,
    fun w hw hd id hload => ?_, fun c k q hq => ?_⟩
  · exact hstands w hw hd hwins (.gpr r) v (write_of_puts hputs) (by simp; omega) fun q hq => by cases hq; exact h64
  · exact hstands w hw hd hwins (.short r) v (write_of_putsY hputs) nofun nofun
  · exact hstands w hw hd hwins (.long r) v (write_of_putsW hputs) nofun nofun
  · obtain ⟨hreq, houts⟩ := State.finished_writeBack hplain hw hd hload
    exact ⟨hreq, houts⟩
  · obtain ⟨l, hqueue, hperm⟩ := State.queue?_writeBack hplain c k
    exact ⟨l, by rw [hqueue, hq]; rfl, hperm⟩

end Sys2Proof.Machine
